-- ==== Sys2Proof/Word.lean ====
section
/-! DEFINITION. The plain types every file uses: bytes, words, and tables of a fixed number of like things. -/

namespace Sys2Proof

/-- One byte of a frame, of the presence chain or of a command's arguments. -/
abbrev Byte := BitVec 8

/-- The 16-bit lead word that begins every frame (01 section 1.2). -/
abbrev LeadWord := BitVec 16

/-- A value of the 32-bit timestamp counter (R108). -/
abbrev Time := BitVec 32

/-- A lane group index, or a lane named by 4 × port + lane (00 "Numbering conventions"). -/
abbrev Index := Fin 64

/-- A fixed number of like things. -/
abbrev Tab (α : Type) (n : Nat) := Vector α n

namespace Tab

variable {α β : Type} {n : Nat}

/-- The entry at an index. -/
def get (v : Tab α n) (i : Fin n) : α := v[i.val]'i.isLt

/-- The table with one entry replaced. -/
def set (v : Tab α n) (i : Fin n) (x : α) : Tab α n := Vector.set v i.val x i.isLt

/-- The table with one entry changed by a function. -/
def upd (v : Tab α n) (i : Fin n) (f : α → α) : Tab α n := set v i (f (get v i))

/-- The table whose entries are given by a function of the index. -/
def build (f : Fin n → α) : Tab α n := Vector.ofFn f

/-- The table with the same entry everywhere. -/
def fill (x : α) : Tab α n := Vector.replicate n x

/-- The table with every entry changed by a function. -/
def map (f : α → β) (v : Tab α n) : Tab β n := build (fun i => f (get v i))

/-- The entries in index order. -/
def list (v : Tab α n) : List α := v.toArray.toList

/-- Some entry satisfies the test. -/
def any (p : α → Bool) (v : Tab α n) : Bool := (list v).any p

end Tab

end Sys2Proof
end

