-- ==== Sys2Proof/Config.lean ====
section
/-! DEFINITION. What is fixed for the part: the constants the spec names outside the Operating Settings record, and the one free value. -/

namespace Sys2Proof.Config

/-- The agreement poll interval of 2 ms, in ns (R164). -/
def pollInterval : Nat := 2000000

/-- The miss run at which a lane sends its group to rediscover (R174, R188). -/
def missLimit : Nat := 3

/-- The length of a chain read, 130 µs, in ns (R41). -/
def chainReadTime : Nat := 130000

/-- The length of the load pulse, 2 µs, in ns (R41). -/
def loadPulseTime : Nat := 2000

/-- One shift clock of the presence chain, 1 µs, in ns (R41). -/
def shiftClockTime : Nat := 1000

/-- The part's revision code (R186). -/
def revisionCode : Nat := 1

/-- Entries of the MGA request queue (R183). -/
def requestEntries : Nat := 4

/-- Notices one READ NOTICES removes at most (R194). -/
def noticesPerRead : Nat := 8

/-- FREE VALUE: which of several own events due at one instant the part takes first. The spec gives the outcome of each
order and no order (R39, R50, R84, R85, R122, R127, R165, R171); DESIGN CHOICE, safe, log 2. -/
opaque dueChoice : Nat → Nat

end Sys2Proof.Config
end

