-- ==== Sys2Proof/Syntax.lean ====
section
/-! DEFINITION. The commands and events of the part: one constructor per row of spec/opcode_table.json. -/

namespace Sys2Proof

/-- The side of the part a lane is on (00 "Position in the system"). -/
inductive Side where
  | system
  | line
deriving DecidableEq, Repr

/-- A frame as it comes in: its lead word, and the bytes behind it, which the part passes on with a data frame (R4; log 12). -/
structure Incoming where
  lead : LeadWord
  content : List Byte
deriving DecidableEq, Repr

/-- The steps of the part, each whole and indivisible (95). A command that executes a management request names no
operands: its arguments stand in the MGA's earliest WAITING request (R184; log 7). -/
inductive Instr where
  /-- RESET_ASSERT (R20). -/
  | resetAssert
  /-- RESET_RELEASE (R20). -/
  | resetRelease
  /-- SIGNAL_DETECTED (R1) on a line receive lane. -/
  | signalDetected (port : Fin 16) (lane : Fin 4)
  /-- SIGNAL_LOST (R1) on a line receive lane. -/
  | signalLost (port : Fin 16) (lane : Fin 4)
  /-- LOCK_ACHIEVED (R2), with whether the receive pair arrives inverted. -/
  | lockAchieved (port : Fin 16) (lane : Fin 4) (inverted : Bool)
  /-- LOCK_LOST (R1): lock is lost while signal remains. -/
  | lockLost (port : Fin 16) (lane : Fin 4)
  /-- LEAD_WORD_ARRIVAL (R7) of a frame. -/
  | leadWordArrival (side : Side) (port : Fin 16) (lane : Fin 4) (frame : Incoming)
  /-- SHORT_FRAME_DISCARD (R4). -/
  | shortFrameDiscard (side : Side) (port : Fin 16) (lane : Fin 4)
  /-- DESKEW_HOLD_EXPIRY (R18) of the oldest frame held on a line receive lane. -/
  | deskewHoldExpiry (port : Fin 16) (lane : Fin 4)
  /-- PROBE_RECEIVED (R92): the frame has been received whole; its bytes after the lead word. -/
  | probeReceived (port : Fin 16) (lane : Fin 4) (rest : List Byte)
  /-- ECHO_RECEIVED (R120): the frame has been received whole; its bytes after the lead word. -/
  | echoReceived (port : Fin 16) (lane : Fin 4) (rest : List Byte)
  /-- PROBE_DEADLINE_EXPIRY (R121). -/
  | probeDeadlineExpiry (slot : Fin 8)
  /-- PROBE_DEPARTURE (R119). -/
  | probeDeparture (slot : Fin 8)
  /-- ECHO_DEPARTURE (R93) on a line transmit lane. -/
  | echoDeparture (port : Fin 16) (lane : Fin 4)
  /-- RESPONSE_DEPARTURE (R183) on a system transmit lane. -/
  | responseDeparture (port : Fin 16) (lane : Fin 4)
  /-- CONTROL_REQUEST_RECEIVED (R182): the frame has been received whole; its bytes after the target fields. -/
  | controlRequestReceived (port : Fin 16) (lane : Fin 4) (rest : List Byte)
  /-- PALERT_RISE (R43). -/
  | palertRise
  /-- INVENTORY_INTERVAL_EXPIRY (R44). -/
  | inventoryIntervalExpiry
  /-- CHAIN_READ_END (R45): the bits taken from PDATA, one with each shift clock, in the order they were taken (R41). -/
  | chainReadEnd (bits : List Bool)
  /-- LOCK_TIMER_EXPIRY (R68). -/
  | lockTimerExpiry (group : Index)
  /-- AGREEMENT_TIMER_EXPIRY (R65). -/
  | agreementTimerExpiry (group : Index)
  /-- RETRY_TIMER_EXPIRY (R79). -/
  | retryTimerExpiry (group : Index)
  /-- AGREEMENT_POLL_EXPIRY (R164). -/
  | agreementPollExpiry (group : Index)
  /-- SWEEP_STEP (R168). -/
  | sweepStep
  /-- UNKNOWN_COMMAND (R185). -/
  | unknownCommand
  /-- READ_IDENTITY (R186). -/
  | readIdentity
  /-- SET_IDENTITY (R186). -/
  | setIdentity
  /-- WRITE_PLAN_ENTRY (R22). -/
  | writePlanEntry
  /-- READ_PLAN_ENTRY (R29). -/
  | readPlanEntry
  /-- WRITE_CLASS_ENTRY (R33). -/
  | writeClassEntry
  /-- READ_CLASS_ENTRY (R33). -/
  | readClassEntry
  /-- WRITE_PROFILE (R36). -/
  | writeProfile
  /-- READ_PROFILE (R35). -/
  | readProfile
  /-- WRITE_FRAME_CLASS (R8). -/
  | writeFrameClass
  /-- READ_FRAME_CLASS (R8). -/
  | readFrameClass
  /-- WRITE_SETTINGS (R188). -/
  | writeSettings
  /-- READ_SETTINGS (R188). -/
  | readSettings
  /-- READ_GROUP (R189). -/
  | readGroup
  /-- READ_INVENTORY (R190). -/
  | readInventory
  /-- READ_NOTICES (R194). -/
  | readNotices
  /-- READ_COUNTERS (R190). -/
  | readCounters
  /-- GROUP_ACTION_HOLD (R74). -/
  | groupActionHold
  /-- GROUP_ACTION_RESUME (R76). -/
  | groupActionResume
  /-- GROUP_ACTION_RECHECK (R172). -/
  | groupActionRecheck
  /-- SWEEP_CONTROL (R170). -/
  | sweepControl
  /-- SOFT_RESET (R195). -/
  | softReset
  /-- FRAME_UNDER_WAY_END (R5) on a transmit lane, with whether a data frame arrived ended with an abort mark (R4). -/
  | frameUnderWayEnd (side : Side) (port : Fin 16) (lane : Fin 4) (abortMark : Bool)
  /-- TARGET_FIELDS_ARRIVAL (R10): bytes 2 and 3 of a system-side control frame. -/
  | targetFieldsArrival (port : Fin 16) (lane : Fin 4) (target : BitVec 16)
deriving DecidableEq, Repr

end Sys2Proof
end

