-- ==== Sys2Proof/Machine/State.lean ====
section
/-! DEFINITION. The state of the part as plain data, block by block (00 "Block overview"), its values in hardware reset, and
State.reset, the machine right after the reset line's release. -/

namespace Sys2Proof.Machine

/-! ## Lane Front -/

/-- Receive states of a lane front (R1). -/
inductive RxState where
  | dark
  | acquiring
  | locked
deriving DecidableEq, Repr

/-- One lane front: its receive state and polarity flag (R1, R2). -/
structure LaneFront where
  state : RxState
  polarity : Bool
deriving DecidableEq, Repr

/-! ## Frame Steering Unit -/

/-- Frame actions (01 section 1.3). -/
inductive Action where
  | passData
  | probe
  | echo
  | control
  | drop
deriving DecidableEq, Repr

/-- Gate states (R13). -/
inductive GateState where
  | closed
  | openVerified
  | openDegraded
deriving DecidableEq, Repr

/-- A steering map (R17), and the lane map of a record (R129). -/
inductive LaneMap where
  | straight
  | reversed
deriving DecidableEq, Repr

/-- An admitted data frame: its lead word and the content behind it, both of which it leaves with unchanged (R4; log 12), the side it
came from, the group whose gate admitted it and the lane it leaves on. -/
structure DataFrame where
  lead : LeadWord
  content : List Byte
  source : Side
  group : Index
  out : Index
deriving DecidableEq, Repr

/-- The gate's answer to a data frame: counted against an index, or admitted (R14). -/
inductive Judgement where
  | fenced (index : Index)
  | admitted (frame : DataFrame)
deriving DecidableEq, Repr

/-- The frame under reception on a system lane, where more of it is still to be judged: a control frame before its target
fields, with the gate's answer should it prove not addressed (log 11), or an addressed control frame with its target. -/
inductive SystemRx where
  | none
  | awaitingTarget (lead : LeadWord) (judgement : Judgement)
  | control (lead : LeadWord) (target : BitVec 16)
deriving DecidableEq, Repr

/-- The frame under reception on a line lane, where it is to be intercepted, with the arrival time of its lead word (R6). -/
inductive LineRx where
  | none
  | probe (arrival : Time)
  | echo (arrival : Time)
deriving DecidableEq, Repr

/-- A line-side data frame in its compensation hold, with the ns still to hold (R18). -/
structure HeldFrame where
  frame : DataFrame
  remaining : Nat
deriving DecidableEq, Repr

/-- A frame on a transmit lane: a steered data frame, or one of the part's own with all its bytes. -/
inductive TxFrame where
  | data (frame : DataFrame)
  | probe (bytes : List Byte)
  | echo (bytes : List Byte)
  | response (bytes : List Byte)
deriving DecidableEq, Repr

/-- How a frame left its lane: whole, ended with an abort mark (R15), or abandoned where it stood (R20). -/
inductive FrameEnd where
  | complete
  | aborted
  | abandoned
deriving DecidableEq, Repr

/-- One transmit lane (R5): the frame under way (none: idle fill), the data frames waiting behind inserted frames, and what
has left the lane, newest first (the model's own field, log 15). -/
structure TxLane where
  underWay : Option TxFrame
  buffer : List DataFrame
  sent : List (TxFrame × FrameEnd)
deriving DecidableEq, Repr

/-- What the FSU holds for one lane group index: gate (R13), steering map (R17), compensations by line lane offset (R18)
and fenced-frame counter (R16). -/
structure GroupPath where
  gate : GateState
  profile : Fin 8
  map : LaneMap
  comps : Tab Nat 4
  fenced : BitVec 32
deriving DecidableEq, Repr

/-- The Frame Steering Unit. -/
structure Fsu where
  classTable : Tab Action 16
  paths : Tab GroupPath 64
  malformed : BitVec 32
  systemRx : Tab SystemRx 64
  lineRx : Tab LineRx 64
  holds : Tab (List HeldFrame) 64
  lineTx : Tab TxLane 64
  systemTx : Tab TxLane 64
deriving DecidableEq, Repr

/-! ## Cabling Plan Table -/

/-- The width of a lane group (00 "Numbering conventions"). -/
inductive Width where
  | one
  | two
  | four
deriving DecidableEq, Repr

/-- The fields of a plan entry but the enabled field; also a bound copy (02 section 2.1, R30). -/
structure PlanFields where
  width : Width
  farChassis : Nat
  farUnit : Nat
  farPort : Nat
  farFirstLane : Nat
  allowed : BitVec 8
  reversal : Bool
  inversion : Bool
  lengthMin : Nat
  lengthMax : Nat
  skewLimit : Nat
  profile : Fin 8
  retry : Nat
deriving DecidableEq, Repr

/-- A plan entry (02 section 2.1). -/
structure PlanEntry where
  enabled : Bool
  fields : PlanFields
deriving DecidableEq, Repr

/-- An Admission Profile: bit c of a set stands for traffic class c (R35). -/
structure Profile where
  verified : BitVec 8
  degraded : BitVec 8
deriving DecidableEq, Repr

/-- The Cabling Plan Table with its two smaller tables. -/
structure Cpt where
  plan : Tab PlanEntry 64
  classD : Tab Nat 8
  profiles : Tab Profile 8
deriving DecidableEq, Repr

/-! ## Cable Inventory Unit -/

/-- Breakout shapes (R40). -/
inductive Shape where
  | whole
  | pair
  | quad
deriving DecidableEq, Repr

/-- An inventory record (R40). -/
structure InventoryRecord where
  present : Bool
  cls : Fin 8
  shape : Shape
  ready : Bool
  fault : Bool
  unplanned : Bool
deriving DecidableEq, Repr

/-- Kinds of port change event (R49), READY with the ready field it carries. -/
inductive PortChange where
  | arrived
  | removed
  | replaced
  | ready (isReady : Bool)
deriving DecidableEq, Repr

/-- A port change event handed on to one lane group context of its port (R49). -/
structure HandedEvent where
  group : Index
  change : PortChange
deriving DecidableEq, Repr

/-- The Cable Inventory Unit: records, marks, interval timer (none: stopped) in ns, the ns since the load pulse of the read
under way began (R40, R41, R43, R44), and the port change events handed on that their contexts have not taken, the earliest
first (R45, R49, R50; log 32). -/
structure Ciu where
  records : Tab InventoryRecord 16
  inProgress : Bool
  readPending : Bool
  timer : Option Nat
  elapsed : Nat
  handed : List HandedEvent
deriving DecidableEq, Repr

/-! ## Bring-up Controller -/

/-- The ten states of a lane group context (R55). -/
inductive GroupState where
  | unplanned
  | waiting
  | acquiring
  | discovering
  | agreeing
  | verified
  | degraded
  | quarantined
  | held
  | lost
deriving DecidableEq, Repr

/-- The reasons, in the order of their codes (R185). -/
inductive Reason where
  | none
  | noIdentity
  | cableAbsent
  | noReady
  | lockLost
  | holdLocal
  | holdRemote
  | lockTimeout
  | cableClass
  | cableShape
  | polarity
  | peerSilent
  | laneDark
  | unstable
  | pairSplit
  | splitFarEnd
  | loopback
  | wrongPeer
  | wrongLane
  | laneOrder
  | lengthShort
  | lengthLong
  | skew
  | peerRejects
  | noAgreement
deriving DecidableEq, Repr

/-- Hold origins (R53). -/
inductive HoldOrigin where
  | localHold
  | remoteHold
deriving DecidableEq, Repr

/-- Views (R87). -/
inductive View where
  | unplanned
  | pending
  | pass
  | fail
  | held
deriving DecidableEq, Repr

/-- Kinds of state timer (R53). -/
inductive TimerKind where
  | lock
  | agreement
  | retry
deriving DecidableEq, Repr

/-- A running state timer with the ns it has left (R53; log 19). -/
structure StateTimer where
  kind : TimerKind
  remaining : Nat
deriving DecidableEq, Repr

/-- A far end: chassis, unit, port and lane (R129). -/
structure FarEnd where
  chassis : Nat
  unit : Nat
  port : Nat
  lane : Nat
deriving DecidableEq, Repr

/-- What the first echo merged on a lane revealed: the far items and the return port and lane (R129, R131). -/
structure Merged where
  far : FarEnd
  back : Index
deriving DecidableEq, Repr

/-- One lane of a discovery record (R129); an unmerged lane has `merged` none. -/
structure LaneRecord where
  merged : Option Merged
  conflicted : Bool
  missRun : Nat
  echoCount : Nat
  suspect : Bool
  estimate : Option Nat
  length : Option Nat
  inverted : Bool
  comp : Option Nat
deriving DecidableEq, Repr

/-- A discovery record (R129). -/
structure DiscoveryRecord where
  lanes : Tab LaneRecord 4
  lastView : Option View
  laneMap : Option LaneMap
  skew : Option Nat
deriving DecidableEq, Repr

/-- A lane group context (R53), with the agreement poll interval of R164 (none: stopped; else the ns left). -/
structure Context where
  state : GroupState
  reason : Reason
  origin : Option HoldOrigin
  bound : Option PlanFields
  stale : Bool
  record : DiscoveryRecord
  goodCount : Nat
  timer : Option StateTimer
  poll : Option Nat
deriving DecidableEq, Repr

/-- One lane of the lane lock view (R54). -/
structure LockView where
  locked : Bool
  polarity : Bool
deriving DecidableEq, Repr

/-- The Bring-up Controller. -/
structure Buc where
  contexts : Tab Context 64
  lockView : Tab LockView 64
deriving DecidableEq, Repr

/-! ## Probe Scheduler -/

/-- Kinds of probe request (06 section 6.2). -/
inductive RequestKind where
  | burst
  | routine
  | urgent
deriving DecidableEq, Repr

/-- What a round result reports of an ECHOED lane (R125). -/
structure EchoItems where
  sendTime : Time
  raw : Nat
  arrival : Time
  far : FarEnd
  turnaround : Nat
  view : Option View
  back : Index
  order : Nat
deriving DecidableEq, Repr

/-- How a probe was settled (06 section 6.5). -/
inductive LaneOutcome where
  | missed
  | echoed (items : EchoItems)
deriving DecidableEq, Repr

/-- A request of the probe request queue; its arrival position is its place in the queue (R109). `outcomes` holds what its
round in flight has settled so far, by lane offset (R120). -/
structure ProbeRequest where
  group : Index
  kind : RequestKind
  rounds : Nat
  inFlight : Bool
  outcomes : Tab (Option LaneOutcome) 4
deriving DecidableEq, Repr

/-- The state of a slot of the Outstanding Probe Table. Port and lane follow from group and offset (R117). -/
inductive SlotState where
  | free
  | granted (group : Index) (offset : Fin 4)
  | sent (group : Index) (offset : Fin 4) (sendTime : Time) (timeout : Nat) (deadline : Time)
deriving DecidableEq, Repr

/-- A slot of the Outstanding Probe Table (R117). -/
structure Slot where
  generation : BitVec 5
  state : SlotState
deriving DecidableEq, Repr

/-- The Probe Scheduler. -/
structure Psc where
  now : Time
  queue : List ProbeRequest
  holder : Option Index
  slots : Tab Slot 8
  late : BitVec 32
deriving DecidableEq, Repr

/-! ## Echo Responder, Sweep Scheduler -/

/-- A holding echo slot (R91); its request to the transmit arbiter is that it holds. -/
structure EchoSlot where
  tag : Byte
  sendTime : Time
  arrival : Time
deriving DecidableEq, Repr

/-- Sweep modes (R166). -/
inductive SweepMode where
  | off
  | single
  | continuous
deriving DecidableEq, Repr

/-- The Sweep Scheduler (R166); the step timer in ns, none when stopped. -/
structure Sws where
  mode : SweepMode
  remaining : Nat
  position : Index
  completed : BitVec 16
  flag : Bool
  timer : Option Nat
deriving DecidableEq, Repr

/-! ## Management Agent -/

/-- The part's identity (R186). -/
structure Identity where
  chassis : Nat
  unit : Nat
  assigned : Bool
deriving DecidableEq, Repr

/-- The Operating Settings record, each field in the unit of its argument bytes (10 section 10.6). -/
structure Settings where
  probeTimeout : Nat
  discoveryRounds : Nat
  smoothing : Nat
  pathOffset : Nat
  lockTimeout : Nat
  agreementTimeout : Nat
  sweepInterval : Nat
  hysteresis : Nat
  inventoryInterval : Nat
deriving DecidableEq, Repr

/-- A management request (R182): lead word, target fields, tag, command code, arguments (as many as the argument length
names), and the system lane it arrived on. -/
structure ControlRequest where
  lead : LeadWord
  target : BitVec 16
  tag : BitVec 16
  code : Nat
  args : List Byte
  lane : Index
deriving DecidableEq, Repr

/-- The condition of an entry: WAITING, or ANSWERING with its response (R183). -/
inductive EntryState where
  | waiting
  | answering (response : List Byte)
deriving DecidableEq, Repr

/-- An entry of the MGA request queue (R183). -/
structure Entry where
  request : ControlRequest
  state : EntryState
deriving DecidableEq, Repr

/-- The Management Agent. -/
structure Mga where
  identity : Identity
  queue : List Entry
  settings : Settings
deriving DecidableEq, Repr

/-! ## Notice Queue -/

/-- The content of a notice; its kind is the constructor (R193). -/
inductive NoticeContent where
  | group (state : GroupState) (reason : Reason) (origin : Option HoldOrigin)
  | port (record : InventoryRecord)
deriving DecidableEq, Repr

/-- A notice (R193): subjects 0 to 63 are groups, 64 to 79 ports. -/
structure Notice where
  subject : Nat
  content : NoticeContent
  time : Time
  coalesced : Bool
deriving DecidableEq, Repr

/-! ## The part -/

/-- The whole part. `inReset` says that the reset line is asserted; `turn` is the model's own counter for the free value
Config.dueChoice (log 2); `pending` is the queue of commands that wait, first in first out. -/
structure State where
  inReset : Bool
  lfr : Tab LaneFront 64
  fsu : Fsu
  cpt : Cpt
  ciu : Ciu
  buc : Buc
  psc : Psc
  ers : Tab (Option EchoSlot) 64
  sws : Sws
  mga : Mga
  notices : List Notice
  turn : Nat
  pending : List Instr
deriving DecidableEq, Repr

/-- Why the part could stop: it does so for a term that is no event of it. -/
inductive Fault where
  /-- Raised by execChainReadEnd for a CHAIN_READ_END that does not carry 128 bits. Safe: no chain read ends so (R41; log 17). -/
  | illFormedCommand
deriving DecidableEq, Repr

/-- Why a command could be refused. -/
inductive Refusal where
  /-- Raised by an arm of exec whose command has no meaning yet; no arm is so. Safe. -/
  | notModelled (mnemonic : String)
deriving DecidableEq, Repr

/-! ## Values in hardware reset -/

/-- The record after clearing (R129). -/
def LaneRecord.cleared : LaneRecord where
  merged := none
  conflicted := false
  missRun := 0
  echoCount := 0
  suspect := false
  estimate := none
  length := none
  inverted := false
  comp := none

/-- The record after clearing (R129). -/
def DiscoveryRecord.cleared : DiscoveryRecord where
  lanes := Tab.fill LaneRecord.cleared
  lastView := none
  laneMap := none
  skew := none

/-- A context in hardware reset (R53). -/
def Context.reset : Context where
  state := .unplanned
  reason := .none
  origin := none
  bound := none
  stale := false
  record := DiscoveryRecord.cleared
  goodCount := 0
  timer := none
  poll := none

/-- The Frame Class Table after hardware reset (01 section 1.3). -/
def resetAction (k : Fin 16) : Action :=
  if k.val < 12 then .passData
  else if k.val = 12 then .probe
  else if k.val = 13 then .echo
  else if k.val = 14 then .control
  else .drop

/-- A gate, map, compensations and counter in hardware reset (R13, R16, R19). -/
def GroupPath.reset : GroupPath where
  gate := .closed
  profile := 0
  map := .straight
  comps := Tab.fill 0
  fenced := 0

/-- A transmit lane that sends idle fill and has sent nothing yet. -/
def TxLane.reset : TxLane where
  underWay := none
  buffer := []
  sent := []

/-- The FSU in hardware reset (R20). -/
def Fsu.reset : Fsu where
  classTable := Tab.build resetAction
  paths := Tab.fill GroupPath.reset
  malformed := 0
  systemRx := Tab.fill .none
  lineRx := Tab.fill .none
  holds := Tab.fill []
  lineTx := Tab.fill TxLane.reset
  systemTx := Tab.fill TxLane.reset

/-- The stored fields of a plan entry after hardware reset (R21). -/
def PlanFields.reset : PlanFields where
  width := .one
  farChassis := 0
  farUnit := 0
  farPort := 0
  farFirstLane := 0
  allowed := 0x01
  reversal := false
  inversion := false
  lengthMin := 0
  lengthMax := 0
  skewLimit := 0
  profile := 0
  retry := 0

/-- D after hardware reset (R32). -/
def resetD (c : Fin 8) : Nat :=
  if c.val < 2 then 4300 else if c.val < 4 then 4500 else 4900

/-- The CPT after hardware reset (R21, R32, R35). -/
def Cpt.reset : Cpt where
  plan := Tab.fill { enabled := false, fields := PlanFields.reset }
  classD := Tab.build resetD
  profiles := Tab.fill { verified := 0xFF, degraded := 0x80 }

/-- An absent record with fault and unplanned clear (R40). -/
def InventoryRecord.absent : InventoryRecord where
  present := false
  cls := 0
  shape := .whole
  ready := false
  fault := false
  unplanned := false

/-- The CIU in hardware reset (R51). -/
def Ciu.reset : Ciu where
  records := Tab.fill InventoryRecord.absent
  inProgress := false
  readPending := false
  timer := none
  elapsed := 0
  handed := []

/-- The BUC in hardware reset (R83). -/
def Buc.reset : Buc where
  contexts := Tab.fill Context.reset
  lockView := Tab.fill { locked := false, polarity := false }

/-- The PSC in hardware reset (R128). -/
def Psc.reset : Psc where
  now := 0
  queue := []
  holder := none
  slots := Tab.fill { generation := 0, state := .free }
  late := 0

/-- The SWS in hardware reset (R166). -/
def Sws.reset : Sws where
  mode := .continuous
  remaining := 0
  position := 0
  completed := 0
  flag := false
  timer := none

/-- The Operating Settings record after hardware reset (R188). -/
def Settings.reset : Settings where
  probeTimeout := 100
  discoveryRounds := 8
  smoothing := 3
  pathOffset := 48
  lockTimeout := 200
  agreementTimeout := 500
  sweepInterval := 1000
  hysteresis := 4
  inventoryInterval := 100

/-- The MGA in hardware reset (R183, R186, R188). -/
def Mga.reset : Mga where
  identity := { chassis := 4095, unit := 15, assigned := false }
  queue := []
  settings := Settings.reset

/-- The part while the reset line is asserted: every block at its hardware-reset values (R20, R51, R83, R95, R128, R166,
R183, R193). -/
def State.heldInReset : State where
  inReset := true
  lfr := Tab.fill { state := .dark, polarity := false }
  fsu := Fsu.reset
  cpt := Cpt.reset
  ciu := Ciu.reset
  buc := Buc.reset
  psc := Psc.reset
  ers := Tab.fill none
  sws := Sws.reset
  mga := Mga.reset
  notices := []
  turn := 0
  pending := []

/-- The machine right after hardware reset: the reset line has just been released, so the first chain read is under way
with its interval timer at 100 ms and the step timer runs for 1,000 µs (R20, R43, R51, R167; log 6). -/
def State.reset : State :=
  { State.heldInReset with
    inReset := false
    ciu := { Ciu.reset with inProgress := true, timer := some 100000000 }
    sws := { Sws.reset with timer := some 1000000 } }

end Sys2Proof.Machine
end

