-- ==== Sys2Proof/Machine/Ops.lean ====
section
/-! DEFINITION. The named operations over the part's fields: lanes and groups, saturating counters, coverage, views, and the
posting of notices. -/

namespace Sys2Proof.Machine

/-! ## Lanes, groups, counters -/

/-- 4 × port + lane (00 "Numbering conventions"). -/
def cell (port : Fin 16) (lane : Fin 4) : Index := ⟨4 * port.val + lane.val, by omega⟩

/-- The port of a group or lane, g div 4 (R21). -/
def portOf (g : Index) : Fin 16 := ⟨g.val / 4, by omega⟩

/-- The first lane of a group, or the lane number of a lane, g mod 4 (R21). -/
def laneOf (g : Index) : Fin 4 := ⟨g.val % 4, by omega⟩

/-- W as a number of lanes. -/
def Width.lanes : Width → Nat
  | .one => 1
  | .two => 2
  | .four => 4

/-- The lane at offset i of group g: lane g mod 4 + i of port g div 4 (R53). -/
def laneAt (g : Index) (i : Nat) : Index := ⟨(4 * (g.val / 4) + (g.val % 4 + i) % 4) % 64, by omega⟩

/-- The next index, from 63 on to 0 (R168). -/
def nextIndex (g : Index) : Index := ⟨(g.val + 1) % 64, by omega⟩

/-- One more, staying at the largest value (R12, R16, R123, R169). -/
def satInc {w : Nat} (c : BitVec w) : BitVec w := if c = BitVec.allOnes w then c else c + 1

/-- `n` more, staying at the largest value. -/
def satAdd {w : Nat} (c : BitVec w) : Nat → BitVec w
  | 0 => c
  | n + 1 => satInc (satAdd c n)

/-- A value clamped into a range (00 "Other conventions"). -/
def clamp (lo hi x : Nat) : Nat := if x < lo then lo else if hi < x then hi else x

/-- The traffic class of a lead word, bits 11-9 (01 section 1.2). -/
def trafficClass (lead : LeadWord) : Nat := (lead.extractLsb' 9 3).toNat

/-- The kind code of a lead word, bits 15-12 (01 section 1.2). -/
def kindCode (lead : LeadWord) : Fin 16 := (lead.extractLsb' 12 4).toFin

/-- The indices from 0 to 63. -/
def indices : List Index := List.finRange 64

/-! ## Single fields of State -/

/-- The context of an index. -/
def State.ctx (s : State) (g : Index) : Context := Tab.get s.buc.contexts g

/-- Change the context of an index. -/
def State.modCtx (s : State) (g : Index) (f : Context → Context) : State :=
  { s with buc := { s.buc with contexts := Tab.upd s.buc.contexts g f } }

/-- The FSU's gate, map, compensations and counter of an index. -/
def State.path (s : State) (g : Index) : GroupPath := Tab.get s.fsu.paths g

/-- Change what the FSU holds for an index. -/
def State.modPath (s : State) (g : Index) (f : GroupPath → GroupPath) : State :=
  { s with fsu := { s.fsu with paths := Tab.upd s.fsu.paths g f } }

/-- The stored plan entry of an index. -/
def State.entry (s : State) (g : Index) : PlanEntry := Tab.get s.cpt.plan g

/-- The inventory record of a group's port. -/
def State.record (s : State) (g : Index) : InventoryRecord := Tab.get s.ciu.records (portOf g)

/-- Count one malformed frame (R12). -/
def State.countMalformed (s : State) : State :=
  { s with fsu := { s.fsu with malformed := satInc s.fsu.malformed } }

/-- Count `n` fenced frames against an index (R16). -/
def State.countFenced (s : State) (g : Index) (n : Nat) : State :=
  s.modPath g fun p => { p with fenced := satAdd p.fenced n }

/-- Set the frame in reception on a system lane. -/
def State.setSystemRx (s : State) (l : Index) (r : SystemRx) : State :=
  { s with fsu := { s.fsu with systemRx := Tab.set s.fsu.systemRx l r } }

/-- Set the frame in reception on a line lane. -/
def State.setLineRx (s : State) (l : Index) (r : LineRx) : State :=
  { s with fsu := { s.fsu with lineRx := Tab.set s.fsu.lineRx l r } }

/-- The transmit lanes of a side. -/
def State.tx (s : State) : Side → Tab TxLane 64
  | .line => s.fsu.lineTx
  | .system => s.fsu.systemTx

/-- Change a transmit lane of a side. -/
def State.modTx (s : State) (side : Side) (l : Index) (f : TxLane → TxLane) : State :=
  match side with
  | .line => { s with fsu := { s.fsu with lineTx := Tab.upd s.fsu.lineTx l f } }
  | .system => { s with fsu := { s.fsu with systemTx := Tab.upd s.fsu.systemTx l f } }

/-! ## Coverage -/

/-- Entry `g`, of width W, covers lane `l`: same port, and lane g mod 4 ≤ lane < g mod 4 + W (R21). -/
def covers (g : Index) (w : Width) (l : Index) : Bool :=
  (portOf g == portOf l) && decide ((laneOf g).val ≤ (laneOf l).val)
    && decide ((laneOf l).val < (laneOf g).val + w.lanes)

/-- The group whose enabled entry covers a lane, if there is one (R14, R21). -/
def covering (plan : Tab PlanEntry 64) (l : Index) : Option Index :=
  indices.find? fun g => (Tab.get plan g).enabled && covers g (Tab.get plan g).fields.width l

/-- A lane's offset in the group that covers it: lane number minus first lane (R14). -/
def offsetIn (g l : Index) : Fin 4 := ⟨((laneOf l).val - (laneOf g).val) % 4, by omega⟩

/-! ## Views and gates by state -/

/-- The view a state advertises (R55, R87). -/
def viewOf : GroupState → View
  | .unplanned => .unplanned
  | .waiting | .acquiring | .discovering | .lost => .pending
  | .agreeing | .verified | .degraded => .pass
  | .quarantined => .fail
  | .held => .held

/-- The gate of a state (R13, R55). -/
def gateOf : GroupState → GateState
  | .verified => .openVerified
  | .degraded => .openDegraded
  | .unplanned | .waiting | .acquiring | .discovering | .agreeing | .quarantined | .held | .lost => .closed

/-- The view of a line lane, read from its covering context (R87). -/
def laneView (s : State) (l : Index) : View :=
  match covering s.cpt.plan l with
  | some g => viewOf (s.ctx g).state
  | none => .unplanned

/-- States among which a change does not abandon probe work (R56 step 2). -/
def keepsRound : GroupState → Bool
  | .agreeing | .verified | .degraded => true
  | .unplanned | .waiting | .acquiring | .discovering | .quarantined | .held | .lost => false

/-! ## Notices -/

/-- One posting taken by the Notice Queue (R193): a pending notice of the subject is rewritten in place, else a notice is
placed at the tail. -/
def postNotice (q : List Notice) (subject : Nat) (content : NoticeContent) (time : Time) : List Notice :=
  match q with
  | [] => [{ subject := subject, content := content, time := time, coalesced := false }]
  | n :: rest =>
    if n.subject = subject then { n with content := content, time := time, coalesced := true } :: rest
    else n :: postNotice rest subject content time

/-- Post the group notice of a context as it stands (R57). -/
def State.postGroup (s : State) (g : Index) : State :=
  { s with notices :=
      postNotice s.notices g.val (.group (s.ctx g).state (s.ctx g).reason (s.ctx g).origin) s.psc.now }

/-- Post the port notice of a port as its record stands (R48). -/
def State.postPort (s : State) (p : Fin 16) : State :=
  { s with notices := postNotice s.notices (64 + p.val) (.port (Tab.get s.ciu.records p)) s.psc.now }

/-- A context's state, reason or hold origin differs (R57). -/
def groupChanged (before after : Context) : Bool :=
  (before.state != after.state) || (before.reason != after.reason) || (before.origin != after.origin)

/-- At the end of an event, post the group notice of each changed context in index order (R57). -/
def postChangedGroups (before : State) (s : State) : State :=
  indices.foldl (fun t g => if groupChanged (before.ctx g) (s.ctx g) then t.postGroup g else t) s

end Sys2Proof.Machine
end

