-- ==== Sys2Proof/Machine/Delay.lean ====
section
/-! DEFINITION. Delay measurement arithmetic (chapter 8): round trip, sample, estimate, length, skew, compensation. -/

namespace Sys2Proof.Machine

/-- The largest estimate, sample and skew, in sixteenths of a ns (R154, R156). -/
def maxSixteenths : Nat := 16777215

/-- The raw round trip: arrival minus send time, modulo 2^32 (R151). -/
def rawRoundTrip (sendTime arrival : Time) : Nat := (arrival - sendTime).toNat

/-- Raw round trip minus turnaround minus path offset, exactly, before the clamp at 0 (R152). -/
def netSigned (raw turnaround offset : Nat) : Int := (raw : Int) - turnaround - offset

/-- The net round trip (R152). -/
def netRoundTrip (raw turnaround offset : Nat) : Nat := (netSigned raw turnaround offset).toNat

/-- The sample sets the lane's suspect item: net round trip below 0, or turnaround saturated (R153). -/
def sampleSuspect (raw turnaround offset : Nat) : Bool :=
  decide (netSigned raw turnaround offset < 0) || (turnaround == 65535)

/-- The one-way sample, 8 times the net round trip, at most 16,777,215 (R154). -/
def oneWaySample (net : Nat) : Nat := min (8 * net) maxSixteenths

/-- The smoothing step: E plus (v - E) divided by 2^k, truncated toward zero (R156). -/
def smooth (k E v : Nat) : Nat := ((E : Int) + Int.tdiv ((v : Int) - E) (2 ^ k)).toNat

/-- The estimate after a sample: the first sample itself, or a smoothing step (R155, R156). -/
def nextEstimate (k v : Nat) : Option Nat → Nat
  | none => v
  | some E => smooth k E v

/-- A lane takes the sample of an echo into its estimate (R150 to R156). -/
def LaneRecord.takeSample (t : Settings) (e : EchoItems) (r : LaneRecord) : LaneRecord :=
  { r with
    estimate :=
      some (nextEstimate t.smoothing (oneWaySample (netRoundTrip e.raw e.turnaround t.pathOffset)) r.estimate)
    echoCount := min (r.echoCount + 1) 16
    suspect := r.suspect || sampleSuspect e.raw e.turnaround t.pathOffset }

/-- A length in cm: floor(E × 6,250 / D), at most 65,535 (R157). -/
def lengthCm (E D : Nat) : Nat := min (E * 6250 / D) 65535

/-- The estimates of the first W lanes; a lane without one counts as 0, which no judged record has (R159). -/
def estimates (rec : DiscoveryRecord) (W : Nat) : List Nat :=
  ((List.finRange 4).filter fun i => decide (i.val < W)).map fun i => ((Tab.get rec.lanes i).estimate).getD 0

/-- The largest of a list. -/
def maxOf (l : List Nat) : Nat := l.foldl max 0

/-- The smallest of a list, 0 when it is empty. -/
def minOf : List Nat → Nat
  | [] => 0
  | x :: rest => rest.foldl min x

/-- The skew of a group: the largest estimate minus the smallest (R159). -/
def groupSkew (rec : DiscoveryRecord) (W : Nat) : Nat := maxOf (estimates rec W) - minOf (estimates rec W)

/-- A lane's compensation: (max(E) - E + 8) div 16, at most 63 (R160). -/
def compensation (maxE E : Nat) : Nat := min ((maxE - E + 8) / 16) 63

/-- Change the lanes of offset below W (R129). -/
def DiscoveryRecord.mapLanes (rec : DiscoveryRecord) (W : Nat) (f : Fin 4 → LaneRecord → LaneRecord) : DiscoveryRecord :=
  { rec with
    lanes := Tab.build fun i => if i.val < W then f i (Tab.get rec.lanes i) else Tab.get rec.lanes i }

/-- Every lane's length computed from its estimate and written (R158). -/
def withLengths (D W : Nat) (rec : DiscoveryRecord) : DiscoveryRecord :=
  rec.mapLanes W fun _ r => { r with length := r.estimate.map fun E => lengthCm E D }

/-- The skew computed and written (R159). -/
def withSkew (W : Nat) (rec : DiscoveryRecord) : DiscoveryRecord := { rec with skew := some (groupSkew rec W) }

/-- Every lane's compensation computed from its estimate and written (R160, R161). -/
def withComps (W : Nat) (rec : DiscoveryRecord) : DiscoveryRecord :=
  rec.mapLanes W fun _ r => { r with comp := r.estimate.map fun E => compensation (maxOf (estimates rec W)) E }

/-- The first window finding, in the order of R142, R143 and R176: some lane short, some lane long, skew above 16 times the
limit. -/
def lengthFinding (b : PlanFields) (rec : DiscoveryRecord) : Option Reason :=
  let lengths := ((List.finRange 4).filter fun i => decide (i.val < b.width.lanes)).map fun i => (Tab.get rec.lanes i).length
  if lengths.any (fun l => l.any fun n => decide (n < b.lengthMin)) then some .lengthShort
  else if lengths.any (fun l => l.any fun n => decide (b.lengthMax < n)) then some .lengthLong
  else none

/-- The skew is above 16 times the skew limit (R143, R159, R176). -/
def skewFinding (b : PlanFields) (rec : DiscoveryRecord) : Option Reason :=
  if rec.skew.any (fun n => decide (16 * b.skewLimit < n)) then some .skew else none

end Sys2Proof.Machine
end

