-- ==== Sys2Proof/Machine/Gate.lean ====
section
/-! DEFINITION. The admission gate, the cutting of frames under way, steering, and the transmit arbiters (01 sections 1.2, 1.5, 1.6). -/

namespace Sys2Proof.Machine

/-! ## Admission -/

/-- The set holds a traffic class. -/
def holdsClass (set : BitVec 8) (c : Nat) : Bool := set.getLsbD c

/-- A gate in a state, naming a profile, admits a traffic class (R14). -/
def admits (cpt : Cpt) (gate : GateState) (profile : Fin 8) (c : Nat) : Bool :=
  match gate with
  | .closed => false
  | .openVerified => holdsClass (Tab.get cpt.profiles profile).verified c
  | .openDegraded => holdsClass (Tab.get cpt.profiles profile).degraded c

/-- The lane offset a frame leaves on (R17). -/
def steerOffset (m : LaneMap) (W i : Nat) : Nat :=
  match m with
  | .straight => i
  | .reversed => W - 1 - i

/-- The gate's answer to a data frame whose lead word arrives on a lane of a side, by coverage, gate, profile and steering map as they
stand (R14, R17). -/
def judge (s : State) (side : Side) (l : Index) (frame : Incoming) : Judgement :=
  match covering s.cpt.plan l with
  | none => .fenced l
  | some g =>
    if admits s.cpt (s.path g).gate (s.path g).profile (trafficClass frame.lead) then
      .admitted
        { lead := frame.lead
          content := frame.content
          source := side
          group := g
          out := laneAt g (steerOffset (s.path g).map (s.entry g).fields.width.lanes (offsetIn g l).val) }
    else .fenced g

/-- Append a data frame to the buffer of its output lane on a side (R14). -/
def State.buffer (s : State) (side : Side) (f : DataFrame) : State :=
  s.modTx side f.out fun t => { t with buffer := t.buffer ++ [f] }

/-- Carry out a judgement on a frame that arrived on a lane: count it fenced; or pass it to its line transmit lane; or hold it for its
line lane's compensation (R14, R18). -/
def State.handle (s : State) (l : Index) : Judgement → State
  | .fenced g => s.countFenced g 1
  | .admitted f =>
    match f.source with
    | .system => s.buffer .line f
    | .line =>
      let ns := Tab.get (s.path f.group).comps (offsetIn f.group l)
      { s with fsu := { s.fsu with
          holds := Tab.upd s.fsu.holds l fun h => h ++ [{ frame := f, remaining := ns }] } }

/-! ## Cutting (R15) -/

/-- A lane after frames the test does not keep are cut from its buffer and from under way; each leaves with an abort mark. A frame cut while
it waits in the buffer leaves at once, ahead of an inserted frame under way: R15 does not say when (the model's choice, log 28). -/
def TxLane.cut (keep : DataFrame → Bool) (t : TxLane) : TxLane where
  underWay :=
    match t.underWay with
    | some (.data f) => if keep f then t.underWay else none
    | other => other
  buffer := t.buffer.filter keep
  sent :=
    (t.buffer.filter fun f => !keep f).reverse.map (fun f => (TxFrame.data f, FrameEnd.aborted))
      ++ (match t.underWay with
          | some (.data f) => if keep f then [] else [(TxFrame.data f, FrameEnd.aborted)]
          | _ => [])
      ++ t.sent

/-- How many frames a lane loses to a cut. -/
def TxLane.cutCount (keep : DataFrame → Bool) (t : TxLane) : Nat :=
  (t.buffer.filter fun f => !keep f).length
    + (match t.underWay with
       | some (.data f) => if keep f then 0 else 1
       | _ => 0)

/-- The frames a deskew list loses to a cut. -/
def cutHeld (keep : DataFrame → Bool) (h : List HeldFrame) : List DataFrame :=
  (h.filter fun x => !keep x.frame).map HeldFrame.frame

/-- All the frames cut out of deskew holds leave their system lanes at once, aborted (R18). -/
def heldCutFrames (keep : DataFrame → Bool) (fsu : Fsu) : List DataFrame :=
  (Tab.list fsu.holds).flatMap (cutHeld keep)

/-- The number of frames a cut discards. -/
def cutTotal (keep : DataFrame → Bool) (fsu : Fsu) : Nat :=
  (((Tab.list fsu.lineTx).map (TxLane.cutCount keep)).sum + ((Tab.list fsu.systemTx).map (TxLane.cutCount keep)).sum)
    + (heldCutFrames keep fsu).length

/-- A waiting judgement of a control frame under a cut: it would now be fenced, and counts only if the frame proves not addressed
(log 11). -/
def SystemRx.cut (keep : DataFrame → Bool) : SystemRx → SystemRx
  | .awaitingTarget lead (.admitted f) => .awaitingTarget lead (if keep f then .admitted f else .fenced f.group)
  | r => r

/-- Every frame under way that the test does not keep is cut: in both directions, arriving, leaving or held (R15). -/
def Fsu.cut (keep : DataFrame → Bool) (fsu : Fsu) : Fsu :=
  { fsu with
    systemRx := Tab.map (SystemRx.cut keep) fsu.systemRx
    holds := Tab.map (fun h => h.filter fun x => keep x.frame) fsu.holds
    lineTx := Tab.map (TxLane.cut keep) fsu.lineTx
    systemTx :=
      Tab.build fun l =>
        let t := TxLane.cut keep (Tab.get fsu.systemTx l)
        { t with
          sent :=
            ((heldCutFrames keep fsu).filter fun f => f.out == l).reverse.map (fun f => (TxFrame.data f, FrameEnd.aborted))
              ++ t.sent } }

/-- Write the gate of a group: state and, if one is given, profile index; then test its frames under way again, cut those it does
not admit and count each once against the group (R13, R15). -/
def State.writeGate (s : State) (g : Index) (gate : GateState) (profile : Option (Fin 8)) : State :=
  let s := s.modPath g fun p => { p with gate := gate, profile := profile.getD p.profile }
  let keep := fun f : DataFrame => (f.group != g) || admits s.cpt (s.path g).gate (s.path g).profile (trafficClass f.lead)
  ({ s with fsu := s.fsu.cut keep }).countFenced g (cutTotal keep s.fsu)

/-! ## The transmit arbiters (R5) -/

/-- A granted probe waits at a line transmit lane. -/
def probeWaits (psc : Psc) (l : Index) : Bool :=
  Tab.any (fun sl => match sl.state with
    | .granted g i => laneAt g i.val == l
    | _ => false) psc.slots

/-- An entry of the request queue answers on a system lane. -/
def Entry.answersOn (e : Entry) (l : Index) : Bool :=
  match e.state with
  | .answering _ => e.request.lane == l
  | .waiting => false

/-- An inserted frame waits at a transmit lane and goes before the next data frame (R5). -/
def insertedWaits (s : State) : Side → Index → Bool
  | .line, l => (Tab.get s.ers l).isSome || probeWaits s.psc l
  | .system, l => s.mga.queue.any fun e => e.answersOn l

/-- A free lane with no inserted frame waiting takes its next data frame (R5). -/
def TxLane.takeData (inserted : Bool) (t : TxLane) : TxLane :=
  match t.underWay, inserted, t.buffer with
  | none, false, f :: rest => { t with underWay := some (.data f), buffer := rest }
  | _, _, _ => t

/-- Every transmit arbiter gives a free lane to the next data frame where no inserted frame waits (R5; log 23). -/
def State.arbitrate (s : State) : State :=
  { s with fsu := { s.fsu with
      lineTx := Tab.build fun l => (Tab.get s.fsu.lineTx l).takeData (insertedWaits s .line l)
      systemTx := Tab.build fun l => (Tab.get s.fsu.systemTx l).takeData (insertedWaits s .system l) } }

/-- A transmit lane is free. -/
def laneFree (s : State) (side : Side) (l : Index) : Bool := (Tab.get (s.tx side) l).underWay.isNone

/-- Put one of the part's own frames under way on a lane. -/
def State.send (s : State) (side : Side) (l : Index) (f : TxFrame) : State :=
  s.modTx side l fun t => { t with underWay := some f }

end Sys2Proof.Machine
end

