-- ==== Sys2Proof/Machine/Scheduler.lean ====
section
/-! DEFINITION. The Probe Scheduler's own operations (chapter 6): posting, abandonment, the arbiter's grant attempts, and the settling
of a slot. -/

namespace Sys2Proof.Machine

/-! ## The queue and the slots -/

/-- The group whose probe a slot holds. -/
def SlotState.group : SlotState → Option Index
  | .free => none
  | .granted g _ => some g
  | .sent g _ _ _ _ => some g

/-- The group and lane offset of the probe a slot holds. -/
def SlotState.probe : SlotState → Option (Index × Fin 4)
  | .free => none
  | .granted g i => some (g, i)
  | .sent g i _ _ _ => some (g, i)

/-- The request of a group, if the queue holds one (R109). -/
def findRequest (q : List ProbeRequest) (g : Index) : Option ProbeRequest := q.find? fun r => r.group == g

/-- The queue holds a request for a group. -/
def hasRequest (q : List ProbeRequest) (g : Index) : Bool := q.any fun r => r.group == g

/-- Change the request of a group in place. -/
def modRequest (q : List ProbeRequest) (g : Index) (f : ProbeRequest → ProbeRequest) : List ProbeRequest :=
  q.map fun r => if r.group = g then f r else r

/-- The queue without the request of a group (R111). -/
def dropRequest (q : List ProbeRequest) (g : Index) : List ProbeRequest := q.filter fun r => r.group != g

/-- The request a posting makes (R110): rounds remaining N_disc for a BURST, 1 otherwise. -/
def newRequest (g : Index) (kind : RequestKind) (nDisc : Nat) : ProbeRequest where
  group := g
  kind := kind
  rounds := match kind with
    | .burst => nDisc
    | .routine | .urgent => 1
  inFlight := false
  outcomes := Tab.fill none

/-- An URGENT posting upgrades a ROUTINE request in place (R110). -/
def ProbeRequest.upgrade (r : ProbeRequest) : ProbeRequest :=
  match r.kind with
  | .routine => { r with kind := .urgent }
  | .burst | .urgent => r

/-- A posting (R110). -/
def postRequest (g : Index) (kind : RequestKind) (nDisc : Nat) (psc : Psc) : Psc :=
  if hasRequest psc.queue g then
    match kind with
    | .urgent => { psc with queue := modRequest psc.queue g ProbeRequest.upgrade }
    | .burst | .routine => psc
  else { psc with queue := psc.queue ++ [newRequest g kind nDisc] }

/-- A slot freed if it holds a probe of the group; its generation stays (R126). -/
def Slot.freeIf (g : Index) (sl : Slot) : Slot :=
  if sl.state.group = some g then { sl with state := .free } else sl

/-- Release the burst holder mark if the group holds it (R116). -/
def releaseHolder (g : Index) (holder : Option Index) : Option Index := if holder = some g then none else holder

/-- Abandonment of a group's probe work (R126 steps 1 to 4; step 5 comes at the end of the event, log 10). -/
def abandonProbes (g : Index) (psc : Psc) : Psc :=
  { psc with
    slots := Tab.map (Slot.freeIf g) psc.slots
    queue := dropRequest psc.queue g
    holder := releaseHolder g psc.holder }

/-! ## The arbiter -/

/-- The numbers of the FREE slots, lowest first. -/
def freeSlots (psc : Psc) : List (Fin 8) := (List.finRange 8).filter fun k => (Tab.get psc.slots k).state == .free

/-- The candidate of a grant attempt (R113): the earliest URGENT not in flight; else the burst holder if not in flight; else the
earliest request not in flight. -/
def candidate (psc : Psc) : Option ProbeRequest :=
  match psc.queue.find? fun r => (r.kind == .urgent) && !r.inFlight with
  | some r => some r
  | none =>
    match psc.queue.find? fun r => (some r.group == psc.holder) && !r.inFlight with
    | some r => some r
    | none => psc.queue.find? fun r => !r.inFlight

/-- The slots to keep free for the burst holder when the candidate is granted (R114): the holder's width while the holder is in
flight and the candidate is neither the holder nor URGENT. -/
def reservation (width : Index → Nat) (psc : Psc) (c : ProbeRequest) : Nat :=
  match psc.holder with
  | none => 0
  | some h =>
    if h ≠ c.group ∧ c.kind ≠ .urgent ∧ psc.queue.any (fun r => (r.group == h) && r.inFlight) then width h else 0

/-- The grant test (R114). -/
def grantable (width : Index → Nat) (psc : Psc) (c : ProbeRequest) : Bool :=
  decide (width c.group + reservation width psc c ≤ (freeSlots psc).length)

/-- Take one slot for a lane offset: the lowest FREE one, its generation advanced modulo 32 (R118). -/
def takeSlot (g : Index) (i : Fin 4) (slots : Tab Slot 8) : Tab Slot 8 :=
  match (List.finRange 8).find? fun k => (Tab.get slots k).state == .free with
  | some k => Tab.upd slots k fun sl => { generation := sl.generation + 1, state := .granted g i }
  | none => slots

/-- Take one slot for each lane offset from 0 to W - 1 in turn (R118). -/
def takeSlots (g : Index) (W : Nat) (slots : Tab Slot 8) : Tab Slot 8 :=
  ((List.finRange 4).filter fun i => decide (i.val < W)).foldl (fun t i => takeSlot g i t) slots

/-- Grant a round to a request (R116, R118). -/
def grantRound (W : Nat) (c : ProbeRequest) (psc : Psc) : Psc :=
  { psc with
    holder := if c.kind = .burst ∧ psc.holder = none then some c.group else psc.holder
    slots := takeSlots c.group W psc.slots
    queue := modRequest psc.queue c.group fun r => { r with inFlight := true, outcomes := Tab.fill none } }

/-- Grant attempts until a candidate fails or none is left (R112, R115), at most `fuel` grants. -/
def grantLoop (width : Index → Nat) : Nat → Psc → Psc
  | 0, psc => psc
  | fuel + 1, psc =>
    match candidate psc with
    | none => psc
    | some c => if grantable width psc c then grantLoop width fuel (grantRound (width c.group) c psc) else psc

/-- The width of a group's bound copy (R113); a context without one posts no requests (log 18). -/
def boundWidth (s : State) (g : Index) : Nat := ((s.ctx g).bound.elim Width.one PlanFields.width).lanes

/-- The arbiter's grant attempts (R112). A grant takes at least one of eight slots, so there are at most eight grants. -/
def State.grant (s : State) : State := { s with psc := grantLoop (boundWidth s) 8 s.psc }

/-! ## Settling -/

/-- Free a slot. -/
def freeSlot (k : Fin 8) (psc : Psc) : Psc := { psc with slots := Tab.upd psc.slots k fun sl => { sl with state := .free } }

/-- Store the outcome of a lane of a group's round (R120, R121). -/
def storeOutcome (g : Index) (i : Fin 4) (o : LaneOutcome) (psc : Psc) : Psc :=
  { psc with queue := modRequest psc.queue g fun r => { r with outcomes := Tab.set r.outcomes i (some o) } }

/-- The number of echoes a round has taken so far. -/
def echoesTaken (outcomes : Tab (Option LaneOutcome) 4) : Nat :=
  ((Tab.list outcomes).filter fun o => match o with
    | some (.echoed _) => true
    | _ => false).length

/-- No slot holds a probe of the group: its round has no unsettled probe (R124). -/
def roundSettled (g : Index) (psc : Psc) : Bool := !Tab.any (fun sl => sl.state.group == some g) psc.slots

/-- A round result (R125). -/
structure RoundResult where
  group : Index
  kind : RequestKind
  rounds : Nat
  outcomes : Tab (Option LaneOutcome) 4
deriving DecidableEq, Repr

/-- The end of a round of a request (R124 steps 1 and 2): not in flight, one round fewer, and removed with its holder mark when none is left
or it is no BURST. Answers the result of R125. -/
def endRound (r : ProbeRequest) (psc : Psc) : Psc × RoundResult :=
  let left := r.rounds - 1
  let result : RoundResult := { group := r.group, kind := r.kind, rounds := left, outcomes := r.outcomes }
  if left = 0 then
    ({ psc with queue := dropRequest psc.queue r.group, holder := releaseHolder r.group psc.holder }, result)
  else
    ({ psc with queue := modRequest psc.queue r.group fun x => { x with inFlight := false, rounds := left } }, result)

/-! ## Probes -/

/-- An echo's match with the slot its tag names (R120): SENT, same generation, same send time, on time. Answers group, offset and raw
round trip. -/
def matchEcho (psc : Psc) (slot : Fin 8) (generation : BitVec 5) (sendTime arrival : Time) : Option (Index × Fin 4 × Nat) :=
  match (Tab.get psc.slots slot).state with
  | .sent g i t timeout _ =>
    if (Tab.get psc.slots slot).generation = generation ∧ t = sendTime ∧ (arrival - t).toNat < timeout then
      some (g, i, (arrival - t).toNat)
    else none
  | _ => none

/-- The slot of a probe whose lead word departs now (R119). -/
def sentSlot (now : Time) (timeoutNs : Nat) (g : Index) (i : Fin 4) : SlotState :=
  .sent g i now timeoutNs (now + BitVec.ofNat 32 timeoutNs)

end Sys2Proof.Machine
end

