-- ==== Sys2Proof/Machine/Contexts.lean ====
section
/-! DEFINITION. The Bring-up Controller's changes of state (chapter 4) and what an applied view does (05 section 5.6). -/

namespace Sys2Proof.Machine

/-! ## Changes of state -/

/-- Milliseconds in ns. -/
def msToNs (n : Nat) : Nat := 1000000 * n

/-- Microseconds in ns. -/
def usToNs (n : Nat) : Nat := 1000 * n

/-- The state timer that entry to a state starts, its duration read at the entry (R61, R65, R66, R78). -/
def entryTimer (t : Settings) (bound : Option PlanFields) : GroupState → Option StateTimer
  | .acquiring | .lost => some { kind := .lock, remaining := msToNs t.lockTimeout }
  | .agreeing => some { kind := .agreement, remaining := msToNs t.agreementTimeout }
  | .quarantined =>
    match bound with
    | some b => if b.retry = 0 then none else some { kind := .retry, remaining := 1000 * msToNs b.retry }
    | none => none
  | .unplanned | .waiting | .discovering | .verified | .degraded | .held => none

/-- The record and good-recheck count on entry to a state (R60, R63, R130): cleared in UNPLANNED and WAITING; cleared in DISCOVERING,
with the polarity flags of the group's lanes. -/
def entryRecord (s : State) (g : Index) (c : Context) : GroupState → DiscoveryRecord
  | .unplanned | .waiting => DiscoveryRecord.cleared
  | .discovering =>
    DiscoveryRecord.cleared.mapLanes (c.bound.elim Width.one PlanFields.width).lanes fun i r =>
      { r with inverted := (Tab.get s.buc.lockView (laneAt g i.val)).polarity }
  | .acquiring | .agreeing | .verified | .degraded | .quarantined | .held | .lost => c.record

/-- The good-recheck count on entry to a state (R53): set to 0 at entry to DISCOVERING, WAITING and UNPLANNED. -/
def entryGoodCount (c : Context) : GroupState → Nat
  | .unplanned | .waiting | .discovering => 0
  | .acquiring | .agreeing | .verified | .degraded | .quarantined | .held | .lost => c.goodCount

/-- The context after entry to a state (R56 steps 1, 3 and 5): timers of the old state stopped, reason and hold origin set, record, count and
timers of the new state. -/
def enterContext (s : State) (g : Index) (st : GroupState) (reason : Reason) (origin : Option HoldOrigin) (c : Context) :
    Context :=
  { c with
    state := st
    reason := reason
    origin := origin
    record := entryRecord s g c st
    goodCount := entryGoodCount c st
    timer := entryTimer s.mga.settings c.bound st
    poll := if st = .agreeing then some Config.pollInterval else none }

/-- A change of state of context g (R56): timers stopped, probe work abandoned unless the new state keeps a round, hold origin set, gate written with
the profile of the bound copy, entry actions taken. Entry to DISCOVERING posts the burst (R63). -/
def State.enter (s : State) (g : Index) (st : GroupState) (reason : Reason) (origin : Option HoldOrigin) : State :=
  let s := if keepsRound st then s else { s with psc := abandonProbes g s.psc }
  let s := s.modCtx g (enterContext s g st reason origin)
  let s := s.writeGate g (gateOf st) ((s.ctx g).bound.map PlanFields.profile)
  if st = .discovering then { s with psc := postRequest g .burst s.mga.settings.discoveryRounds s.psc } else s

/-- "All lanes locked" of a context (R54). -/
def allLocked (s : State) (g : Index) : Bool :=
  (List.range (boundWidth s g)).all fun i => (Tab.get s.buc.lockView (laneAt g i)).locked

/-- Entry to ACQUIRING, and on to DISCOVERING in the same event if all lanes are locked (R61). -/
def State.enterAcquiring (s : State) (g : Index) : State :=
  let s := s.enter g .acquiring .none none
  if allLocked s g then s.enter g .discovering .none none else s

/-- The start test (R59): the reason to wait, or none if it passes. -/
def startTest (s : State) (g : Index) : Option Reason :=
  if !s.mga.identity.assigned then some .noIdentity
  else if !(s.record g).present then some .cableAbsent
  else if !(s.record g).ready then some .noReady
  else none

/-- The start test applied (R59, R60): a WAITING context keeps its state and takes the reason; another enters WAITING; a context that passes enters
ACQUIRING. -/
def State.applyStart (s : State) (g : Index) : State :=
  match startTest s g with
  | none => s.enterAcquiring g
  | some r =>
    if (s.ctx g).state = .waiting then s.modCtx g fun c => { c with reason := r } else s.enter g .waiting r none

/-- Entry to QUARANTINED (R78). -/
def State.quarantine (s : State) (g : Index) (r : Reason) : State := s.enter g .quarantined r none

/-- Entry to HELD with origin REMOTE (R77). -/
def State.holdRemote (s : State) (g : Index) : State := s.enter g .held .holdRemote (some .remoteHold)

/-! ## Lane events (R54, R62, R66, R67, R69) -/

/-- A LOCK event at the covering context: ACQUIRING or LOST goes to DISCOVERING when all lanes are locked. -/
def State.contextLock (s : State) (g : Index) : State :=
  match (s.ctx g).state with
  | .acquiring | .lost => if allLocked s g then s.enter g .discovering .none none else s
  | .unplanned | .waiting | .discovering | .agreeing | .verified | .degraded | .quarantined | .held => s

/-- A LOSS event at the covering context: DISCOVERING, AGREEING, VERIFIED and DEGRADED go to LOST. -/
def State.contextLoss (s : State) (g : Index) : State :=
  match (s.ctx g).state with
  | .discovering | .agreeing | .verified | .degraded => s.enter g .lost .lockLost none
  | .unplanned | .waiting | .acquiring | .quarantined | .held | .lost => s

/-- Set the lane lock view of a lane. -/
def State.setLockView (s : State) (l : Index) (v : LockView) : State :=
  { s with buc := { s.buc with lockView := Tab.set s.buc.lockView l v } }

/-- A LOCK event: the view first, then the covering context, if there is one (R54). -/
def State.lockEvent (s : State) (l : Index) (polarity : Bool) : State :=
  let s := s.setLockView l { locked := true, polarity := polarity }
  match covering s.cpt.plan l with
  | some g => s.contextLock g
  | none => s

/-- A LOSS event: the locked flag is cleared and the polarity flag stays; then the covering context (R54). -/
def State.lossEvent (s : State) (l : Index) : State :=
  let s := s.setLockView l { locked := false, polarity := (Tab.get s.buc.lockView l).polarity }
  match covering s.cpt.plan l with
  | some g => s.contextLoss g
  | none => s

/-! ## Port change events (R49, R70 to R72) -/

/-- A planned context that a port change event takes to WAITING (R70, R72), whatever the record then shows: with the event's reason, behind
NO_IDENTITY in the order of the start test (R59). -/
def State.toWaiting (s : State) (g : Index) (r : Reason) : State :=
  s.enter g .waiting (if s.mga.identity.assigned then r else .noIdentity) none

/-- A context takes a port change event, the record already being the new one (R60, R70, R71, R72). -/
def State.portChange (s : State) (g : Index) (e : PortChange) : State :=
  match (s.ctx g).state with
  | .unplanned => s
  | .waiting => s.applyStart g
  | .held =>
    match e with
    | .removed => s.toWaiting g .cableAbsent
    | .arrived | .replaced | .ready _ => s
  | .acquiring | .discovering | .agreeing | .verified | .degraded | .quarantined | .lost =>
    match e with
    | .removed => s.toWaiting g .cableAbsent
    | .ready false => s.toWaiting g .noReady
    | .replaced => s.applyStart g
    | .arrived | .ready true => s

/-! ## Applied views (R101 to R106) -/

/-- A view that has passed its test is applied to context g in the state it has. -/
def State.applyView (s : State) (g : Index) (v : View) : State :=
  match (s.ctx g).state with
  | .discovering => s.modCtx g fun c => { c with record := { c.record with lastView := some v } }
  | .agreeing =>
    match v with
    | .pass => s.enter g .verified .none none
    | .pending => s
    | .fail | .unplanned => s.quarantine g .peerRejects
    | .held => s.holdRemote g
  | .verified | .degraded =>
    match v with
    | .pass => s
    | .pending => s.enter g .agreeing .none none
    | .fail | .unplanned => s.quarantine g .peerRejects
    | .held => s.holdRemote g
  | .held =>
    match (s.ctx g).origin, v with
    | some .remoteHold, .pass | some .remoteHold, .pending | some .remoteHold, .fail | some .remoteHold, .unplanned =>
      s.applyStart g
    | _, _ => s
  | .quarantined =>
    match v with
    | .held => s.holdRemote g
    | .pass | .pending | .fail | .unplanned => s
  | .unplanned | .waiting | .acquiring | .lost => s

/-- The acceptance test of a probe view report (R99). -/
def acceptsReport (s : State) (g l : Index) (sender : FarEnd) : Bool :=
  match (Tab.get (s.ctx g).record.lanes (offsetIn g l)).merged with
  | some m =>
    (m.far == sender)
      && !((sender.chassis == s.mga.identity.chassis) && (sender.unit == s.mga.identity.unit))
  | none => false

/-- A probe view report for a local receive lane (R96, R99). -/
def State.viewReport (s : State) (l : Index) (sender : FarEnd) (view : Option View) : State :=
  match view, covering s.cpt.plan l with
  | some v, some g => if acceptsReport s g l sender then s.applyView g v else s
  | _, _ => s

/-! ## Group actions (R74, R76, R172, R79) -/

/-- GROUP ACTION HOLD on a context: the new state and whether it was applicable (R74). -/
def State.holdAction (s : State) (g : Index) : State × Bool :=
  match (s.ctx g).state with
  | .unplanned | .waiting => (s, false)
  | .held =>
    (s.modCtx g fun c => { c with reason := .holdLocal, origin := some .localHold }, true)
  | .acquiring | .discovering | .agreeing | .verified | .degraded | .quarantined | .lost =>
    (s.enter g .held .holdLocal (some .localHold), true)

/-- GROUP ACTION RESUME on a context (R76). -/
def State.resumeAction (s : State) (g : Index) : State × Bool :=
  if (s.ctx g).state = .held ∧ (s.ctx g).origin = some .localHold then (s.applyStart g, true) else (s, false)

/-- GROUP ACTION RECHECK on a context (R172, R79). -/
def State.recheckAction (s : State) (g : Index) : State × Bool :=
  match (s.ctx g).state with
  | .agreeing | .verified | .degraded | .held =>
    ({ s with psc := postRequest g .urgent s.mga.settings.discoveryRounds s.psc }, true)
  | .quarantined => (s.applyStart g, true)
  | .unplanned | .waiting | .acquiring | .discovering | .lost => (s, false)

/-! ## The end of an event -/

/-- What ends every event that reaches contexts or the scheduler: the arbiter's grant attempts (R112), the group notices (R57), and the transmit
arbiters (R5). -/
def State.endEvent (s before : State) : State := (postChangedGroups before s.grant).arbitrate

end Sys2Proof.Machine
end

