-- ==== Sys2Proof/Machine/ResetLine.lean ====
section
/-! DEFINITION. The reset line: RESET_ASSERT and RESET_RELEASE (R20), and the starts of chain reads and of the step timer that both resets share. -/

namespace Sys2Proof.Machine

/-- A frame under way is abandoned on its lane where it stands; frames waiting for the lane are gone; the lane goes idle (R20). -/
def TxLane.abandon (t : TxLane) : TxLane where
  underWay := none
  buffer := []
  sent := (match t.underWay with
    | some f => [(f, FrameEnd.abandoned)]
    | none => []) ++ t.sent

/-- A chain read starts: in-progress mark set, interval timer restarted with the interval read now (R41, R44). -/
def State.startRead (s : State) : State :=
  { s with ciu := { s.ciu with
      inProgress := true
      timer := some (msToNs s.mga.settings.inventoryInterval)
      elapsed := 0 } }

/-- A trigger of the chain read by the marks (R43). -/
def State.triggerRead (s : State) : State :=
  if s.ciu.inProgress then { s with ciu := { s.ciu with readPending := true } } else s.startRead

/-- The step timer started with the interval read now, unless the mode is OFF (R167). -/
def State.startStepTimer (s : State) : State :=
  { s with sws := { s.sws with
      timer := if s.sws.mode = .off then none else some (usToNs s.mga.settings.sweepInterval) } }

/-- The reset line is asserted: every block at its hardware-reset values; what stands on a transmit lane is abandoned (R20). -/
def State.assertReset (s : State) : State :=
  { State.heldInReset with
    fsu := { Fsu.reset with
      lineTx := Tab.map TxLane.abandon s.fsu.lineTx
      systemTx := Tab.map TxLane.abandon s.fsu.systemTx }
    turn := s.turn
    pending := s.pending }

/-- RESET_ASSERT. -/
def execResetAssert (s : State) : Host.Outcome State Fault Refusal := .next s.assertReset

/-- RESET_RELEASE: the timestamp counter goes on from 0, a chain read and the step timer start (R20, R43, R51, R167). A line that is not asserted is not
released (log 4). -/
def execResetRelease (s : State) : Host.Outcome State Fault Refusal :=
  .next (if s.inReset then ({ s with inReset := false }).triggerRead.startStepTimer else s)

/-- An event while the reset line is asserted changes nothing (R20, R41, R51, R83, R183; log 5). -/
def State.unlessReset (s : State) (f : State → State) : Host.Outcome State Fault Refusal :=
  .next (if s.inReset then s else f s)

end Sys2Proof.Machine
end

