-- ==== Sys2Proof/Machine/LaneFrontEvents.lean ====
section
/-! DEFINITION. The lane front events: SIGNAL_DETECTED, SIGNAL_LOST, LOCK_ACHIEVED, LOCK_LOST (R1 to R3). -/

namespace Sys2Proof.Machine

/-- Change a lane front. -/
def State.setFront (s : State) (l : Index) (f : LaneFront → LaneFront) : State := { s with lfr := Tab.upd s.lfr l f }

/-- The receive state of a lane. -/
def State.rx (s : State) (l : Index) : RxState := (Tab.get s.lfr l).state

/-- A lane leaves LOCKED: the frame in reception is cut, and the LOSS event follows. A data frame in reception is cut by the gate that LOST closes (R3,
R15, R66; log 13); a frame whose lead word is not whole yet has left no trace in State and counts nowhere (the model's choice, log 29). -/
def State.loseLock (s : State) (l : Index) (into : RxState) : State :=
  let t := ((s.setFront l fun f => { f with state := into }).setLineRx l .none).lossEvent l
  t.endEvent s

/-- DARK goes to ACQUIRING when signal is detected; no event is reported (R1, R3). -/
def execSignalDetected (port : Fin 16) (lane : Fin 4) (s : State) : Host.Outcome State Fault Refusal :=
  s.unlessReset fun s =>
    if s.rx (cell port lane) = .dark then s.setFront (cell port lane) fun f => { f with state := .acquiring } else s

/-- ACQUIRING or LOCKED goes to DARK when signal is lost; LOCKED also loses lock (R1, R3). -/
def execSignalLost (port : Fin 16) (lane : Fin 4) (s : State) : Host.Outcome State Fault Refusal :=
  s.unlessReset fun s =>
    match s.rx (cell port lane) with
    | .dark => s
    | .acquiring => s.setFront (cell port lane) fun f => { f with state := .dark }
    | .locked => s.loseLock (cell port lane) .dark

/-- ACQUIRING goes to LOCKED, the polarity flag set or cleared, and the LOCK event follows (R1 to R3). -/
def execLockAchieved (port : Fin 16) (lane : Fin 4) (inverted : Bool) (s : State) : Host.Outcome State Fault Refusal :=
  s.unlessReset fun s =>
    if s.rx (cell port lane) = .acquiring then
      ((s.setFront (cell port lane) fun _ => { state := .locked, polarity := inverted }).lockEvent (cell port lane)
        inverted).endEvent s
    else s

/-- LOCKED goes to ACQUIRING when lock is lost while signal remains (R1, R3). -/
def execLockLost (port : Fin 16) (lane : Fin 4) (s : State) : Host.Outcome State Fault Refusal :=
  s.unlessReset fun s => if s.rx (cell port lane) = .locked then s.loseLock (cell port lane) .acquiring else s

end Sys2Proof.Machine
end

