-- ==== Sys2Proof/Machine/Flags.lean ====
section
/-! DEFINITION. The codes and flag bytes in which states, reasons, views, actions and statuses travel (R42, R88, R185, R189, R190). -/

namespace Sys2Proof.Machine

/-- A byte holding a number. -/
def byte (n : Nat) : Byte := BitVec.ofNat 8 n

/-- A bit as a number. -/
def bit (b : Bool) : Nat := if b then 1 else 0

/-- State codes (R185). -/
def GroupState.code : GroupState → Nat
  | .unplanned => 0
  | .waiting => 1
  | .acquiring => 2
  | .discovering => 3
  | .agreeing => 4
  | .verified => 5
  | .degraded => 6
  | .quarantined => 7
  | .held => 8
  | .lost => 9

/-- Reason codes (R185). -/
def Reason.code : Reason → Nat
  | .none => 0
  | .noIdentity => 1
  | .cableAbsent => 2
  | .noReady => 3
  | .lockLost => 4
  | .holdLocal => 5
  | .holdRemote => 6
  | .lockTimeout => 7
  | .cableClass => 8
  | .cableShape => 9
  | .polarity => 10
  | .peerSilent => 11
  | .laneDark => 12
  | .unstable => 13
  | .pairSplit => 14
  | .splitFarEnd => 15
  | .loopback => 16
  | .wrongPeer => 17
  | .wrongLane => 18
  | .laneOrder => 19
  | .lengthShort => 20
  | .lengthLong => 21
  | .skew => 22
  | .peerRejects => 23
  | .noAgreement => 24

/-- Hold origin codes (R185). -/
def originCode : Option HoldOrigin → Nat
  | none => 0
  | some .localHold => 1
  | some .remoteHold => 2

/-- View codes (R88). -/
def View.code : View → Nat
  | .unplanned => 0
  | .pending => 1
  | .pass => 2
  | .fail => 3
  | .held => 4

/-- A view field; codes 5 to 255 name no view (R88). -/
def viewOfCode (b : Byte) : Option View :=
  match b.toNat with
  | 0 => some .unplanned
  | 1 => some .pending
  | 2 => some .pass
  | 3 => some .fail
  | 4 => some .held
  | _ => none

/-- A view in a result, 255 for none (R185). -/
def viewByte : Option View → Nat
  | some v => v.code
  | none => 255

/-- Frame action codes (R185). -/
def Action.code : Action → Nat
  | .passData => 0
  | .probe => 1
  | .echo => 2
  | .control => 3
  | .drop => 4

/-- A written action code; above 4 none (R187). -/
def actionOfCode (b : Byte) : Option Action :=
  match b.toNat with
  | 0 => some .passData
  | 1 => some .probe
  | 2 => some .echo
  | 3 => some .control
  | 4 => some .drop
  | _ => none

/-- Sweep mode codes (R185). -/
def SweepMode.code : SweepMode → Nat
  | .off => 0
  | .single => 1
  | .continuous => 2

/-- A written mode code; above 2 none (R192). -/
def modeOfCode (b : Byte) : Option SweepMode :=
  match b.toNat with
  | 0 => some .off
  | 1 => some .single
  | 2 => some .continuous
  | _ => none

/-- Shape codes (R42). -/
def Shape.code : Shape → Nat
  | .whole => 0
  | .pair => 1
  | .quad => 2

/-- Gate state codes (R189). -/
def GateState.code : GateState → Nat
  | .closed => 0
  | .openVerified => 1
  | .openDegraded => 2

/-- Steering map codes (R189). -/
def LaneMap.code : LaneMap → Nat
  | .straight => 0
  | .reversed => 1

/-- A lane map in a result, 255 for none (R189). -/
def laneMapByte : Option LaneMap → Nat
  | some m => m.code
  | none => 255

/-- Receive state codes (R189). -/
def RxState.code : RxState → Nat
  | .dark => 0
  | .acquiring => 1
  | .locked => 2

/-- State timer codes, none 0 (R189). -/
def timerCode : Option StateTimer → Nat
  | none => 0
  | some t =>
    match t.kind with
    | .lock => 1
    | .agreement => 2
    | .retry => 3

/-- The statuses of a response (R185). -/
inductive Status where
  | ok
  | unknownCommand
  | badArgument
  | notApplicable
deriving DecidableEq, Repr

/-- Status codes (R185). -/
def Status.code : Status → Nat
  | .ok => 0
  | .unknownCommand => 1
  | .badArgument => 2
  | .notApplicable => 3

/-- The detail reasons (R185). -/
inductive Detail where
  | none
  | width
  | align
  | overlap
  | farId
  | classSet
  | window
  | skewLimit
  | profile
  | lockedWidth
  | index
  | subset
  | kindMap
  | identity
  | length
  | action
  | mode
deriving DecidableEq, Repr

/-- Detail reason codes (R185). -/
def Detail.code : Detail → Nat
  | .none => 0
  | .width => 1
  | .align => 2
  | .overlap => 3
  | .farId => 4
  | .classSet => 5
  | .window => 6
  | .skewLimit => 7
  | .profile => 8
  | .lockedWidth => 9
  | .index => 10
  | .subset => 11
  | .kindMap => 12
  | .identity => 13
  | .length => 14
  | .action => 15
  | .mode => 16

/-- What a command answers: status, detail reason and result (R184, R185). -/
structure Reply where
  status : Status
  detail : Detail
  result : List Byte
deriving DecidableEq, Repr

/-- A reply with status OK. -/
def Reply.ok (result : List Byte) : Reply := { status := .ok, detail := .none, result := result }

/-- A refusal that carries no result. -/
def Reply.refuse (d : Detail) : Reply := { status := .badArgument, detail := d, result := [] }

/-- The attention flag, bit 7 of a response's flags byte: the Notice Queue holds a notice (R184). -/
def attentionFlags (s : State) : Nat := if s.notices.isEmpty then 0 else 128

/-- The kind and coalesced byte of a returned notice (R194). The kind is 0 for GROUP and 1 for PORT (the model's reading, log 24). The spec gives
bits 7-2 of the byte no value, and they are sent as 0 (the model's choice, log 35). -/
def noticeFlags (n : Notice) : Nat :=
  (match n.content with
   | .group _ _ _ => 0
   | .port _ => 2) + bit n.coalesced

/-- An inventory record in two bytes: a chain byte without its parity bit; fault and unplanned (R190). The spec gives bit 0 of the first byte, the
place of the parity bit, and bits 7-2 of the second no value, and they are sent as 0 (the model's choice, log 34). -/
def inventoryBytes (r : InventoryRecord) : List Byte :=
  [byte (128 * bit r.present + 16 * r.cls.val + 4 * r.shape.code + 2 * bit r.ready),
   byte (2 * bit r.fault + bit r.unplanned)]

/-- The kind bit for PORT is bit 1 of the flags byte; the content in three bytes (R194). -/
def contentBytes : NoticeContent → List Byte
  | .group st r o => [byte st.code, byte r.code, byte (originCode o)]
  | .port rec => inventoryBytes rec ++ [0]

end Sys2Proof.Machine
end

