-- ==== Sys2Proof/Machine/Operands.lean ====
section
/-! DEFINITION. The byte layouts of frames and arguments (01 section 1.2, 05 section 5.2, 10 sections 10.1, 10.5 and 10.6), read and
built. Multi-byte fields are most significant byte first. -/

namespace Sys2Proof.Machine

/-! ## Byte order -/

/-- The byte at a place, 0 beyond the end. -/
def at8 (bs : List Byte) (i : Nat) : Nat := (bs.getD i 0).toNat

/-- The two-byte field at a place. -/
def at16 (bs : List Byte) (i : Nat) : Nat := 256 * at8 bs i + at8 bs (i + 1)

/-- The four-byte field at a place. -/
def at32 (bs : List Byte) (i : Nat) : Nat := 65536 * at16 bs i + at16 bs (i + 2)

/-- A number in two bytes. -/
def bytes16 (n : Nat) : List Byte := [byte (n / 256), byte n]

/-- A number in four bytes. -/
def bytes32 (n : Nat) : List Byte := [byte (n / 16777216), byte (n / 65536), byte (n / 256), byte n]

/-- Chassis in bits 15-4 and unit in bits 3-0 of two bytes (10 section 10.1). -/
def identityBytes (chassis unit : Nat) : List Byte := bytes16 (16 * chassis + unit)

/-- The chassis of a two-byte chassis and unit field. -/
def chassisOf (w : Nat) : Nat := w / 16

/-- The unit of a two-byte chassis and unit field. -/
def unitOf (w : Nat) : Nat := w % 16

/-- The lead word a part's own frame carries: a kind code, traffic class 0, route hint 0 (R7). -/
def ownLead (kind : Nat) : List Byte := bytes16 (4096 * kind)

/-- The kind code mapped to an action: the first one (R7, R8). -/
def kindOf (table : Tab Action 16) (a : Action) : Nat :=
  ((List.finRange 16).find? fun k => Tab.get table k == a).elim 0 Fin.val

/-! ## Probes and echoes -/

/-- The items of a probe after its lead word (05 section 5.2). -/
structure ProbeItems where
  tag : Byte
  sendTime : Time
  sender : FarEnd
  view : Option View
deriving DecidableEq, Repr

/-- The items of an echo after its lead word (05 section 5.2). -/
structure EchoFields where
  tag : Byte
  sendTime : Time
  responder : FarEnd
  turnaround : Nat
  view : Option View
deriving DecidableEq, Repr

/-- The far end named by the four fields that begin at a place. -/
def farAt (bs : List Byte) (i : Nat) : FarEnd where
  chassis := chassisOf (at16 bs i)
  unit := unitOf (at16 bs i)
  port := at8 bs (i + 2)
  lane := at8 bs (i + 3)

/-- A probe's bytes 2 to 11, if it is well formed: fixed length 12, port at most 15, lane at most 3 (R11). -/
def readProbe (bs : List Byte) : Option ProbeItems :=
  if bs.length = 10 ∧ at8 bs 7 ≤ 15 ∧ at8 bs 8 ≤ 3 then
    some
      { tag := bs.getD 0 0
        sendTime := BitVec.ofNat 32 (at32 bs 1)
        sender := farAt bs 5
        view := viewOfCode (bs.getD 9 0) }
  else none

/-- An echo's bytes 2 to 13, if it is well formed: fixed length 14, port at most 15, lane at most 3 (R11). -/
def readEcho (bs : List Byte) : Option EchoFields :=
  if bs.length = 12 ∧ at8 bs 7 ≤ 15 ∧ at8 bs 8 ≤ 3 then
    some
      { tag := bs.getD 0 0
        sendTime := BitVec.ofNat 32 (at32 bs 1)
        responder := farAt bs 5
        turnaround := at16 bs 9
        view := viewOfCode (bs.getD 11 0) }
  else none

/-- The slot number of a tag, bits 7-5 (05 section 5.2). -/
def tagSlot (tag : Byte) : Fin 8 := (tag.extractLsb' 5 3).toFin

/-- The generation of a tag, bits 4-0. -/
def tagGeneration (tag : Byte) : BitVec 5 := tag.extractLsb' 0 5

/-- The tag of a slot's probe (R117). -/
def tagOf (slot : Fin 8) (generation : BitVec 5) : Byte := byte (32 * slot.val + generation.toNat)

/-- A probe as it departs, twelve bytes (R89). -/
def probeBytes (kind : Nat) (tag : Byte) (sendTime : Time) (id : Identity) (lane : Index) (view : View) : List Byte :=
  ownLead kind ++ [tag] ++ bytes32 sendTime.toNat ++ identityBytes id.chassis id.unit
    ++ [byte (portOf lane).val, byte (laneOf lane).val, byte view.code]

/-- An echo as it departs, fourteen bytes (R90). -/
def echoBytes (kind : Nat) (slot : EchoSlot) (id : Identity) (lane : Index) (turnaround : Nat) (view : View) :
    List Byte :=
  ownLead kind ++ [slot.tag] ++ bytes32 slot.sendTime.toNat ++ identityBytes id.chassis id.unit
    ++ [byte (portOf lane).val, byte (laneOf lane).val] ++ bytes16 turnaround ++ [byte view.code]

/-! ## Control frames -/

/-- A control frame's bytes from byte 4 on as a request, if it is well formed: the fixed header of eight bytes is complete, and
the argument length is at most 120 and names no more bytes than the frame carries (R11, R182). -/
def readRequest (lead : LeadWord) (target : BitVec 16) (lane : Index) (bs : List Byte) : Option ControlRequest :=
  if 4 ≤ bs.length ∧ at8 bs 3 ≤ 120 ∧ at8 bs 3 ≤ bs.length - 4 then
    some
      { lead := lead
        target := target
        tag := BitVec.ofNat 16 (at16 bs 0)
        code := at8 bs 2
        args := (bs.drop 4).take (at8 bs 3)
        lane := lane }
  else none

/-- A request addressed to unit 15 is a domain broadcast (R182). -/
def ControlRequest.broadcast (r : ControlRequest) : Bool := unitOf r.target.toNat == 15

/-- A response, ten bytes plus its result (10 section 10.1, R184). -/
def responseBytes (r : ControlRequest) (id : Identity) (reply : Reply) (flags : Nat) : List Byte :=
  bytes16 r.lead.toNat ++ identityBytes id.chassis id.unit ++ bytes16 r.tag.toNat
    ++ [byte reply.status.code, byte reply.detail.code, byte flags, byte reply.result.length] ++ reply.result

/-- A control frame's target fields meet the identity (R10). -/
def addressed (id : Identity) (target : BitVec 16) : Bool :=
  if id.assigned then
    (chassisOf target.toNat == id.chassis)
      && ((unitOf target.toNat == id.unit) || (unitOf target.toNat == 15))
  else chassisOf target.toNat == 4095

/-! ## Chain bytes -/

/-- The number of ones of a byte. -/
def onesCount (b : Byte) : Nat := ((List.range 8).filter fun i => b.getLsbD i).length

/-- The shape of a chain byte, bits 3-2; code 3 is not a shape (R42). -/
def shapeOf (b : Byte) : Option Shape :=
  match (b.extractLsb' 2 2).toNat with
  | 0 => some .whole
  | 1 => some .pair
  | 2 => some .quad
  | _ => none

/-- The record fields of a good byte, an absent byte's class, shape and ready set aside; none for a bad byte, which has an
even number of ones or shape code 3 (R40, R42). Fault and unplanned are set by the caller. -/
def readChainByte (b : Byte) : Option InventoryRecord :=
  match shapeOf b with
  | none => none
  | some shape =>
    if onesCount b % 2 = 1 then
      if b.getLsbD 7 then
        some
          { present := true
            cls := (b.extractLsb' 4 3).toFin
            shape := shape
            ready := b.getLsbD 1
            fault := false
            unplanned := false }
      else some InventoryRecord.absent
    else none

/-! ## Plan entries and settings -/

/-- A plan entry as it is written, each field at its full value (R187). -/
structure WrittenEntry where
  enabled : Bool
  width : Nat
  farChassis : Nat
  farUnit : Nat
  farPort : Nat
  farFirstLane : Nat
  allowed : BitVec 8
  reversal : Bool
  inversion : Bool
  lengthMin : Nat
  lengthMax : Nat
  skewLimit : Nat
  profile : Nat
  retry : Nat
deriving DecidableEq, Repr

/-- The plan entry in the arguments of WRITE PLAN ENTRY; byte 0 is the index (10 section 10.5). -/
def readEntry (bs : List Byte) : WrittenEntry where
  enabled := at8 bs 1 != 0
  width := at8 bs 2
  farChassis := at16 bs 3
  farUnit := at8 bs 5
  farPort := at8 bs 6
  farFirstLane := at8 bs 7
  allowed := bs.getD 8 0
  reversal := (bs.getD 9 0).getLsbD 1
  inversion := (bs.getD 9 0).getLsbD 0
  lengthMin := at16 bs 10
  lengthMax := at16 bs 12
  skewLimit := at8 bs 14
  profile := at8 bs 15
  retry := at8 bs 16

/-- A stored plan entry in the 17-byte form (10 section 10.5). An enabled entry shows 1 in byte 1, where the spec gives any value but 0, and the
ignored bits of byte 9 are 0 (the model's choices, log 30). -/
def entryBytes (g : Index) (e : PlanEntry) : List Byte :=
  [byte g.val, byte (bit e.enabled), byte e.fields.width.lanes]
    ++ bytes16 e.fields.farChassis
    ++ [byte e.fields.farUnit, byte e.fields.farPort, byte e.fields.farFirstLane, e.fields.allowed,
        byte (2 * bit e.fields.reversal + bit e.fields.inversion)]
    ++ bytes16 e.fields.lengthMin ++ bytes16 e.fields.lengthMax
    ++ [byte e.fields.skewLimit, byte e.fields.profile.val, byte e.fields.retry]

/-- The Operating Settings in the arguments of WRITE SETTINGS, each field clamped into its range (R188). -/
def readSettingsBytes (bs : List Byte) : Settings where
  probeTimeout := clamp 1 1000 (at16 bs 0)
  discoveryRounds := clamp 1 16 (at8 bs 2)
  smoothing := clamp 0 7 (at8 bs 3)
  pathOffset := clamp 0 1023 (at16 bs 4)
  lockTimeout := clamp 10 2000 (at16 bs 6)
  agreementTimeout := clamp 10 10000 (at16 bs 8)
  sweepInterval := clamp 100 100000 (at32 bs 10)
  hysteresis := clamp 1 15 (at8 bs 14)
  inventoryInterval := clamp 10 1000 (at16 bs 15)

/-- The stored Operating Settings in 17 bytes (R188). -/
def settingsBytes (t : Settings) : List Byte :=
  bytes16 t.probeTimeout ++ [byte t.discoveryRounds, byte t.smoothing] ++ bytes16 t.pathOffset
    ++ bytes16 t.lockTimeout ++ bytes16 t.agreementTimeout ++ bytes32 t.sweepInterval ++ [byte t.hysteresis]
    ++ bytes16 t.inventoryInterval

end Sys2Proof.Machine
end

