-- ==== Sys2Proof/Machine/Frames.lean ====
section
/-! DEFINITION. Frames at the FSU: LEAD_WORD_ARRIVAL, SHORT_FRAME_DISCARD, TARGET_FIELDS_ARRIVAL, DESKEW_HOLD_EXPIRY, FRAME_UNDER_WAY_END
(chapter 1). -/

namespace Sys2Proof.Machine

/-- The action of a lead word's kind code in the table in force (R7). -/
def actionOf (s : State) (lead : LeadWord) : Action := Tab.get s.fsu.classTable (kindCode lead)

/-- A lead word arrives from the system side (R9): a control frame waits for its target fields; data goes to the gate; the rest is discarded
uncounted. -/
def State.systemLead (s : State) (l : Index) (frame : Incoming) : State :=
  match actionOf s frame.lead with
  | .control => s.setSystemRx l (.awaitingTarget frame.lead (judge s .system l frame))
  | .passData => (s.setSystemRx l .none).handle l (judge s .system l frame)
  | .probe | .echo | .drop => s.setSystemRx l .none

/-- A lead word arrives from the line side (R10, R11): data and control frames go to the gate; a probe or an echo is stamped (R6) and received;
DROP is discarded uncounted. -/
def State.lineLead (s : State) (l : Index) (frame : Incoming) : State :=
  match actionOf s frame.lead with
  | .passData | .control => (s.setLineRx l .none).handle l (judge s .line l frame)
  | .probe => s.setLineRx l (.probe s.psc.now)
  | .echo => s.setLineRx l (.echo s.psc.now)
  | .drop => s.setLineRx l .none

/-- A frame's lead word has arrived in full (R4). A line lane delivers only while LOCKED (R3). -/
def execLeadWordArrival (side : Side) (port : Fin 16) (lane : Fin 4) (frame : Incoming) (s : State) :
    Host.Outcome State Fault Refusal :=
  s.unlessReset fun s =>
    match side with
    | .system => (s.systemLead (cell port lane) frame).arbitrate
    | .line =>
      if s.rx (cell port lane) = .locked then (s.lineLead (cell port lane) frame).arbitrate else s

/-- A frame that ends before a whole lead word is discarded and counted (R4). On a line lane that is not LOCKED nothing is delivered (R3), so
the command changes nothing there: a frame that a loss of lock cuts before its lead word is whole is not counted (the model's choice, log 29). -/
def execShortFrameDiscard (side : Side) (port : Fin 16) (lane : Fin 4) (s : State) : Host.Outcome State Fault Refusal :=
  s.unlessReset fun s =>
    match side with
    | .system => (s.setSystemRx (cell port lane) .none).countMalformed
    | .line =>
      if s.rx (cell port lane) = .locked then (s.setLineRx (cell port lane) .none).countMalformed else s

/-- The target fields of a control frame have arrived: addressed to this part, it goes on to be intercepted; else it is handled as
PASS_DATA (R9, R10; log 11). -/
def execTargetFieldsArrival (port : Fin 16) (lane : Fin 4) (target : BitVec 16) (s : State) :
    Host.Outcome State Fault Refusal :=
  s.unlessReset fun s =>
    match Tab.get s.fsu.systemRx (cell port lane) with
    | .awaitingTarget lead j =>
      if addressed s.mga.identity target then s.setSystemRx (cell port lane) (.control lead target)
      else ((s.setSystemRx (cell port lane) .none).handle (cell port lane) j).arbitrate
    | .none | .control _ _ => s

/-- The compensation hold of the oldest frame held on a line lane ends, and the frame goes to its system transmit lane (R18). -/
def execDeskewHoldExpiry (port : Fin 16) (lane : Fin 4) (s : State) : Host.Outcome State Fault Refusal :=
  s.unlessReset fun s =>
    match Tab.get s.fsu.holds (cell port lane) with
    | [] => s
    | h :: rest =>
      (({ s with fsu := { s.fsu with holds := Tab.set s.fsu.holds (cell port lane) rest } }).buffer .system h.frame).arbitrate

/-- How a frame ends on its lane: a data frame that arrived ended with an abort mark keeps the mark (R4). -/
def endOf (f : TxFrame) (abortMark : Bool) : FrameEnd :=
  match f with
  | .data _ => if abortMark then .aborted else .complete
  | .probe _ | .echo _ | .response _ => .complete

/-- The frame under way leaves the lane. -/
def TxLane.finish (abortMark : Bool) (t : TxLane) : TxLane :=
  match t.underWay with
  | some f => { t with underWay := none, sent := (f, endOf f abortMark) :: t.sent }
  | none => t

/-- The frame under way on a transmit lane reaches its end, and the lane's arbiter takes the next (R5). -/
def execFrameUnderWayEnd (side : Side) (port : Fin 16) (lane : Fin 4) (abortMark : Bool) (s : State) :
    Host.Outcome State Fault Refusal :=
  s.unlessReset fun s => (s.modTx side (cell port lane) (TxLane.finish abortMark)).arbitrate

end Sys2Proof.Machine
end

