-- ==== Sys2Proof/Machine/Verdict.lean ====
section
/-! DEFINITION. Merging a burst into the discovery record, the fourteen checks of the verdict, and its outcome (chapter 7). -/

namespace Sys2Proof.Machine

/-! ## Merging (R131 to R133) -/

/-- What an echo reveals of its lane (R131). -/
def EchoItems.merged (e : EchoItems) : Merged := { far := e.far, back := e.back }

/-- One lane of a burst round (R131 to R133): merged, compared, or counted as missed. -/
def mergeLane (t : Settings) (o : Option LaneOutcome) (r : LaneRecord) : LaneRecord :=
  match o with
  | some (.echoed e) =>
    match r.merged with
    | none => ({ r with merged := some e.merged, missRun := 0 }).takeSample t e
    | some m =>
      if m = e.merged then ({ r with missRun := 0 }).takeSample t e
      else { r with conflicted := true, missRun := 0 }
  | some .missed => { r with missRun := min (r.missRun + 1) Config.missLimit }
  | none => r

/-- Every lane of a burst round merged into the record (R134 step 1). -/
def mergeRound (t : Settings) (W : Nat) (outcomes : Tab (Option LaneOutcome) 4) (rec : DiscoveryRecord) : DiscoveryRecord :=
  rec.mapLanes W fun i r => mergeLane t (Tab.get outcomes i) r

/-! ## The round's view (R98) -/

/-- The echo of a lane offset is a candidate for the view of its round (R98). -/
def candidateView (id : Identity) (rec : DiscoveryRecord) (i : Fin 4) (o : Option LaneOutcome) : Option (Nat × View) :=
  match o with
  | some (.echoed e) =>
    match e.view, (Tab.get rec.lanes i).merged with
    | some v, some m =>
      if ¬(e.far.chassis = id.chassis ∧ e.far.unit = id.unit) ∧ e.far = m.far then some (e.order, v) else none
    | _, _ => none
  | _ => none

/-- The later of two candidates. -/
def laterView (a b : Option (Nat × View)) : Option (Nat × View) :=
  match a, b with
  | some x, some y => if x.1 < y.1 then some y else some x
  | some x, none => some x
  | none, b => b

/-- The view of a completed round: that of the candidate whose echo was taken latest (R98). -/
def roundView (id : Identity) (rec : DiscoveryRecord) (W : Nat) (outcomes : Tab (Option LaneOutcome) 4) : Option View :=
  ((((List.finRange 4).filter fun i => decide (i.val < W)).map fun i => candidateView id rec i (Tab.get outcomes i)).foldl
    laterView none).map Prod.snd

/-! ## The checks (R136 to R141) -/

/-- The lane records of offsets below W. -/
def laneRecords (rec : DiscoveryRecord) (W : Nat) : List (Fin 4 × LaneRecord) :=
  ((List.finRange 4).filter fun i => decide (i.val < W)).map fun i => (i, Tab.get rec.lanes i)

/-- Check 2: WHOLE with width 4, PAIR with width 2, QUAD with width 1 (R136). -/
def shapeFits : Shape → Width → Bool
  | .whole, .four => true
  | .pair, .two => true
  | .quad, .one => true
  | .whole, .one | .whole, .two | .pair, .one | .pair, .four | .quad, .two | .quad, .four => false

/-- The far lanes of the record in offset order; an unmerged lane, which check 5 has excluded, is left out. -/
def farLanes (rec : DiscoveryRecord) (W : Nat) : List (Nat × Nat) :=
  (laneRecords rec W).filterMap fun (i, r) => r.merged.map fun m => (i.val, m.far.lane)

/-- All values of a list are equal. -/
def allEqual : List Nat → Bool
  | [] => true
  | x :: rest => rest.all (· == x)

/-- Check 11 (R141): the lane map, or the reason. -/
def laneOrderCheck (b : PlanFields) (far : List (Nat × Nat)) : Except Reason LaneMap :=
  let W := b.width.lanes
  let straight := far.all fun (i, f) => f == b.farFirstLane + i
  let reversed := (1 < W) && far.all fun (i, f) => f + i == b.farFirstLane + W - 1
  let shifted := allEqual (far.map fun (i, f) => f + 4 - i) || allEqual (far.map fun (i, f) => f + i)
  if straight then .ok .straight
  else if reversed then (if b.reversal then .ok .reversed else .error .laneOrder)
  else if shifted then .error .wrongLane
  else .error .laneOrder

/-- Checks 1 to 11 in order (R135 to R141): the reason of the first that fails, or the lane map check 11 derives. -/
def checks (b : PlanFields) (rec : DiscoveryRecord) (inv : InventoryRecord) (id : Identity) (g : Index) :
    Except Reason LaneMap :=
  let W := b.width.lanes
  let lanes := laneRecords rec W
  let merged := lanes.filterMap fun (i, r) => r.merged.map fun m => (i, m)
  if !b.allowed.getLsbD inv.cls.val then .error .cableClass
  else if !shapeFits inv.shape b.width then .error .cableShape
  else if lanes.any (fun (_, r) => r.inverted) && !b.inversion then .error .polarity
  else if merged.isEmpty then .error .peerSilent
  else if lanes.any (fun (_, r) => r.merged.isNone) then .error .laneDark
  else if lanes.any (fun (_, r) => r.conflicted) then .error .unstable
  else if merged.any (fun (i, m) => m.back != laneAt g i.val) then .error .pairSplit
  else
    match merged with
    | [] => .error .peerSilent
    | (_, m0) :: _ =>
      if merged.any (fun (_, m) =>
          (m.far.chassis != m0.far.chassis) || (m.far.unit != m0.far.unit) || (m.far.port != m0.far.port)) then
        .error .splitFarEnd
      else if (m0.far.chassis == id.chassis) && (m0.far.unit == id.unit) then .error .loopback
      else if (m0.far.chassis != b.farChassis) || (m0.far.unit != b.farUnit) || (m0.far.port != b.farPort) then
        .error .wrongPeer
      else laneOrderCheck b (farLanes rec W)

/-! ## The verdict (R135, R142 to R146) -/

/-- Outcomes of a verdict (R64). -/
inductive Outcome where
  | quarantined (r : Reason)
  | agreeing
  | verified
  | heldRemote
deriving DecidableEq, Repr

/-- Check 14 (R144). -/
def viewCheck : Option View → Outcome
  | some .fail | some .unplanned => .quarantined .peerRejects
  | some .held => .heldRemote
  | some .pass => .verified
  | some .pending | none => .agreeing

/-- The fourteen checks over a record: the record with what the checks reached written into it, and the outcome (R135, R141 to R144). -/
def judgeRecord (b : PlanFields) (D : Nat) (inv : InventoryRecord) (id : Identity) (g : Index) (dr : DiscoveryRecord) :
    DiscoveryRecord × Outcome :=
  match checks b dr inv id g with
  | .error r => (dr, .quarantined r)
  | .ok m =>
    let dr := withLengths D b.width.lanes { dr with laneMap := some m }
    match lengthFinding b dr with
    | some r => (dr, .quarantined r)
    | none =>
      let dr := withSkew b.width.lanes dr
      match skewFinding b dr with
      | some r => (dr, .quarantined r)
      | none =>
        let dr := withComps b.width.lanes dr
        (dr, viewCheck dr.lastView)

/-- D of the class in the port's inventory record, as both stand (R34, R158). -/
def portD (s : State) (g : Index) : Nat := Tab.get s.cpt.classD (s.record g).cls

/-- Refresh a context's binding: the stored entry as it stands, stale mark clear (R30). -/
def State.refresh (s : State) (g : Index) : State :=
  s.modCtx g fun c => { c with bound := some (s.entry g).fields, stale := false }

/-- Load the FSU's map and compensations from the record (R146). -/
def State.loadFsu (s : State) (g : Index) : State :=
  let dr := (s.ctx g).record
  s.modPath g fun p =>
    { p with
      map := dr.laneMap.getD .straight
      comps := Tab.build fun i => ((Tab.get dr.lanes i).comp).getD 0 }

/-- Carry out the outcome of a verdict (R64, R145, R146). -/
def State.takeOutcome (s : State) (g : Index) : Outcome → State
  | .quarantined r => s.quarantine g r
  | .agreeing => (s.loadFsu g).enter g .agreeing .none none
  | .verified => (s.loadFsu g).enter g .verified .none none
  | .heldRemote => (s.loadFsu g).holdRemote g

/-- The verdict (R135): binding refreshed, checks applied, record written, outcome taken. -/
def State.verdict (s : State) (g : Index) : State :=
  let s := s.refresh g
  let r := judgeRecord (s.entry g).fields (portD s g) (s.record g) s.mga.identity g (s.ctx g).record
  (s.modCtx g fun c => { c with record := r.1 }).takeOutcome g r.2

/-- A burst round result at a DISCOVERING context (R134). -/
def State.burstRound (s : State) (r : RoundResult) : State :=
  let W := boundWidth s r.group
  let s := s.modCtx r.group fun c => { c with record := mergeRound s.mga.settings W r.outcomes c.record }
  let s :=
    match roundView s.mga.identity (s.ctx r.group).record W r.outcomes with
    | some v => s.applyView r.group v
    | none => s
  if r.rounds = 0 then s.verdict r.group else s

end Sys2Proof.Machine
end

