-- ==== Sys2Proof/Machine/Rounds.lean ====
section
/-! DEFINITION. Recheck processing (09 section 9.3) and the completion of a round (06 section 6.6). -/

namespace Sys2Proof.Machine

/-! ## Recheck rounds (R173 to R178) -/

/-- One lane of a recheck round (R174). -/
def recheckLane (t : Settings) (o : Option LaneOutcome) (r : LaneRecord) : LaneRecord :=
  match o with
  | some .missed => { r with missRun := min (r.missRun + 1) Config.missLimit }
  | some (.echoed e) => if r.merged = some e.merged then ({ r with missRun := 0 }).takeSample t e else r
  | none => r

/-- A lane's echo differs from the record in far identity or return lane (R174). -/
def laneDiffers (o : Option LaneOutcome) (r : LaneRecord) : Bool :=
  match o with
  | some (.echoed e) => r.merged != some e.merged
  | some .missed | none => false

/-- Step 2 sends the group to DISCOVERING: some echo differed, or some miss run stands at 3 (R174). -/
def mustRediscover (W : Nat) (outcomes : Tab (Option LaneOutcome) 4) (before after : DiscoveryRecord) : Bool :=
  ((List.finRange 4).filter fun i => decide (i.val < W)).any fun i =>
    laneDiffers (Tab.get outcomes i) (Tab.get before.lanes i)
      || decide (Config.missLimit ≤ (Tab.get after.lanes i).missRun)

/-- Step 4 (R176): lengths and skew computed and written, and the first finding. -/
def windowCheck (b : PlanFields) (D : Nat) (dr : DiscoveryRecord) : DiscoveryRecord × Option Reason :=
  let dr := withSkew b.width.lanes (withLengths D b.width.lanes dr)
  (dr, match lengthFinding b dr with
    | some r => some r
    | none => skewFinding b dr)

/-- Steps 4 and 5 for a VERIFIED or DEGRADED context (R176, R177). -/
def State.windowStep (s : State) (g : Index) : State :=
  match (s.ctx g).state, (s.ctx g).bound with
  | .verified, some b =>
    let r := windowCheck b (portD s g) (s.ctx g).record
    let s := s.modCtx g fun c => { c with record := r.1 }
    match r.2 with
    | some reason => (s.enter g .degraded reason none).modCtx g fun c => { c with goodCount := 0 }
    | none => s
  | .degraded, some b =>
    let r := windowCheck b (portD s g) (s.ctx g).record
    let s := s.modCtx g fun c => { c with record := r.1 }
    match r.2 with
    | some reason => s.modCtx g fun c => { c with reason := reason, goodCount := 0 }
    | none =>
      let n := (s.ctx g).goodCount + 1
      if s.mga.settings.hysteresis ≤ n then
        (s.enter g .verified .none none).modCtx g fun c => { c with goodCount := 0 }
      else s.modCtx g fun c => { c with goodCount := n }
  | _, _ => s

/-- The refreshed profile index is written into the gate with the gate state the round leaves, if they differ (R31, R175). -/
def State.syncGate (s : State) (g : Index) : State :=
  match (s.ctx g).bound with
  | some b =>
    if b.profile = (s.path g).profile then s else s.writeGate g (gateOf (s.ctx g).state) (some b.profile)
  | none => s

/-- Step 3 (R175): a stale binding is refreshed and checks 1 to 11 re-run. Answers the reason of a failure. -/
def State.staleStep (s : State) (g : Index) : State × Option Reason :=
  if (s.ctx g).stale then
    let s := s.refresh g
    match checks (s.entry g).fields (s.ctx g).record (s.record g) s.mga.identity g with
    | .error r => (s.quarantine g r, some r)
    | .ok _ => (s, none)
  else (s, none)

/-- Apply the round's view, if it has one (R178). -/
def State.applyRoundView (s : State) (g : Index) : Option View → State
  | some v => s.applyView g v
  | none => s

/-- A recheck round result at an AGREEING, VERIFIED or DEGRADED context (R173 steps 2 to 6). -/
def State.openRecheck (s : State) (r : RoundResult) (view : Option View) : State :=
  let g := r.group
  let W := boundWidth s g
  let before := (s.ctx g).record
  let after := before.mapLanes W fun i x => recheckLane s.mga.settings (Tab.get r.outcomes i) x
  let s := s.modCtx g fun c => { c with record := after }
  if mustRediscover W r.outcomes before after then (s.enter g .discovering .none none).applyRoundView g view
  else
    let wasStale := (s.ctx g).stale
    match s.staleStep g with
    | (s, some _) => s.applyRoundView g view
    | (s, none) =>
      let s := (s.windowStep g).applyRoundView g view
      if wasStale then s.syncGate g else s

/-- A recheck round result (R173): the view is chosen before any step; a HELD context takes the view step alone. -/
def State.recheckRound (s : State) (r : RoundResult) : State :=
  let view := roundView s.mga.identity (s.ctx r.group).record (boundWidth s r.group) r.outcomes
  match (s.ctx r.group).state with
  | .held => s.applyRoundView r.group view
  | .agreeing | .verified | .degraded => s.openRecheck r view
  | .unplanned | .waiting | .acquiring | .discovering | .quarantined | .lost => s

/-- The BUC processes a round result by its kind, in the state the context has (R124 step 3). -/
def State.roundResult (s : State) (r : RoundResult) : State :=
  match r.kind with
  | .burst => if (s.ctx r.group).state = .discovering then s.burstRound r else s
  | .routine | .urgent => s.recheckRound r

/-! ## Settling a probe (R120, R121, R124) -/

/-- Settle the probe of slot k, of group g and offset i, with an outcome: the slot is freed, the outcome stored, and if it was the round's last the
round completes. -/
def State.settle (s : State) (k : Fin 8) (g : Index) (i : Fin 4) (o : LaneOutcome) : State :=
  let s := { s with psc := storeOutcome g i o (freeSlot k s.psc) }
  if roundSettled g s.psc then
    match findRequest s.psc.queue g with
    | some r =>
      let e := endRound r s.psc
      ({ s with psc := e.1 }).roundResult e.2
    | none => s
  else s

end Sys2Proof.Machine
end

