-- ==== Sys2Proof/Machine/Probes.lean ====
section
/-! DEFINITION. Probes and echoes: PROBE_RECEIVED, ECHO_RECEIVED, PROBE_DEADLINE_EXPIRY, PROBE_DEPARTURE, ECHO_DEPARTURE (chapters 5 and 6). -/

namespace Sys2Proof.Machine

/-- Set an echo slot. -/
def State.setEcho (s : State) (l : Index) (e : Option EchoSlot) : State := { s with ers := Tab.set s.ers l e }

/-- A probe has been received whole: a malformed one is discarded and counted (R11); a well-formed one fills or replaces the echo slot (R92) and its
view is reported (R96). -/
def execProbeReceived (port : Fin 16) (lane : Fin 4) (rest : List Byte) (s : State) : Host.Outcome State Fault Refusal :=
  s.unlessReset fun s =>
    match Tab.get s.fsu.lineRx (cell port lane) with
    | .probe arrival =>
      let t := s.setLineRx (cell port lane) .none
      match readProbe rest with
      | none => t.countMalformed
      | some p =>
        let t := t.setEcho (cell port lane) (some { tag := p.tag, sendTime := p.sendTime, arrival := arrival })
        (t.viewReport (cell port lane) p.sender p.view).endEvent s
    | .none | .echo _ => s

/-- Count one late echo (R123). -/
def State.countLate (s : State) : State := { s with psc := { s.psc with late := satInc s.psc.late } }

/-- The items stored with a settled echo (R120): its order is one more than the echoes its round has taken. -/
def echoItems (s : State) (g : Index) (l : Index) (arrival : Time) (raw : Nat) (e : EchoFields) : EchoItems where
  sendTime := e.sendTime
  raw := raw
  arrival := arrival
  far := e.responder
  turnaround := e.turnaround
  view := e.view
  back := l
  order := ((findRequest s.psc.queue g).elim 0 fun r => echoesTaken r.outcomes) + 1

/-- An echo has been received whole: malformed, discarded and counted (R11); matching, its probe is settled ECHOED (R120); else late
(R123). -/
def execEchoReceived (port : Fin 16) (lane : Fin 4) (rest : List Byte) (s : State) : Host.Outcome State Fault Refusal :=
  s.unlessReset fun s =>
    match Tab.get s.fsu.lineRx (cell port lane) with
    | .echo arrival =>
      let t := s.setLineRx (cell port lane) .none
      match readEcho rest with
      | none => t.countMalformed
      | some e =>
        match matchEcho t.psc (tagSlot e.tag) (tagGeneration e.tag) e.sendTime arrival with
        | none => t.countLate
        | some (g, i, raw) =>
          (t.settle (tagSlot e.tag) g i (.echoed (echoItems t g (cell port lane) arrival raw e))).endEvent s
    | .none | .probe _ => s

/-- A SENT slot's deadline is reached and its probe settled MISSED (R121). -/
def execProbeDeadlineExpiry (slot : Fin 8) (s : State) : Host.Outcome State Fault Refusal :=
  s.unlessReset fun s =>
    match (Tab.get s.psc.slots slot).state with
    | .sent g i _ _ _ => (s.settle slot g i .missed).endEvent s
    | .free | .granted _ _ => s

/-- A granted probe's lead word departs when its line lane is free and no echo waits there (R5): the probe is built (R89), and the slot becomes SENT with
its deadline (R119). -/
def execProbeDeparture (slot : Fin 8) (s : State) : Host.Outcome State Fault Refusal :=
  s.unlessReset fun s =>
    match (Tab.get s.psc.slots slot).state with
    | .granted g i =>
      let l := laneAt g i.val
      if laneFree s .line l && (Tab.get s.ers l).isNone then
        let bytes := probeBytes (kindOf s.fsu.classTable .probe) (tagOf slot (Tab.get s.psc.slots slot).generation)
          s.psc.now s.mga.identity l (viewOf (s.ctx g).state)
        let t := s.send .line l (.probe bytes)
        { t with psc := { t.psc with
            slots := Tab.upd t.psc.slots slot fun sl =>
              { sl with state := sentSlot t.psc.now (usToNs t.mga.settings.probeTimeout) g i } } }
      else s
    | .free | .sent _ _ _ _ _ => s

/-- The turnaround of an echo: departure minus arrival modulo 2^32, at most 65,535 (R6, R94). -/
def turnaroundOf (now arrival : Time) : Nat := min (now - arrival).toNat 65535

/-- An echo's lead word departs when its line lane is free: the echo is built (R90), and its slot becomes EMPTY (R93). -/
def execEchoDeparture (port : Fin 16) (lane : Fin 4) (s : State) : Host.Outcome State Fault Refusal :=
  s.unlessReset fun s =>
    match Tab.get s.ers (cell port lane) with
    | some e =>
      if laneFree s .line (cell port lane) then
        let bytes := echoBytes (kindOf s.fsu.classTable .echo) e s.mga.identity (cell port lane)
          (turnaroundOf s.psc.now e.arrival) (laneView s (cell port lane))
        (s.send .line (cell port lane) (.echo bytes)).setEcho (cell port lane) none
      else s
    | none => s

end Sys2Proof.Machine
end

