-- ==== Sys2Proof/Machine/Chain.lean ====
section
/-! DEFINITION. The presence chain: PALERT_RISE, INVENTORY_INTERVAL_EXPIRY, CHAIN_READ_END (chapter 3), and the outputs PLOAD and PSHIFT. -/

namespace Sys2Proof.Machine

/-- PLOAD is active: the load pulse fills the first 2 µs of a read (R41). -/
def pload (s : State) : Bool := s.ciu.inProgress && decide (s.ciu.elapsed < Config.loadPulseTime)

/-- The shift clocks begun on PSHIFT so far in the read under way, 1 µs each after the load pulse, 128 in all (R41). -/
def shiftClocks (s : State) : Nat :=
  if s.ciu.inProgress ∧ Config.loadPulseTime ≤ s.ciu.elapsed then
    min ((s.ciu.elapsed - Config.loadPulseTime) / Config.shiftClockTime + 1) 128
  else 0

/-- At least one lane of a port is covered by no enabled entry (R47). -/
def uncoveredLane (plan : Tab PlanEntry 64) (p : Fin 16) : Bool :=
  (List.finRange 4).any fun j => (covering plan (cell p j)).isNone

/-- The unplanned field of a record (R47). -/
def unplannedField (plan : Tab PlanEntry 64) (p : Fin 16) (present : Bool) : Bool := present && uncoveredLane plan p

/-- Set a port's record. -/
def State.setRecord (s : State) (p : Fin 16) (r : InventoryRecord) : State :=
  { s with ciu := { s.ciu with records := Tab.set s.ciu.records p r } }

/-- Recompute the unplanned field of a port after an enabling or disabling write, and post the port notice if it differs (R47). -/
def State.recomputeUnplanned (s : State) (p : Fin 16) : State :=
  let r := Tab.get s.ciu.records p
  let u := unplannedField s.cpt.plan p r.present
  if u = r.unplanned then s else (s.setRecord p { r with unplanned := u }).postPort p

/-- The port change event between an old and a new record, if present, class, shape or ready differ (R49). -/
def portChangeOf (old new : InventoryRecord) : Option PortChange :=
  if !old.present && new.present then some .arrived
  else if old.present && !new.present then some .removed
  else if (old.cls != new.cls) || (old.shape != new.shape) then some .replaced
  else if old.ready != new.ready then some (.ready new.ready)
  else none

/-- A port change event is handed on to the four contexts of its port (R49), in the order of their lanes (log 33). -/
def State.handOn (s : State) (p : Fin 16) (e : PortChange) : State :=
  { s with ciu := { s.ciu with handed := s.ciu.handed ++ (List.finRange 4).map fun j => { group := cell p j, change := e } } }

/-- A context takes a port change event as an event of its own (R49), with an end of its own. -/
def State.takePortChange (s : State) (e : HandedEvent) : State := (s.portChange e.group e.change).endEvent s

/-- The last round of a burst of the DISCOVERING context g is in flight, so that a verdict of g can fall together with the event in hand. -/
def lastRoundFlies (s : State) (g : Index) : Bool :=
  ((s.ctx g).state == .discovering)
    && (findRequest s.psc.queue g).any fun r => r.kind == .burst && r.rounds == 1 && r.inFlight

/-- The contexts take the events handed on, one after another; those of a context whose verdict can fall together with the read wait, so that
the event reaches such a context after its verdict (R50; log 32). -/
def State.takeHanded (s : State) : State :=
  (s.ciu.handed.filter fun e => !lastRoundFlies s e.group).foldl State.takePortChange
    { s with ciu := { s.ciu with handed := s.ciu.handed.filter fun e => lastRoundFlies s e.group } }

/-- The events of an earlier read that wait are taken by their contexts, one after another (log 32). -/
def State.takeAllWaiting (s : State) : State :=
  s.ciu.handed.foldl State.takePortChange { s with ciu := { s.ciu with handed := [] } }

/-- The earliest event that waits is taken by its context. -/
def State.takeWaiting (s : State) : State :=
  match s.ciu.handed with
  | [] => s
  | e :: rest => ({ s with ciu := { s.ciu with handed := rest } }).takePortChange e

/-- The byte of a port is judged (R45, R46): a bad byte holds the record, sets fault and posts; a good byte replaces it, and posts and hands on what
changed. -/
def State.judgeByte (s : State) (p : Fin 16) (b : Byte) : State :=
  let old := Tab.get s.ciu.records p
  match readChainByte b with
  | none => (s.setRecord p { old with fault := true }).postPort p
  | some r =>
    let new := { r with unplanned := unplannedField s.cpt.plan p r.present }
    if new = old then s
    else
      let s := (s.setRecord p new).postPort p
      match portChangeOf old new with
      | some e => s.handOn p e
      | none => s

/-- The bit on PDATA at one shift clock enters a byte below the bits taken before it (R41). -/
def takeBit (b : Byte) (bit : Bool) : Byte := (b <<< 1) ||| (if bit then 1 else 0)

/-- Eight bits taken one after another make a byte, the first its most significant (R41). -/
def packBits (bits : List Bool) : Byte := bits.foldl takeBit 0

/-- The byte of a port in the bits of a read: port 15's first, port 0's last (R41). -/
def portByte (bits : List Bool) (p : Fin 16) : Byte := packBits ((bits.drop (8 * (15 - p.val))).take 8)

/-- The sixteen bytes of a read are judged, port 15 first (R41, R45). -/
def State.judgeRead (s : State) (bits : List Bool) : State :=
  (List.finRange 16).foldl (fun t i => t.judgeByte i.rev (portByte bits i.rev)) s

/-- What follows a read (R43): the pending read starts at once, or the in-progress mark is cleared. -/
def State.afterRead (s : State) : State :=
  if s.ciu.readPending then ({ s with ciu := { s.ciu with readPending := false } }).startRead
  else { s with ciu := { s.ciu with inProgress := false, elapsed := 0 } }

/-- A rising edge on PALERT triggers a read (R43). -/
def execPalertRise (s : State) : Host.Outcome State Fault Refusal := s.unlessReset State.triggerRead

/-- The inventory interval timer expires and triggers a read (R44). -/
def execInventoryIntervalExpiry (s : State) : Host.Outcome State Fault Refusal :=
  s.unlessReset fun s =>
    match s.ciu.timer with
    | some _ => ({ s with ciu := { s.ciu with timer := none } }).triggerRead
    | none => s

/-- A chain read ends with the last bit of port 0's byte, and the whole chain is judged (R41, R45); the contexts then take the port change
events of the read, each as an event of its own (R49). An event of an earlier read that waits has been taken by then, on the record of that read
(log 32). -/
def execChainReadEnd (bits : List Bool) (s : State) : Host.Outcome State Fault Refusal :=
  if bits.length = 128 then s.unlessReset fun s => if s.ciu.inProgress then (s.takeAllWaiting.judgeRead bits).afterRead.takeHanded else s
  else .fault .illFormedCommand

end Sys2Proof.Machine
end

