-- ==== Sys2Proof/Machine/Plan.lean ====
section
/-! DEFINITION. Validation and effects of a plan write (chapter 2), the identity's effect on the contexts (R81), and the soft reset (R82, R195). -/

namespace Sys2Proof.Machine

/-! ## Validation (R23, R24) -/

/-- A written width. -/
def widthOf : Nat → Option Width
  | 1 => some .one
  | 2 => some .two
  | 4 => some .four
  | _ => none

/-- Entry g, enabled with width w, would cover a lane that another enabled entry covers (R24). -/
def overlaps (plan : Tab PlanEntry 64) (g : Index) (w : Width) : Bool :=
  indices.any fun h =>
    (h != g) && (Tab.get plan h).enabled
      && indices.any fun l => covers g w l && covers h (Tab.get plan h).fields.width l

/-- The fields stored for an accepted entry. -/
def WrittenEntry.fields (w : WrittenEntry) (width : Width) : PlanFields where
  width := width
  farChassis := w.farChassis
  farUnit := w.farUnit
  farPort := w.farPort
  farFirstLane := w.farFirstLane
  allowed := w.allowed
  reversal := w.reversal
  inversion := w.inversion
  lengthMin := w.lengthMin
  lengthMax := w.lengthMax
  skewLimit := w.skewLimit
  profile := ⟨w.profile % 8, by omega⟩
  retry := w.retry

/-- The tests of R23 in their order: the detail reason of the first cause that applies, or the entry to store. -/
def validateEntry (plan : Tab PlanEntry 64) (g : Index) (w : WrittenEntry) : Except Detail PlanEntry :=
  match widthOf w.width with
  | none => .error .width
  | some width =>
    if (laneOf g).val % w.width ≠ 0 ∨ 3 < w.farFirstLane ∨ w.farFirstLane % w.width ≠ 0 then .error .align
    else if w.enabled && overlaps plan g width then .error .overlap
    else if 4094 < w.farChassis ∨ 14 < w.farUnit ∨ 15 < w.farPort then .error .farId
    else if w.allowed = 0 then .error .classSet
    else if w.lengthMax < w.lengthMin then .error .window
    else if 63 < w.skewLimit then .error .skewLimit
    else if 7 < w.profile then .error .profile
    else if (Tab.get plan g).enabled ∧ w.enabled ∧ (Tab.get plan g).fields.width ≠ width then .error .lockedWidth
    else .ok { enabled := w.enabled, fields := w.fields width }

/-! ## Effects (R25 to R28) -/

/-- Store an entry. -/
def State.storeEntry (s : State) (g : Index) (e : PlanEntry) : State :=
  { s with cpt := { s.cpt with plan := Tab.set s.cpt.plan g e } }

/-- A context binds an entry afresh, enters WAITING and applies the start test (R26, R58, R82). -/
def State.bindAndStart (s : State) (g : Index) (b : PlanFields) : State :=
  ((s.modCtx g fun c => { c with bound := some b, stale := false }).enter g .waiting .none none).applyStart g

/-- A context goes to UNPLANNED by a disabling write: bound copy discarded, map and compensations returned (R27). -/
def State.disableContext (s : State) (g : Index) : State :=
  ((s.modCtx g fun c => { c with bound := none, stale := false }).enter g .unplanned .none none).modPath g fun p =>
    { p with map := .straight, comps := Tab.fill 0 }

/-- The effects of an accepted write by its kind (R25). -/
def State.acceptEntry (s : State) (g : Index) (e : PlanEntry) : State :=
  let old := s.entry g
  let t := s.storeEntry g e
  match old.enabled, e.enabled with
  | false, true => (t.recomputeUnplanned (portOf g)).bindAndStart g e.fields
  | true, false => (t.recomputeUnplanned (portOf g)).disableContext g
  | true, true => if e = old then t else t.modCtx g fun c => { c with stale := true }
  | false, false => t

/-! ## Identity (R81) -/

/-- A context acts on a new identity (R81). -/
def State.contextIdentity (s : State) (g : Index) : State :=
  match (s.ctx g).state with
  | .acquiring | .discovering | .agreeing | .verified | .degraded | .quarantined | .lost => s.enterAcquiring g
  | .waiting => s.applyStart g
  | .held | .unplanned => s

/-- A new identity is stored; every context acts on one that differs from that in force (R81, R186). That they act, and post their BURSTs, in
index order is the model's choice (log 31). -/
def State.storeIdentity (s : State) (chassis unit : Nat) : State :=
  let t := { s with mga := { s.mga with identity := { chassis := chassis, unit := unit, assigned := true } } }
  if chassis = s.mga.identity.chassis ∧ unit = s.mga.identity.unit then t
  else indices.foldl State.contextIdentity t

/-! ## Soft reset (R82, R195) -/

/-- What soft reset clears of a group's FSU part: the gate closes, map and compensations return, the counter is 0; the profile index stays (R13,
R16, R19). -/
def GroupPath.softReset (p : GroupPath) : GroupPath :=
  { p with gate := .closed, map := .straight, comps := Tab.fill 0, fenced := 0 }

/-- The FSU's part of soft reset: every gate closes, so every data frame under way is cut; the counters are 0 (R12, R15; log 14). -/
def Fsu.softReset (f : Fsu) : Fsu :=
  { f.cut (fun _ => false) with
    paths := Tab.map GroupPath.softReset f.paths
    malformed := 0 }

/-- The PSC's part of soft reset: queue, holder and slots are freed, generations and the counter kept running (R128). -/
def Psc.softReset (p : Psc) : Psc :=
  { p with
    queue := []
    holder := none
    slots := Tab.map (fun sl => { sl with state := .free }) p.slots
    late := 0 }

/-- Every block at its soft-reset values, before the contexts are rebuilt (R195). -/
def State.clearForSoftReset (s : State) : State :=
  { s with
    fsu := s.fsu.softReset
    ciu := { s.ciu with inProgress := false, readPending := false, handed := [] }
    buc := { s.buc with contexts := Tab.fill Context.reset }
    psc := s.psc.softReset
    ers := Tab.fill none
    sws := { s.sws with position := 0, completed := 0, flag := false }
    notices := [] }

/-- A context is rebuilt from its plan entry (R82 steps 6 and 7). -/
def State.rebuildContext (s : State) (g : Index) : State :=
  if (s.entry g).enabled then s.bindAndStart g (s.entry g).fields else s

/-- Every context whose entry is enabled posts its notice, in index order (R82). -/
def State.postEnabledGroups (s : State) : State :=
  indices.foldl (fun t g => if (s.entry g).enabled then t.postGroup g else t) s

/-- The one event of a soft reset (R82, R195): blocks cleared, contexts rebuilt in index order, their notices posted, a fresh chain read and the step
timer started, grants made. -/
def State.softReset (s : State) : State :=
  ((indices.foldl State.rebuildContext s.clearForSoftReset).postEnabledGroups.startRead.startStepTimer.grant).arbitrate

end Sys2Proof.Machine
end

