-- ==== Sys2Proof/Machine/Timers.lean ====
section
/-! DEFINITION. The timers of the contexts and of the Sweep Scheduler: LOCK_TIMER_EXPIRY, AGREEMENT_TIMER_EXPIRY, RETRY_TIMER_EXPIRY,
AGREEMENT_POLL_EXPIRY, SWEEP_STEP (chapters 4 and 9). -/

namespace Sys2Proof.Machine

/-- A context runs a state timer of a kind. -/
def runsTimer (c : Context) (k : TimerKind) : Bool := c.timer.any fun t => t.kind == k

/-- The lock timer of an ACQUIRING or LOST context expires: LOCK_TIMEOUT (R68). -/
def execLockTimerExpiry (group : Index) (s : State) : Host.Outcome State Fault Refusal :=
  s.unlessReset fun s =>
    if runsTimer (s.ctx group) .lock ∧ ((s.ctx group).state = .acquiring ∨ (s.ctx group).state = .lost) then
      (s.quarantine group .lockTimeout).endEvent s
    else s

/-- The agreement timer of an AGREEING context expires: NO_AGREEMENT (R65). -/
def execAgreementTimerExpiry (group : Index) (s : State) : Host.Outcome State Fault Refusal :=
  s.unlessReset fun s =>
    if runsTimer (s.ctx group) .agreement ∧ (s.ctx group).state = .agreeing then
      (s.quarantine group .noAgreement).endEvent s
    else s

/-- The retry timer of a QUARANTINED context expires: the start test (R79). -/
def execRetryTimerExpiry (group : Index) (s : State) : Host.Outcome State Fault Refusal :=
  s.unlessReset fun s =>
    if runsTimer (s.ctx group) .retry ∧ (s.ctx group).state = .quarantined then (s.applyStart group).endEvent s else s

/-- The poll interval of an AGREEING context expires: a ROUTINE is posted if the queue holds no request for the group, and the interval restarts
(R164). -/
def execAgreementPollExpiry (group : Index) (s : State) : Host.Outcome State Fault Refusal :=
  s.unlessReset fun s =>
    if (s.ctx group).poll.isSome ∧ (s.ctx group).state = .agreeing then
      let t := { s with psc := postRequest group .routine s.mga.settings.discoveryRounds s.psc }
      (t.modCtx group fun c => { c with poll := some Config.pollInterval }).endEvent s
    else s

/-- A context the Sweep Scheduler posts for (R168). -/
def sweepEligible (s : State) (g : Index) : Bool :=
  (match (s.ctx g).state with
   | .verified | .degraded | .held => true
   | .unplanned | .waiting | .acquiring | .discovering | .agreeing | .quarantined | .lost => false)
    && !hasRequest s.psc.queue g

/-- The position advances by one; from 63 to 0 a sweep completes (R168, R169). -/
def advance (w : Sws) : Sws :=
  if w.position = 63 then
    let w := { w with position := 0, completed := satInc w.completed, flag := true }
    match w.mode with
    | .single =>
      if w.remaining - 1 = 0 then { w with remaining := 0, mode := .off, timer := none }
      else { w with remaining := w.remaining - 1 }
    | .off | .continuous => w
  else { w with position := nextIndex w.position }

/-- The search of a step (R168): examine up to `n` indices; answers the SWS after it and the index posted for. The search ends where a SINGLE run
ends (R169). -/
def sweepSearch (eligible : Index → Bool) : Nat → Sws → Sws × Option Index
  | 0, w => (w, none)
  | n + 1, w =>
    if eligible w.position then (advance w, some w.position)
    else if (advance w).mode = .off then (advance w, none)
    else sweepSearch eligible n (advance w)

/-- The step timer expires (R167, R168): one search of up to 64 indices, at most one posting, and the timer restarts if the mode is still not
OFF. -/
def execSweepStep (s : State) : Host.Outcome State Fault Refusal :=
  s.unlessReset fun s =>
    match s.sws.timer with
    | none => s
    | some _ =>
      let r := sweepSearch (sweepEligible s) 64 s.sws
      let t := ({ s with sws := r.1 }).startStepTimer
      match r.2 with
      | some g => ({ t with psc := postRequest g .routine t.mga.settings.discoveryRounds t.psc }).endEvent s
      | none => t

end Sys2Proof.Machine
end

