-- ==== Sys2Proof/Machine/Management.lean ====
section
/-! DEFINITION. The Management Agent (chapter 10): its request queue, and one execution for each command. -/

namespace Sys2Proof.Machine

/-! ## The request queue (R182 to R184) -/

/-- An addressed control frame has been received whole: malformed, discarded and counted (R11); else queued, or discarded if four entries are occupied
(R182, R183). -/
def execControlRequestReceived (port : Fin 16) (lane : Fin 4) (rest : List Byte) (s : State) :
    Host.Outcome State Fault Refusal :=
  s.unlessReset fun s =>
    match Tab.get s.fsu.systemRx (cell port lane) with
    | .control lead target =>
      let t := s.setSystemRx (cell port lane) .none
      match readRequest lead target (cell port lane) rest with
      | none => t.countMalformed
      | some r =>
        if t.mga.queue.length < Config.requestEntries then
          { t with mga := { t.mga with queue := t.mga.queue ++ [{ request := r, state := .waiting }] } }
        else t
    | .none | .awaitingTarget _ _ => s

/-- The oldest response that waits at a system lane, with the queue after its departure (R183, R184). -/
def takeResponse (l : Index) : List Entry → Option (List Byte × List Entry)
  | [] => none
  | e :: rest =>
    match e.state with
    | .answering bytes =>
      if e.request.lane = l then some (bytes, rest)
      else (takeResponse l rest).map fun x => (x.1, e :: x.2)
    | .waiting => (takeResponse l rest).map fun x => (x.1, e :: x.2)

/-- A response's lead word departs when its system lane is free, and its entry is freed (R5, R183). -/
def execResponseDeparture (port : Fin 16) (lane : Fin 4) (s : State) : Host.Outcome State Fault Refusal :=
  s.unlessReset fun s =>
    match takeResponse (cell port lane) s.mga.queue with
    | some (bytes, queue) =>
      if laneFree s .system (cell port lane) then
        { s.send .system (cell port lane) (.response bytes) with mga := { s.mga with queue := queue } }
      else s
    | none => s

/-- The WAITING request with the earliest acceptance (R184). -/
def earliestWaiting (q : List Entry) : Option ControlRequest :=
  (q.find? fun e => e.state == .waiting).map Entry.request

/-- The first WAITING entry is answered, or freed when there is no response to wait for (R183, R184). -/
def answerFirst (response : Option (List Byte)) : List Entry → List Entry
  | [] => []
  | e :: rest =>
    match e.state with
    | .waiting =>
      match response with
      | some bytes => { e with state := .answering bytes } :: rest
      | none => rest
    | .answering _ => e :: answerFirst response rest

/-- The end of an execution: the response is built with the identity and the attention flag as they now stand and the entry marked ANSWERING; a domain
broadcast's entry is freed (R184). -/
def State.respond (s : State) (r : ControlRequest) (reply : Reply) : State :=
  { s with mga := { s.mga with
      queue :=
        answerFirst (if r.broadcast then none else some (responseBytes r s.mga.identity reply (attentionFlags s)))
          s.mga.queue } }

/-- A command: the argument lengths it accepts and what it does with its arguments. -/
structure Command where
  lengths : List Nat
  body : List Byte → State → State × Reply

/-- The outcome of a command on a request: the length test first (R185), then the command's own tests and effects. -/
def Command.run (c : Command) (r : ControlRequest) (s : State) : State × Reply :=
  if c.lengths.contains r.args.length then c.body r.args s else (s, Reply.refuse .length)

/-- One execution (R184): the earliest WAITING request, if it is one of this row's; otherwise nothing is executed (log 4, 7). -/
def State.execute (s : State) (mine : ControlRequest → Bool) (c : Command) : Host.Outcome State Fault Refusal :=
  s.unlessReset fun s =>
    match earliestWaiting s.mga.queue with
    | some r =>
      if mine r then
        let out := c.run r s
        out.1.respond r out.2
      else s
    | none => s

/-- The request has a command code. -/
def hasCode (n : Nat) (r : ControlRequest) : Bool := r.code == n

/-- The command codes that name a command (10 sections 10.4 to 10.10). -/
def commandCodes : List Nat := [1, 2, 16, 17, 18, 19, 20, 21, 22, 23, 32, 33, 48, 49, 50, 51, 64, 80, 96]

/-- The entry of a table index carried in a byte, if it is in range. -/
def indexArg (n bound : Nat) : Option (Fin bound) := if h : n < bound then some ⟨n, h⟩ else none

/-! ## Unknown commands -/

/-- UNKNOWN_COMMAND: no result and no effect (R185). -/
def execUnknownCommand (s : State) : Host.Outcome State Fault Refusal :=
  s.unlessReset fun s =>
    match earliestWaiting s.mga.queue with
    | some r =>
      if commandCodes.contains r.code then s
      else s.respond r { status := .unknownCommand, detail := .none, result := [] }
    | none => s

/-! ## Identity (R186) -/

/-- The four bytes of READ IDENTITY. -/
def identityResult (id : Identity) : List Byte :=
  identityBytes id.chassis id.unit ++ [byte (bit id.assigned), byte Config.revisionCode]

/-- READ IDENTITY, code 1. -/
def readIdentityCommand : Command where
  lengths := [0]
  body _ s := (s, Reply.ok (identityResult s.mga.identity))

/-- READ_IDENTITY. -/
def execReadIdentity (s : State) : Host.Outcome State Fault Refusal := s.execute (hasCode 1) readIdentityCommand

/-- SET IDENTITY, code 2 (R186, R81). -/
def setIdentityCommand : Command where
  lengths := [2]
  body args s :=
    if 4094 < chassisOf (at16 args 0) ∨ 14 < unitOf (at16 args 0) then (s, Reply.refuse .identity)
    else
      let t := (s.storeIdentity (chassisOf (at16 args 0)) (unitOf (at16 args 0))).endEvent s
      (t, Reply.ok (identityResult t.mga.identity))

/-- SET_IDENTITY. -/
def execSetIdentity (s : State) : Host.Outcome State Fault Refusal := s.execute (hasCode 2) setIdentityCommand

/-! ## Tables (R22, R29, R33, R35, R36, R8, R187) -/

/-- WRITE PLAN ENTRY, code 16. -/
def writePlanCommand : Command where
  lengths := [17]
  body args s :=
    match indexArg (at8 args 0) 64 with
    | none => (s, Reply.refuse .index)
    | some g =>
      match validateEntry s.cpt.plan g (readEntry args) with
      | .error d => (s, { status := .badArgument, detail := d, result := entryBytes g (s.entry g) })
      | .ok e =>
        let t := (s.acceptEntry g e).endEvent s
        (t, Reply.ok (entryBytes g (t.entry g)))

/-- WRITE_PLAN_ENTRY. -/
def execWritePlanEntry (s : State) : Host.Outcome State Fault Refusal := s.execute (hasCode 16) writePlanCommand

/-- READ PLAN ENTRY, code 17. -/
def readPlanCommand : Command where
  lengths := [1]
  body args s :=
    match indexArg (at8 args 0) 64 with
    | none => (s, Reply.refuse .index)
    | some g => (s, Reply.ok (entryBytes g (s.entry g)))

/-- READ_PLAN_ENTRY. -/
def execReadPlanEntry (s : State) : Host.Outcome State Fault Refusal := s.execute (hasCode 17) readPlanCommand

/-- The three bytes of a class entry. -/
def classResult (s : State) (c : Fin 8) : List Byte := byte c.val :: bytes16 (Tab.get s.cpt.classD c)

/-- WRITE CLASS ENTRY, code 18: D clamped into 3,000 to 8,000 (R33). -/
def writeClassCommand : Command where
  lengths := [3]
  body args s :=
    match indexArg (at8 args 0) 8 with
    | none => (s, Reply.refuse .index)
    | some c =>
      let t := { s with cpt := { s.cpt with classD := Tab.set s.cpt.classD c (clamp 3000 8000 (at16 args 1)) } }
      (t, Reply.ok (classResult t c))

/-- WRITE_CLASS_ENTRY. -/
def execWriteClassEntry (s : State) : Host.Outcome State Fault Refusal := s.execute (hasCode 18) writeClassCommand

/-- READ CLASS ENTRY, code 19. -/
def readClassCommand : Command where
  lengths := [1]
  body args s :=
    match indexArg (at8 args 0) 8 with
    | none => (s, Reply.refuse .index)
    | some c => (s, Reply.ok (classResult s c))

/-- READ_CLASS_ENTRY. -/
def execReadClassEntry (s : State) : Host.Outcome State Fault Refusal := s.execute (hasCode 19) readClassCommand

/-- The three bytes of a profile. -/
def profileResult (s : State) (p : Fin 8) : List Byte :=
  [byte p.val, (Tab.get s.cpt.profiles p).verified, (Tab.get s.cpt.profiles p).degraded]

/-- WRITE PROFILE, code 20: the degraded set must be a subset of the verified set (R36). -/
def writeProfileCommand : Command where
  lengths := [3]
  body args s :=
    match indexArg (at8 args 0) 8 with
    | none => (s, Reply.refuse .index)
    | some p =>
      let new : Profile := { verified := args.getD 1 0, degraded := args.getD 2 0 }
      if new.degraded &&& ~~~new.verified ≠ 0 then
        (s, { status := .badArgument, detail := .subset, result := profileResult s p })
      else
        let t := { s with cpt := { s.cpt with profiles := Tab.set s.cpt.profiles p new } }
        (t, Reply.ok (profileResult t p))

/-- WRITE_PROFILE. -/
def execWriteProfile (s : State) : Host.Outcome State Fault Refusal := s.execute (hasCode 20) writeProfileCommand

/-- READ PROFILE, code 21. -/
def readProfileCommand : Command where
  lengths := [1]
  body args s :=
    match indexArg (at8 args 0) 8 with
    | none => (s, Reply.refuse .index)
    | some p => (s, Reply.ok (profileResult s p))

/-- READ_PROFILE. -/
def execReadProfile (s : State) : Host.Outcome State Fault Refusal := s.execute (hasCode 21) readProfileCommand

/-- The sixteen stored action codes. -/
def frameClassResult (s : State) : List Byte := (Tab.list s.fsu.classTable).map fun a => byte a.code

/-- How many kind codes a table maps to an action. -/
def kindCount (table : Tab Action 16) (a : Action) : Nat :=
  ((List.finRange 16).filter fun k => Tab.get table k == a).length

/-- Exactly one PROBE, exactly one ECHO, at least one CONTROL (R8). -/
def kindMapHolds (table : Tab Action 16) : Bool :=
  (kindCount table .probe == 1) && (kindCount table .echo == 1) && decide (1 ≤ kindCount table .control)

/-- The table written by sixteen action codes, if every code names an action. -/
def readFrameClass (args : List Byte) : Option (Tab Action 16) :=
  if (List.finRange 16).all fun k => (actionOfCode (args.getD k.val 0)).isSome then
    some (Tab.build fun k => (actionOfCode (args.getD k.val 0)).getD .drop)
  else none

/-- WRITE FRAME CLASS, code 22 (R8, R187). -/
def writeFrameClassCommand : Command where
  lengths := [16]
  body args s :=
    match (readFrameClass args).filter kindMapHolds with
    | none => (s, { status := .badArgument, detail := .kindMap, result := frameClassResult s })
    | some table =>
      let t := { s with fsu := { s.fsu with classTable := table } }
      (t, Reply.ok (frameClassResult t))

/-- WRITE_FRAME_CLASS. -/
def execWriteFrameClass (s : State) : Host.Outcome State Fault Refusal := s.execute (hasCode 22) writeFrameClassCommand

/-- READ FRAME CLASS, code 23. -/
def readFrameClassCommand : Command where
  lengths := [0]
  body _ s := (s, Reply.ok (frameClassResult s))

/-- READ_FRAME_CLASS. -/
def execReadFrameClass (s : State) : Host.Outcome State Fault Refusal := s.execute (hasCode 23) readFrameClassCommand

/-! ## Operating Settings (R188) -/

/-- WRITE SETTINGS, code 32: each field clamped, all stored together. -/
def writeSettingsCommand : Command where
  lengths := [17]
  body args s :=
    let t := { s with mga := { s.mga with settings := readSettingsBytes args } }
    (t, Reply.ok (settingsBytes t.mga.settings))

/-- WRITE_SETTINGS. -/
def execWriteSettings (s : State) : Host.Outcome State Fault Refusal := s.execute (hasCode 32) writeSettingsCommand

/-- READ SETTINGS, code 33. -/
def readSettingsCommand : Command where
  lengths := [0]
  body _ s := (s, Reply.ok (settingsBytes s.mga.settings))

/-- READ_SETTINGS. -/
def execReadSettings (s : State) : Host.Outcome State Fault Refusal := s.execute (hasCode 33) readSettingsCommand

/-! ## Reading state (R189, R190, R194) -/

/-- The time remaining of a state timer, in ms rounded up (R189). -/
def msRemaining : Option StateTimer → Nat
  | none => 0
  | some t => (t.remaining + 999999) / 1000000

/-- The group part of a snapshot, 24 bytes (R189). -/
def groupPart (s : State) (g : Index) : List Byte :=
  let c := s.ctx g
  let p := s.path g
  [byte c.state.code, byte c.reason.code, byte (originCode c.origin), byte c.goodCount,
   byte (4 * bit c.record.skew.isNone + 2 * bit c.stale + bit c.bound.isSome), byte (boundWidth s g),
   byte (timerCode c.timer)]
    ++ bytes32 (msRemaining c.timer)
    ++ [byte p.gate.code, byte p.profile.val, byte p.map.code, byte (viewByte c.record.lastView),
        byte (laneMapByte c.record.laneMap)]
    ++ bytes32 (c.record.skew.getD 0) ++ bytes32 p.fenced.toNat

/-- The far and return bytes of a lane entry, 0 when unmerged (R189). -/
def mergedBytes : Option Merged → List Byte
  | some m =>
    identityBytes m.far.chassis m.far.unit
      ++ [byte m.far.port, byte m.far.lane, byte (portOf m.back).val, byte (laneOf m.back).val]
  | none => [0, 0, 0, 0, 0, 0]

/-- One lane entry of a snapshot, 19 bytes (R189). -/
def lanePart (s : State) (g : Index) (i : Fin 4) : List Byte :=
  let l := laneAt g i.val
  let f := Tab.get s.lfr l
  let v := Tab.get s.buc.lockView l
  let r := Tab.get (s.ctx g).record.lanes i
  [byte f.state.code,
   byte (32 * bit v.locked + 16 * bit v.polarity + 8 * bit r.merged.isSome + 4 * bit r.conflicted
     + 2 * bit r.suspect + bit r.inverted),
   byte (4 * bit r.estimate.isNone + 2 * bit r.length.isNone + bit r.comp.isNone)]
    ++ mergedBytes r.merged ++ [byte r.missRun, byte r.echoCount] ++ bytes32 (r.estimate.getD 0)
    ++ bytes16 (r.length.getD 0) ++ [byte (r.comp.getD 0), byte (Tab.get (s.path g).comps i)]

/-- The snapshot of a context: 24 + 19 × W bytes, W the width of the bound copy, or 1 (R189). -/
def groupResult (s : State) (g : Index) : List Byte :=
  groupPart s g
    ++ (((List.finRange 4).filter fun i => decide (i.val < boundWidth s g)).flatMap fun i => lanePart s g i)

/-- READ GROUP, code 48. -/
def readGroupCommand : Command where
  lengths := [1]
  body args s :=
    match indexArg (at8 args 0) 64 with
    | none => (s, Reply.refuse .index)
    | some g => (s, Reply.ok (groupResult s g))

/-- READ_GROUP. -/
def execReadGroup (s : State) : Host.Outcome State Fault Refusal := s.execute (hasCode 48) readGroupCommand

/-- READ INVENTORY, code 49. -/
def readInventoryCommand : Command where
  lengths := [0]
  body _ s := (s, Reply.ok ((Tab.list s.ciu.records).flatMap inventoryBytes))

/-- READ_INVENTORY. -/
def execReadInventory (s : State) : Host.Outcome State Fault Refusal := s.execute (hasCode 49) readInventoryCommand

/-- The nine bytes of a returned notice (R194). -/
def noticeBytes (n : Notice) : List Byte :=
  [byte n.subject, byte (noticeFlags n)] ++ contentBytes n.content ++ bytes32 n.time.toNat

/-- READ NOTICES, code 50: up to eight notices leave the head of the queue. -/
def readNoticesCommand : Command where
  lengths := [0]
  body _ s :=
    let out := s.notices.take Config.noticesPerRead
    ({ s with notices := s.notices.drop Config.noticesPerRead },
      Reply.ok (byte out.length :: out.flatMap noticeBytes))

/-- READ_NOTICES. -/
def execReadNotices (s : State) : Host.Outcome State Fault Refusal := s.execute (hasCode 50) readNoticesCommand

/-- READ COUNTERS, code 51. -/
def readCountersCommand : Command where
  lengths := [0]
  body _ s :=
    (s, Reply.ok (bytes32 s.psc.late.toNat ++ bytes32 s.fsu.malformed.toNat ++ bytes16 s.sws.completed.toNat))

/-- READ_COUNTERS. -/
def execReadCounters (s : State) : Host.Outcome State Fault Refusal := s.execute (hasCode 51) readCountersCommand

/-! ## Group actions (R191) -/

/-- The actions of GROUP ACTION. -/
inductive GroupAction where
  | hold
  | resume
  | recheck
deriving DecidableEq, Repr

/-- Action codes in the result (R191). -/
def GroupAction.code : GroupAction → Nat
  | .hold => 2
  | .resume => 1
  | .recheck => 0

/-- The one action an action byte picks (R191). -/
def pickAction (b : Byte) : Option GroupAction :=
  if b.getLsbD 2 then some .hold
  else if b.getLsbD 1 then some .resume
  else if b.getLsbD 0 then some .recheck
  else none

/-- An action applied to one context. -/
def GroupAction.apply (a : GroupAction) (s : State) (g : Index) : State × Bool :=
  match a with
  | .hold => s.holdAction g
  | .resume => s.resumeAction g
  | .recheck => s.recheckAction g

/-- An action applied in index order to each context whose plan entry is enabled, with the number where it was carried out. -/
def GroupAction.applyAll (a : GroupAction) (s : State) : State × Nat :=
  indices.foldl
    (fun (t, n) g => if (s.entry g).enabled then ((a.apply t g).1, n + bit (a.apply t g).2) else (t, n)) (s, 0)

/-- GROUP ACTION, code 64, carrying out one action (R191). -/
def groupActionCommand (a : GroupAction) : Command where
  lengths := [2]
  body args s :=
    if 64 < at8 args 0 then (s, Reply.refuse .index)
    else if (pickAction (args.getD 1 0)).isNone then (s, Reply.refuse .action)
    else
      match indexArg (at8 args 0) 64 with
      | some g =>
        let r := a.apply s g
        (r.1.endEvent s,
          { status := if r.2 then .ok else .notApplicable
            detail := .none
            result := [byte a.code, byte (bit r.2)] })
      | none =>
        let r := a.applyAll s
        (r.1.endEvent s, Reply.ok [byte a.code, byte r.2])

/-- A GROUP ACTION request that this action's row executes: the action byte picks it; a request refused whichever row takes it belongs to each (log 8). -/
def wantsAction (a : GroupAction) (r : ControlRequest) : Bool :=
  (r.code == 64)
    && ((r.args.length != 2) || (pickAction (r.args.getD 1 0)).isNone || (pickAction (r.args.getD 1 0) == some a))

/-- GROUP_ACTION_HOLD (R74). -/
def execGroupActionHold (s : State) : Host.Outcome State Fault Refusal :=
  s.execute (wantsAction .hold) (groupActionCommand .hold)

/-- GROUP_ACTION_RESUME (R76). -/
def execGroupActionResume (s : State) : Host.Outcome State Fault Refusal :=
  s.execute (wantsAction .resume) (groupActionCommand .resume)

/-- GROUP_ACTION_RECHECK (R172, R79). -/
def execGroupActionRecheck (s : State) : Host.Outcome State Fault Refusal :=
  s.execute (wantsAction .recheck) (groupActionCommand .recheck)

/-! ## Sweep control and soft reset (R170, R192, R195) -/

/-- SWEEP CONTROL as the Sweep Scheduler takes it (R170). -/
def State.setSweep (s : State) (mode : SweepMode) (count : Nat) : State :=
  ({ s with sws := { s.sws with
      mode := mode
      remaining := match mode with
        | .single => clamp 1 255 count
        | .off | .continuous => 0
      position := 0
      flag := false } }).startStepTimer

/-- The four bytes of SWEEP CONTROL (R192). -/
def sweepResult (s : State) : List Byte :=
  [byte s.sws.mode.code, byte s.sws.remaining, byte s.sws.position.val, byte (bit s.sws.flag)]

/-- SWEEP CONTROL, code 80: the read form, or a mode and a count (R192). -/
def sweepControlCommand : Command where
  lengths := [0, 2]
  body args s :=
    if args.isEmpty then (s, Reply.ok (sweepResult s))
    else
      match modeOfCode (args.getD 0 0) with
      | none => (s, Reply.refuse .mode)
      | some mode =>
        let t := s.setSweep mode (at8 args 1)
        (t, Reply.ok (sweepResult t))

/-- SWEEP_CONTROL. -/
def execSweepControl (s : State) : Host.Outcome State Fault Refusal := s.execute (hasCode 80) sweepControlCommand

/-- SOFT RESET, code 96. -/
def softResetCommand : Command where
  lengths := [0]
  body _ s := (s.softReset, Reply.ok [])

/-- SOFT_RESET. -/
def execSoftReset (s : State) : Host.Outcome State Fault Refusal := s.execute (hasCode 96) softResetCommand

end Sys2Proof.Machine
end

