-- ==== Sys2Proof/Machine/Dispatch.lean ====
section
/-! DEFINITION. The dispatch: one arm for each constructor of Instr, a call of its meaning. -/

namespace Sys2Proof.Machine

/-- The effect of a command on everything but the queue. -/
def exec (i : Instr) (s : State) : Host.Outcome State Fault Refusal :=
  match i with
  | .resetAssert => Sys2Proof.Machine.execResetAssert s
  | .resetRelease => Sys2Proof.Machine.execResetRelease s
  | .signalDetected port lane => Sys2Proof.Machine.execSignalDetected port lane s
  | .signalLost port lane => Sys2Proof.Machine.execSignalLost port lane s
  | .lockAchieved port lane inverted => Sys2Proof.Machine.execLockAchieved port lane inverted s
  | .lockLost port lane => Sys2Proof.Machine.execLockLost port lane s
  | .leadWordArrival side port lane frame => Sys2Proof.Machine.execLeadWordArrival side port lane frame s
  | .shortFrameDiscard side port lane => Sys2Proof.Machine.execShortFrameDiscard side port lane s
  | .deskewHoldExpiry port lane => Sys2Proof.Machine.execDeskewHoldExpiry port lane s
  | .probeReceived port lane rest => Sys2Proof.Machine.execProbeReceived port lane rest s
  | .echoReceived port lane rest => Sys2Proof.Machine.execEchoReceived port lane rest s
  | .probeDeadlineExpiry slot => Sys2Proof.Machine.execProbeDeadlineExpiry slot s
  | .probeDeparture slot => Sys2Proof.Machine.execProbeDeparture slot s
  | .echoDeparture port lane => Sys2Proof.Machine.execEchoDeparture port lane s
  | .responseDeparture port lane => Sys2Proof.Machine.execResponseDeparture port lane s
  | .controlRequestReceived port lane rest => Sys2Proof.Machine.execControlRequestReceived port lane rest s
  | .palertRise => Sys2Proof.Machine.execPalertRise s
  | .inventoryIntervalExpiry => Sys2Proof.Machine.execInventoryIntervalExpiry s
  | .chainReadEnd bits => Sys2Proof.Machine.execChainReadEnd bits s
  | .lockTimerExpiry group => Sys2Proof.Machine.execLockTimerExpiry group s
  | .agreementTimerExpiry group => Sys2Proof.Machine.execAgreementTimerExpiry group s
  | .retryTimerExpiry group => Sys2Proof.Machine.execRetryTimerExpiry group s
  | .agreementPollExpiry group => Sys2Proof.Machine.execAgreementPollExpiry group s
  | .sweepStep => Sys2Proof.Machine.execSweepStep s
  | .unknownCommand => Sys2Proof.Machine.execUnknownCommand s
  | .readIdentity => Sys2Proof.Machine.execReadIdentity s
  | .setIdentity => Sys2Proof.Machine.execSetIdentity s
  | .writePlanEntry => Sys2Proof.Machine.execWritePlanEntry s
  | .readPlanEntry => Sys2Proof.Machine.execReadPlanEntry s
  | .writeClassEntry => Sys2Proof.Machine.execWriteClassEntry s
  | .readClassEntry => Sys2Proof.Machine.execReadClassEntry s
  | .writeProfile => Sys2Proof.Machine.execWriteProfile s
  | .readProfile => Sys2Proof.Machine.execReadProfile s
  | .writeFrameClass => Sys2Proof.Machine.execWriteFrameClass s
  | .readFrameClass => Sys2Proof.Machine.execReadFrameClass s
  | .writeSettings => Sys2Proof.Machine.execWriteSettings s
  | .readSettings => Sys2Proof.Machine.execReadSettings s
  | .readGroup => Sys2Proof.Machine.execReadGroup s
  | .readInventory => Sys2Proof.Machine.execReadInventory s
  | .readNotices => Sys2Proof.Machine.execReadNotices s
  | .readCounters => Sys2Proof.Machine.execReadCounters s
  | .groupActionHold => Sys2Proof.Machine.execGroupActionHold s
  | .groupActionResume => Sys2Proof.Machine.execGroupActionResume s
  | .groupActionRecheck => Sys2Proof.Machine.execGroupActionRecheck s
  | .sweepControl => Sys2Proof.Machine.execSweepControl s
  | .softReset => Sys2Proof.Machine.execSoftReset s
  | .frameUnderWayEnd side port lane abortMark => Sys2Proof.Machine.execFrameUnderWayEnd side port lane abortMark s
  | .targetFieldsArrival port lane target => Sys2Proof.Machine.execTargetFieldsArrival port lane target s

end Sys2Proof.Machine
end

