-- ==== Sys2Proof/Machine/Clock.lean ====
section
/-! DEFINITION. What the part does with an empty command queue: its own events that are due, and the 1 ns tick (log 1, 2). -/

namespace Sys2Proof.Machine

/-- A list with one element, or none. -/
def onlyIf (b : Bool) (c : Instr) : List Instr := if b then [c] else []

/-- The row that executes a request (R184, R185, R191). -/
def rowOf (r : ControlRequest) : Instr :=
  match r.code with
  | 1 => .readIdentity
  | 2 => .setIdentity
  | 16 => .writePlanEntry
  | 17 => .readPlanEntry
  | 18 => .writeClassEntry
  | 19 => .readClassEntry
  | 20 => .writeProfile
  | 21 => .readProfile
  | 22 => .writeFrameClass
  | 23 => .readFrameClass
  | 32 => .writeSettings
  | 33 => .readSettings
  | 48 => .readGroup
  | 49 => .readInventory
  | 50 => .readNotices
  | 51 => .readCounters
  | 64 =>
    if wantsAction .hold r then .groupActionHold
    else if wantsAction .resume r then .groupActionResume
    else .groupActionRecheck
  | 80 => .sweepControl
  | 96 => .softReset
  | _ => .unknownCommand

/-- An execution is due when an entry is WAITING (R184). -/
def dueExecutions (s : State) : List Instr :=
  match earliestWaiting s.mga.queue with
  | some r => [rowOf r]
  | none => []

/-- Departures and hold ends due on one lane (R5, R18). -/
def dueOnLane (s : State) (l : Index) : List Instr :=
  onlyIf ((Tab.get s.ers l).isSome && laneFree s .line l) (.echoDeparture (portOf l) (laneOf l))
    ++ onlyIf ((takeResponse l s.mga.queue).isSome && laneFree s .system l) (.responseDeparture (portOf l) (laneOf l))
    ++ onlyIf ((Tab.get s.fsu.holds l).head?.any fun h => h.remaining == 0) (.deskewHoldExpiry (portOf l) (laneOf l))

/-- The departure or deadline due at a slot (R5, R121). -/
def dueAtSlot (s : State) (k : Fin 8) : List Instr :=
  match (Tab.get s.psc.slots k).state with
  | .free => []
  | .granted g i =>
    onlyIf (laneFree s .line (laneAt g i.val) && (Tab.get s.ers (laneAt g i.val)).isNone) (.probeDeparture k)
  | .sent _ _ t timeout _ => onlyIf (decide (timeout ≤ (s.psc.now - t).toNat)) (.probeDeadlineExpiry k)

/-- The timers due at a context (R65, R68, R79, R164). -/
def dueAtContext (s : State) (g : Index) : List Instr :=
  (match (s.ctx g).timer with
   | some t =>
     onlyIf (t.remaining == 0)
       (match t.kind with
        | .lock => .lockTimerExpiry g
        | .agreement => .agreementTimerExpiry g
        | .retry => .retryTimerExpiry g)
   | none => [])
    ++ onlyIf ((s.ctx g).poll == some 0) (.agreementPollExpiry g)

/-- The rows of the table that are due now. -/
def dueRows (s : State) : List Instr :=
  dueExecutions s ++ indices.flatMap (dueOnLane s) ++ (List.finRange 8).flatMap (dueAtSlot s)
    ++ indices.flatMap (dueAtContext s) ++ onlyIf (s.ciu.timer == some 0) .inventoryIntervalExpiry
    ++ onlyIf (s.sws.timer == some 0) .sweepStep

/-- An event of the part's own: a row of the table, or the taking of the port change event that has waited longest (R49, R50). -/
inductive OwnEvent where
  | row (c : Instr)
  | portChange
deriving DecidableEq, Repr

/-- The part's own events that are due now. -/
def dueEvents (s : State) : List OwnEvent :=
  if s.inReset then []
  else (dueRows s).map .row ++ match s.ciu.handed with
    | [] => []
    | _ :: _ => [.portChange]

/-- What an own event does. -/
def OwnEvent.run (e : OwnEvent) (s : State) : Host.Outcome State Fault Refusal :=
  match e with
  | .row c => exec c s
  | .portChange => .next s.takeWaiting

/-- The own event taken next, with the state it acts on: the only one due, or one of several by the free value of log 2. -/
def nextOwn (s : State) : Option (OwnEvent × State) :=
  match dueEvents s with
  | [] => none
  | [e] => some (e, s)
  | e :: d :: rest =>
    some ((e :: d :: rest).getD (Config.dueChoice s.turn % (rest.length + 2)) e, { s with turn := s.turn + 1 })

/-- A context's timers after a tick. -/
def Context.tick (c : Context) : Context :=
  { c with
    timer := c.timer.map fun t => { t with remaining := t.remaining - 1 }
    poll := c.poll.map fun n => n - 1 }

/-- One tick of 1 ns: the timestamp counter advances (R108), every running timer and hold has 1 ns less, and a chain read is 1 ns further. While the reset
line is asserted the counter holds 0 and no timer runs. -/
def State.tick (s : State) : State :=
  if s.inReset then s
  else
    { s with
      psc := { s.psc with now := s.psc.now + 1 }
      buc := { s.buc with contexts := Tab.map Context.tick s.buc.contexts }
      fsu := { s.fsu with holds := Tab.map (List.map fun h => { h with remaining := h.remaining - 1 }) s.fsu.holds }
      ciu := { s.ciu with
        timer := s.ciu.timer.map fun n => n - 1
        elapsed := if s.ciu.inProgress then min (s.ciu.elapsed + 1) Config.chainReadTime else s.ciu.elapsed }
      sws := { s.sws with timer := s.sws.timer.map fun n => n - 1 } }

end Sys2Proof.Machine
end

