-- ==== Sys2Proof/Safety.lean ====
section
/-! DEFINITION. What holds of a safe part, and the frames of its events, in the terms the statements use. -/

namespace Sys2Proof.Machine

/-! ## Frames of an event at one context -/

/-- The frames on a transmit lane that have not left it, the one under way first. -/
def TxLane.content (t : TxLane) : List TxFrame := t.underWay.toList ++ t.buffer.map TxFrame.data

/-- The frame is no data frame of group g. -/
def TxFrame.notOf (g : Index) : TxFrame → Bool
  | .data f => f.group != g
  | .probe _ | .echo _ | .response _ => true

/-- The blocks no event at a context changes: reset line, Frame Class Table, malformed counter, plan, inventory, timestamp counter, Sweep
Scheduler, Management Agent, and the model's own fields. -/
structure BlocksKept (s t : State) : Prop where
  inReset : t.inReset = s.inReset
  classTable : t.fsu.classTable = s.fsu.classTable
  malformed : t.fsu.malformed = s.fsu.malformed
  cpt : t.cpt = s.cpt
  ciu : t.ciu = s.ciu
  now : t.psc.now = s.psc.now
  sws : t.sws = s.sws
  mga : t.mga = s.mga
  turn : t.turn = s.turn
  pending : t.pending = s.pending

/-- The receiving side of the part is unchanged: lane fronts, lane lock view, echo slots, frames in interception on the line lanes, and the
late-echo counter. -/
structure ReceiveKept (s t : State) : Prop where
  lfr : t.lfr = s.lfr
  lockView : t.buc.lockView = s.buc.lockView
  ers : t.ers = s.ers
  lineRx : t.fsu.lineRx = s.fsu.lineRx
  late : t.psc.late = s.psc.late

/-- Nothing of a group but g is changed: contexts, gates, frames under way or held, probes, requests (their kind and rounds, in order) and
notices. Requests may be granted rounds. -/
structure OthersKept (g : Index) (s t : State) : Prop where
  contexts : ∀ h, h ≠ g → t.ctx h = s.ctx h
  paths : ∀ h, h ≠ g → t.path h = s.path h
  content : ∀ side l,
    (Tab.get (t.tx side) l).content.filter (TxFrame.notOf g) = (Tab.get (s.tx side) l).content.filter (TxFrame.notOf g)
  holds : ∀ l, (Tab.get t.fsu.holds l).filter (fun h => h.frame.group != g)
    = (Tab.get s.fsu.holds l).filter (fun h => h.frame.group != g)
  probes : ∀ k h, h ≠ g → (Tab.get s.psc.slots k).state.group = some h → Tab.get t.psc.slots k = Tab.get s.psc.slots k
  requests : (t.psc.queue.filter fun r => r.group != g).map (fun r => (r.group, r.kind, r.rounds))
    = (s.psc.queue.filter fun r => r.group != g).map (fun r => (r.group, r.kind, r.rounds))
  notices : t.notices.filter (fun n => n.subject != g.val) = s.notices.filter (fun n => n.subject != g.val)

/-! ## Notices of an event -/

/-- The Notice Queue after the end of an event that took the part from s to t has come to context g: it takes the group notice of g if the
state, reason or hold origin of g differs from the one it had, with the values of t and the time of s (R57). -/
def groupNoticed (s t : State) (q : List Notice) (g : Index) : List Notice :=
  if (t.ctx g).state = (s.ctx g).state ∧ (t.ctx g).reason = (s.ctx g).reason ∧ (t.ctx g).origin = (s.ctx g).origin then q
  else postNotice q g.val (.group (t.ctx g).state (t.ctx g).reason (t.ctx g).origin) s.psc.now

/-- The Notice Queue after the port notice of port p, with its record in t and the time of s (R48). -/
def portNoticed (s t : State) (q : List Notice) (p : Fin 16) : List Notice :=
  postNotice q (64 + p.val) (.port (Tab.get t.ciu.records p)) s.psc.now

/-! ## What a context is after an event -/

/-- Group g has no outstanding probe, no request and no burst lock (R126). -/
structure NoProbeWork (s : State) (g : Index) : Prop where
  slots : ∀ k, (Tab.get s.psc.slots k).state.group ≠ some g
  queue : hasRequest s.psc.queue g = false
  holder : s.psc.holder ≠ some g

/-- Context g is in a state with a reason and hold origin, and its gate is the one of that state (R13, R55). -/
structure InState (s : State) (g : Index) (st : GroupState) (r : Reason) (o : Option HoldOrigin) : Prop where
  state : (s.ctx g).state = st
  reason : (s.ctx g).reason = r
  origin : (s.ctx g).origin = o
  gate : (s.path g).gate = gateOf st

/-- Lane offset i of a record just cleared, with its polarity captured from the lane lock view (R63). -/
def freshLane (s : State) (g : Index) (i : Fin 4) : LaneRecord :=
  if i.val < boundWidth s g then
    { LaneRecord.cleared with inverted := (Tab.get s.buc.lockView (laneAt g i.val)).polarity }
  else LaneRecord.cleared

/-- Context g has just entered DISCOVERING (R63): cleared record with the polarity flags, count 0, no timer, and a BURST of `rounds`
rounds in the queue. -/
structure StartsDiscovery (s : State) (g : Index) (rounds : Nat) : Prop where
  inState : InState s g .discovering .none none
  timer : (s.ctx g).timer = none
  poll : (s.ctx g).poll = none
  goodCount : (s.ctx g).goodCount = 0
  lanes : ∀ i, Tab.get (s.ctx g).record.lanes i = freshLane s g i
  lastView : (s.ctx g).record.lastView = none
  laneMap : (s.ctx g).record.laneMap = none
  skew : (s.ctx g).record.skew = none
  burst : ∃ r ∈ s.psc.queue, r.group = g ∧ r.kind = .burst ∧ r.rounds = rounds

/-- Context g waits with a reason, its record cleared and its timers stopped (R60). -/
structure Waits (s : State) (g : Index) (r : Reason) : Prop where
  inState : InState s g .waiting r none
  record : (s.ctx g).record = DiscoveryRecord.cleared
  timer : (s.ctx g).timer = none
  poll : (s.ctx g).poll = none
  goodCount : (s.ctx g).goodCount = 0
  probes : NoProbeWork s g

/-- Context g has just entered ACQUIRING with a fresh lock timer, its record kept (R61). -/
structure Acquires (s t : State) (g : Index) : Prop where
  inState : InState t g .acquiring .none none
  timer : (t.ctx g).timer = some { kind := .lock, remaining := msToNs s.mga.settings.lockTimeout }
  poll : (t.ctx g).poll = none
  record : (t.ctx g).record = (s.ctx g).record
  probes : NoProbeWork t g

/-- Context g of s, taken to ACQUIRING, ends in DISCOVERING if all its lanes are locked, else in ACQUIRING (R61). -/
def AcquiresOrDiscovers (s t : State) (g : Index) : Prop :=
  if allLocked s g then StartsDiscovery t g s.mga.settings.discoveryRounds else Acquires s t g

/-- The result of the start test of context g of s (R59). -/
def StartTested (s t : State) (g : Index) : Prop :=
  match startTest s g with
  | none => AcquiresOrDiscovers s t g
  | some r => Waits t g r

/-- What a port change event does to context g, the inventory record being that of s (R49, R70 to R72): a WAITING context applies the start test
again; REMOVED takes every other planned context to WAITING, and READY with ready no every one but a HELD one; REPLACED takes those through the
start test; what is left is kept. -/
def PortChangeActs (s t : State) (g : Index) (e : PortChange) : Prop :=
  let kept := t.ctx g = s.ctx g ∧ t.path g = s.path g
  match (s.ctx g).state, e with
  | .unplanned, _ => kept
  | .waiting, _ =>
    match startTest s g with
    | some w => t.ctx g = { s.ctx g with reason := w } ∧ t.path g = s.path g
    | none => AcquiresOrDiscovers s t g
  | _, .removed => Waits t g (if s.mga.identity.assigned then .cableAbsent else .noIdentity)
  | .held, _ => kept
  | _, .ready false => Waits t g (if s.mga.identity.assigned then .noReady else .noIdentity)
  | _, .replaced => StartTested s t g
  | _, .arrived | _, .ready true => kept

/-- Context g has been quarantined (R78): record kept, probe work abandoned, retry timer by the bound retry interval. -/
structure Quarantined (s t : State) (g : Index) (r : Reason) : Prop where
  inState : InState t g .quarantined r none
  record : (t.ctx g).record = (s.ctx g).record
  bound : (t.ctx g).bound = (s.ctx g).bound
  timer : (t.ctx g).timer = match (s.ctx g).bound with
    | some b => if b.retry = 0 then none else some { kind := .retry, remaining := 1000000000 * b.retry }
    | none => none
  poll : (t.ctx g).poll = none
  probes : NoProbeWork t g

/-- Context g has been held (R74, R77): record and binding kept, no timer, probe work abandoned. -/
structure Held (s t : State) (g : Index) (r : Reason) (o : HoldOrigin) : Prop where
  inState : InState t g .held r (some o)
  record : (t.ctx g).record = (s.ctx g).record
  bound : (t.ctx g).bound = (s.ctx g).bound
  timer : (t.ctx g).timer = none
  poll : (t.ctx g).poll = none
  probes : NoProbeWork t g

/-- Context g has gone to AGREEING on a view (R103): both its timers start, and the good-recheck count stands (R177). -/
structure StartsAgreeing (s t : State) (g : Index) : Prop where
  inState : InState t g .agreeing .none none
  record : (t.ctx g).record = (s.ctx g).record
  bound : (t.ctx g).bound = (s.ctx g).bound
  goodCount : (t.ctx g).goodCount = (s.ctx g).goodCount
  timer : (t.ctx g).timer = some { kind := .agreement, remaining := msToNs s.mga.settings.agreementTimeout }
  poll : (t.ctx g).poll = some 2000000

/-- Context g has been opened by a view PASS (R102). -/
structure Opens (s t : State) (g : Index) : Prop where
  inState : InState t g .verified .none none
  record : (t.ctx g).record = (s.ctx g).record
  bound : (t.ctx g).bound = (s.ctx g).bound
  timer : (t.ctx g).timer = none
  poll : (t.ctx g).poll = none
  profile : (t.path g).profile = ((s.ctx g).bound.map PlanFields.profile).getD (s.path g).profile

/-- What an accepted view does to context g (the table of 05 section 5.6, R101 to R106). -/
def ViewActed (s t : State) (g : Index) (v : View) : Prop :=
  match (s.ctx g).state, v with
  | .discovering, v =>
    t.ctx g = { s.ctx g with record := { (s.ctx g).record with lastView := some v } }
  | .agreeing, .pass => Opens s t g
  | .agreeing, .pending => t.ctx g = s.ctx g
  | .agreeing, .fail | .agreeing, .unplanned => Quarantined s t g .peerRejects
  | .agreeing, .held => Held s t g .holdRemote .remoteHold
  | .verified, .pass | .degraded, .pass => t.ctx g = s.ctx g
  | .verified, .pending | .degraded, .pending => StartsAgreeing s t g
  | .verified, .fail | .verified, .unplanned | .degraded, .fail | .degraded, .unplanned =>
    Quarantined s t g .peerRejects
  | .verified, .held | .degraded, .held => Held s t g .holdRemote .remoteHold
  | .held, v =>
    if (s.ctx g).origin = some .remoteHold ∧ v ≠ .held then StartTested s t g else t.ctx g = s.ctx g
  | .quarantined, .held => Held s t g .holdRemote .remoteHold
  | .quarantined, .pass | .quarantined, .pending | .quarantined, .fail | .quarantined, .unplanned =>
    t.ctx g = s.ctx g
  | .waiting, _ | .acquiring, _ | .lost, _ | .unplanned, _ => t.ctx g = s.ctx g

/-- The four conditions of R120 for an echo with arrival time `a`: slot k is SENT, of the tag's generation and the copied send time,
and the echo is on time. -/
def EchoMatches (s : State) (k : Fin 8) (g : Index) (i : Fin 4) (a : Time) (e : EchoFields) : Prop :=
  ∃ timeout deadline, (Tab.get s.psc.slots k).state = .sent g i e.sendTime timeout deadline
    ∧ k = tagSlot e.tag ∧ (Tab.get s.psc.slots k).generation = tagGeneration e.tag ∧ (a - e.sendTime).toNat < timeout

/-- Command c settles the probe that slot k holds for lane offset i of group g, whose request is r, with outcome o: the probe's deadline is
reached (R121), or an echo that matches it has been received whole on a line lane (R120). -/
def Settles (s : State) (c : Instr) (k : Fin 8) (g : Index) (i : Fin 4) (r : ProbeRequest) (o : LaneOutcome) : Prop :=
  (c = .probeDeadlineExpiry k ∧ o = .missed
    ∧ ∃ sendTime timeout deadline, (Tab.get s.psc.slots k).state = .sent g i sendTime timeout deadline)
  ∨ ∃ p j rest a e, c = .echoReceived p j rest ∧ Tab.get s.fsu.lineRx (cell p j) = .echo a ∧ readEcho rest = some e
    ∧ EchoMatches s k g i a e
    ∧ o = .echoed
      { sendTime := e.sendTime, raw := (a - e.sendTime).toNat, arrival := a, far := e.responder, turnaround := e.turnaround
        view := e.view, back := cell p j, order := echoesTaken r.outcomes + 1 }

/-- Command c settles, with outcome o for lane offset i, the last unsettled probe of the round of group g, whose request r is in the queue (R124). -/
structure CompletesRound (s : State) (c : Instr) (g : Index) (i : Fin 4) (r : ProbeRequest) (o : LaneOutcome) : Prop where
  settles : ∃ k, Settles s c k g i r o ∧ ∀ k', k' ≠ k → (Tab.get s.psc.slots k').state.group ≠ some g
  queued : r ∈ s.psc.queue
  group : r.group = g

/-- The receive side is unchanged, but for the frame in interception on the line lane whose echo has just been received. -/
def ReceiveKeptBut (c : Instr) (s t : State) : Prop :=
  t.lfr = s.lfr ∧ t.buc.lockView = s.buc.lockView ∧ t.ers = s.ers ∧ t.psc.late = s.psc.late
    ∧ ∀ l, (∀ p j rest, c = .echoReceived p j rest → cell p j ≠ l) → Tab.get t.fsu.lineRx l = Tab.get s.fsu.lineRx l

/-- The echo that settled lane offset n of a round is a candidate for the round's view v, with its order in the round: its lane is merged, it
names the lane's far end, and that is not this part (R98). -/
def ViewCandidate (id : Identity) (dr : DiscoveryRecord) (W : Nat) (outs : Tab (Option LaneOutcome) 4) (n : Fin 4) (order : Nat)
    (v : View) : Prop :=
  n.val < W ∧ ∃ e m, Tab.get outs n = some (.echoed e) ∧ e.view = some v ∧ e.order = order
    ∧ (Tab.get dr.lanes n).merged = some m ∧ e.far = m.far ∧ ¬(e.far.chassis = id.chassis ∧ e.far.unit = id.unit)

/-- The round has view v: that of the candidate whose echo was taken latest (R98). -/
def RoundHasView (id : Identity) (dr : DiscoveryRecord) (W : Nat) (outs : Tab (Option LaneOutcome) 4) (v : View) : Prop :=
  ∃ n order, ViewCandidate id dr W outs n order v ∧ ∀ n' order' v', ViewCandidate id dr W outs n' order' v' → n' ≠ n → order' < order

/-- A verdict has been made of group g (R64, R135, R145, R146): its binding is refreshed, its request and burst lock are gone, and it has
left DISCOVERING for one of the four outcomes; one that passes has loaded the record's map and compensations into the FSU. -/
structure VerdictMade (s t : State) (g : Index) : Prop where
  probes : NoProbeWork t g
  bound : (t.ctx g).bound = some (s.entry g).fields
  stale : (t.ctx g).stale = false
  outcome :
    (∃ r, InState t g .quarantined r none) ∧ (t.path g).map = (s.path g).map ∧ (t.path g).comps = (s.path g).comps
    ∨ (InState t g .agreeing .none none ∨ InState t g .verified .none none ∨ InState t g .held .holdRemote (some .remoteHold))
      ∧ (t.ctx g).record.laneMap = some (t.path g).map
      ∧ (∀ i, Tab.get (t.path g).comps i = ((Tab.get (t.ctx g).record.lanes i).comp).getD 0)
  profile : (t.path g).profile = (s.entry g).fields.profile

/-- The record of a port after its byte of a chain read has been judged (R42, R45 to R47). -/
def recordAfterByte (plan : Tab PlanEntry 64) (p : Fin 16) (old : InventoryRecord) (b : Byte) : InventoryRecord :=
  if onesCount b % 2 = 0 ∨ (b.extractLsb' 2 2).toNat = 3 then { old with fault := true }
  else if b.getLsbD 7 = false then InventoryRecord.absent
  else
    { present := true
      cls := (b.extractLsb' 4 3).toFin
      shape := if (b.extractLsb' 2 2).toNat = 0 then .whole else if (b.extractLsb' 2 2).toNat = 1 then .pair else .quad
      ready := b.getLsbD 1
      fault := false
      unplanned := decide (∃ j : Fin 4, covering plan (cell p j) = none) }

/-! ## The arbiter's grant attempts -/

/-- The request c has the earliest arrival position in the queue among those with a property. -/
def Earliest (q : List ProbeRequest) (has : ProbeRequest → Prop) (c : ProbeRequest) : Prop :=
  ∃ ahead behind, q = ahead ++ c :: behind ∧ has c ∧ ∀ r ∈ ahead, ¬has r

/-- The request c is the candidate of a grant attempt (R113): the earliest URGENT request not in flight; else the burst holder, if it is not in
flight; else the earliest request not in flight. -/
def IsCandidate (p : Psc) (c : ProbeRequest) : Prop :=
  let urgent := fun r : ProbeRequest => r.kind = .urgent ∧ r.inFlight = false
  let holder := fun r : ProbeRequest => p.holder = some r.group ∧ r.inFlight = false
  Earliest p.queue urgent c
  ∨ (∀ r ∈ p.queue, ¬urgent r)
    ∧ (Earliest p.queue holder c ∨ (∀ r ∈ p.queue, ¬holder r) ∧ Earliest p.queue (fun r => r.inFlight = false) c)

/-- The slots suffice for candidate c (R114): the FREE ones number at least its width W, and at least W plus the holder's width while there is a
burst holder in flight and the candidate is neither the holder nor URGENT. -/
def SlotsSuffice (width : Index → Nat) (p : Psc) (c : ProbeRequest) : Prop :=
  let free := ((List.finRange 8).filter fun k => (Tab.get p.slots k).state = .free).length
  width c.group ≤ free
    ∧ ∀ h, p.holder = some h → (∃ r ∈ p.queue, r.group = h ∧ r.inFlight = true) → h ≠ c.group → c.kind ≠ .urgent →
      width c.group + width h ≤ free

/-- A round of W probes has been granted to request c: it is in flight with no outcome yet, a BURST takes the holder mark if no request has it
(R116), and lane offset i takes the i-th of the FREE slots from the lowest, its generation advanced by 1 (R118). -/
structure RoundGranted (W : Nat) (c : ProbeRequest) (p q : Psc) : Prop where
  now : q.now = p.now
  late : q.late = p.late
  holder : q.holder = if c.kind = .burst ∧ p.holder = none then some c.group else p.holder
  queue : q.queue = p.queue.map fun r => if r.group = c.group then { r with inFlight := true, outcomes := Tab.fill none } else r
  taken : ∀ (i : Fin 4) (k : Fin 8), i.val < W →
    ((List.finRange 8).filter fun k => (Tab.get p.slots k).state = .free)[i.val]? = some k →
    Tab.get q.slots k = { generation := (Tab.get p.slots k).generation + 1, state := .granted c.group i }
  kept : ∀ k, k ∉ ((List.finRange 8).filter fun k => (Tab.get p.slots k).state = .free).take W → Tab.get q.slots k = Tab.get p.slots k

/-- The grant attempts of one event (R112, R115): a candidate for which the slots suffice is granted a round and another attempt follows; one
for which they do not ends the attempts, whatever waits behind it; so does an empty choice. -/
inductive GrantsMade (width : Index → Nat) : Psc → Psc → Prop where
  | none {p : Psc} (flying : ∀ r ∈ p.queue, r.inFlight = true) : GrantsMade width p p
  | blocked {p : Psc} {c : ProbeRequest} (candidate : IsCandidate p c) (fails : ¬SlotsSuffice width p c) : GrantsMade width p p
  | granted {p q r : Psc} {c : ProbeRequest} (candidate : IsCandidate p c) (passes : SlotsSuffice width p c)
      (round : RoundGranted (width c.group) c p q) (rest : GrantsMade width q r) : GrantsMade width p r

/-! ## Frames on the transmit lanes -/

/-- Clear the frame in reception on a lane of a side. -/
def State.clearRx (s : State) (side : Side) (l : Index) : State :=
  match side with
  | .system => s.setSystemRx l .none
  | .line => s.setLineRx l .none

/-- A transmit lane given one more data frame: it leaves at once on a free lane with no inserted frame waiting, else it waits (R5). -/
def TxLane.offer (inserted : Bool) (f : DataFrame) (x : TxLane) : TxLane :=
  if x.underWay.isNone && !inserted then { x with underWay := some (.data f) } else { x with buffer := x.buffer ++ [f] }

/-- Data frame f offered to its transmit lane on a side (R5). -/
def State.offerFrame (s : State) (side : Side) (f : DataFrame) : State :=
  s.modTx side f.out (TxLane.offer (insertedWaits s side f.out) f)

/-- Set the frames held on a line lane. -/
def State.setHolds (s : State) (l : Index) (h : List HeldFrame) : State :=
  { s with fsu := { s.fsu with holds := Tab.set s.fsu.holds l h } }

/-- A transmit lane whose frame under way, f, has ended: the next data frame follows unless an inserted frame waits (R5). -/
def TxLane.next (inserted : Bool) (f : TxFrame) (how : FrameEnd) (x : TxLane) : TxLane where
  underWay := if inserted then none else x.buffer.head?.map TxFrame.data
  buffer := if inserted then x.buffer else x.buffer.tail
  sent := (f, how) :: x.sent

/-- The frame on a transmit lane is none of the data frames that the test does not keep. -/
def TxFrame.kept (keep : DataFrame → Bool) : TxFrame → Bool
  | .data f => keep f
  | .probe _ | .echo _ | .response _ => true

/-- The data frames under way that the test does not keep have been cut and counted against group g (R15): each is gone from its transmit lane or
its deskew hold, has left its output lane with an abort mark, and has raised the fenced-frame counter by one. Every other frame is where it was. A
frame that waits in a lane's buffer is cut like one under way, and its aborted end is recorded at once (log 28). In which order the frames cut
together leave a lane is not said. -/
structure FramesCut (g : Index) (keep : DataFrame → Bool) (s t : State) : Prop where
  content : ∀ side l, (Tab.get (t.tx side) l).content = (Tab.get (s.tx side) l).content.filter (TxFrame.kept keep)
  holds : ∀ l, Tab.get t.fsu.holds l = (Tab.get s.fsu.holds l).filter fun h => keep h.frame
  aborted : ∀ side l, ∃ ended : List TxFrame,
    (Tab.get (t.tx side) l).sent = ended.map (fun f => (f, FrameEnd.aborted)) ++ (Tab.get (s.tx side) l).sent
      ∧ ended.Perm
        ((Tab.get (s.tx side) l).content.filter (fun f => !f.kept keep)
          ++ match side with
            | .line => []
            | .system =>
              ((indices.flatMap fun k => ((Tab.get s.fsu.holds k).filter fun h => !keep h.frame).map HeldFrame.frame).filter
                fun f => f.out == l).map TxFrame.data)
  counted : (t.path g).fenced = satAdd (s.path g).fenced
    ((indices.map fun l =>
        ((Tab.get s.fsu.lineTx l).content.filter fun f => !f.kept keep).length
          + ((Tab.get s.fsu.systemTx l).content.filter fun f => !f.kept keep).length
          + ((Tab.get s.fsu.holds l).filter fun h => !keep h.frame).length).sum)

/-- The transmit lanes are settled: no lane is free while a data frame waits there and no inserted frame does (R5). -/
def LanesSettled (s : State) : Prop :=
  ∀ side l, (Tab.get (s.tx side) l).underWay = none → (Tab.get (s.tx side) l).buffer = [] ∨ insertedWaits s side l = true

/-- The probe arbiter is settled: no candidate passes its test (R112). -/
def GrantsSettled (s : State) : Prop :=
  ∀ c, candidate s.psc = some c → grantable (boundWidth s) s.psc c = false

/-! ## Invariants -/

/-- The stored tables, settings and identity hold what their rules allow: Cable Class Table (R32), profiles (R36), plan (R23, R24), Frame Class
Table (R8), Operating Settings (R188), identity (R186). -/
structure TablesValid (s : State) : Prop where
  classD : ∀ c, 3000 ≤ Tab.get s.cpt.classD c ∧ Tab.get s.cpt.classD c ≤ 8000
  profiles : ∀ p, (Tab.get s.cpt.profiles p).degraded &&& ~~~(Tab.get s.cpt.profiles p).verified = 0
  aligned : ∀ g, (laneOf g).val % (s.entry g).fields.width.lanes = 0
    ∧ (s.entry g).fields.farFirstLane ≤ 3 ∧ (s.entry g).fields.farFirstLane % (s.entry g).fields.width.lanes = 0
  farEnds : ∀ g, (s.entry g).fields.farChassis ≤ 4094 ∧ (s.entry g).fields.farUnit ≤ 14 ∧ (s.entry g).fields.farPort ≤ 15
  classes : ∀ g, (s.entry g).fields.allowed ≠ 0
  windows : ∀ g, (s.entry g).fields.lengthMin ≤ (s.entry g).fields.lengthMax
  skews : ∀ g, (s.entry g).fields.skewLimit ≤ 63
  disjoint : ∀ g h l, (s.entry g).enabled = true → (s.entry h).enabled = true → covers g (s.entry g).fields.width l = true →
    covers h (s.entry h).fields.width l = true → g = h
  kinds : kindMapHolds s.fsu.classTable = true
  probeTimeout : 1 ≤ s.mga.settings.probeTimeout ∧ s.mga.settings.probeTimeout ≤ 1000
  rounds : 1 ≤ s.mga.settings.discoveryRounds ∧ s.mga.settings.discoveryRounds ≤ 16
  smoothing : s.mga.settings.smoothing ≤ 7
  pathOffset : s.mga.settings.pathOffset ≤ 1023
  lockTimeout : 10 ≤ s.mga.settings.lockTimeout ∧ s.mga.settings.lockTimeout ≤ 2000
  agreementTimeout : 10 ≤ s.mga.settings.agreementTimeout ∧ s.mga.settings.agreementTimeout ≤ 10000
  sweepInterval : 100 ≤ s.mga.settings.sweepInterval ∧ s.mga.settings.sweepInterval ≤ 100000
  hysteresis : 1 ≤ s.mga.settings.hysteresis ∧ s.mga.settings.hysteresis ≤ 15
  inventoryInterval : 10 ≤ s.mga.settings.inventoryInterval ∧ s.mga.settings.inventoryInterval ≤ 1000
  assigned : s.mga.identity.assigned = true → s.mga.identity.chassis ≤ 4094 ∧ s.mga.identity.unit ≤ 14
  unassigned : s.mga.identity.assigned = false → s.mga.identity.chassis = 4095 ∧ s.mga.identity.unit = 15

/-- The queues hold what their rules allow: at most four management requests (R183), at most one notice per subject and subjects 0 to 79 (R193),
no pending read without a read under way (R43), and port change events that wait one for a context, each telling what the record of its port
shows (R49). -/
structure QueuesValid (s : State) : Prop where
  requests : s.mga.queue.length ≤ 4
  subjects : ∀ n ∈ s.notices, n.subject < 80
  distinct : (s.notices.map Notice.subject).Nodup
  marks : s.ciu.readPending = true → s.ciu.inProgress = true
  contexts : (s.ciu.handed.map HandedEvent.group).Nodup
  changes : ∀ e ∈ s.ciu.handed, match e.change with
    | .removed => (s.record e.group).present = false
    | .arrived | .replaced => (s.record e.group).present = true
    | .ready b => (s.record e.group).present = true ∧ (s.record e.group).ready = b

/-- A context's state agrees with its gate (R13), its plan entry (R27, R30) and the identity (R80): a context is UNPLANNED exactly while its entry is
disabled, it holds a bound copy of the entry's width exactly while the entry is enabled, and it is UNPLANNED or WAITING while the identity is
unassigned. -/
structure ContextsValid (s : State) : Prop where
  gate : ∀ g, (s.path g).gate = gateOf (s.ctx g).state
  unplanned : ∀ g, (s.ctx g).state = .unplanned ↔ (s.entry g).enabled = false
  bound : ∀ g, (s.entry g).enabled = true → ∃ b, (s.ctx g).bound = some b ∧ b.width = (s.entry g).fields.width
  unbound : ∀ g, (s.entry g).enabled = false → (s.ctx g).bound = none ∧ (s.ctx g).stale = false
  identity : s.mga.identity.assigned = false → ∀ g, (s.ctx g).state = .unplanned ∨ (s.ctx g).state = .waiting

/-- A group whose gate is CLOSED has no data frame under way (R14, R15): none on a transmit lane, none in a deskew hold, and none that a control frame
waiting for its target fields would become (log 11). -/
structure ClosedGatesIdle (s : State) : Prop where
  content : ∀ side l f, TxFrame.data f ∈ (Tab.get (s.tx side) l).content → (s.path f.group).gate ≠ .closed
  holds : ∀ l, ∀ h ∈ Tab.get s.fsu.holds l, (s.path h.frame.group).gate ≠ .closed
  judged : ∀ l lead f, Tab.get s.fsu.systemRx l = .awaitingTarget lead (.admitted f) → (s.path f.group).gate ≠ .closed

/-- Context g is one that has passed a verdict and stays open or agreeing (R147). -/
def passedVerdict (st : GroupState) : Prop := st = .agreeing ∨ st = .verified ∨ st = .degraded

/-- R147, with what a passing verdict loaded (R129, R146): in AGREEING, VERIFIED and DEGRADED every lane of the record is merged, unconflicted, returned on
its own lane, and names one far chassis, unit and port; the record's map and compensations are those the FSU holds. -/
def OpenRecordsConsistent (s : State) : Prop :=
  ∀ g, passedVerdict (s.ctx g).state →
    (∃ far, ∀ i : Fin 4, i.val < boundWidth s g →
      ∃ m, (Tab.get (s.ctx g).record.lanes i).merged = some m
        ∧ (Tab.get (s.ctx g).record.lanes i).conflicted = false
        ∧ m.back = laneAt g i.val
        ∧ (m.far.chassis, m.far.unit, m.far.port) = far)
    ∧ (s.ctx g).record.laneMap = some (s.path g).map
    ∧ ∀ i, Tab.get (s.path g).comps i = ((Tab.get (s.ctx g).record.lanes i).comp).getD 0

/-- Every item of every record, and every compensation in the FSU, lies in its range (R129, R156, R157, R159, R160). -/
structure RecordsInRange (s : State) : Prop where
  estimate : ∀ g i E, (Tab.get (s.ctx g).record.lanes i).estimate = some E → E ≤ 16777215
  length : ∀ g i n, (Tab.get (s.ctx g).record.lanes i).length = some n → n ≤ 65535
  comp : ∀ g i n, (Tab.get (s.ctx g).record.lanes i).comp = some n → n ≤ 63
  missRun : ∀ g i, (Tab.get (s.ctx g).record.lanes i).missRun ≤ 3
  echoCount : ∀ g i, (Tab.get (s.ctx g).record.lanes i).echoCount ≤ 16
  skew : ∀ g n, (s.ctx g).record.skew = some n → n ≤ 16777215
  loaded : ∀ g i, Tab.get (s.path g).comps i ≤ 63

/-- The probe scheduler's queue and slots agree (R109, R112, R116, R117): one request per group; the burst holder is a BURST in the queue; every
outstanding probe belongs to a request in flight and every request in flight has one; no two slots hold the same lane offset of a group; a ROUTINE or
URGENT request is owed one round, a BURST at least one. -/
structure SchedulerConsistent (s : State) : Prop where
  oneRequest : (s.psc.queue.map ProbeRequest.group).Nodup
  holder : ∀ h, s.psc.holder = some h → ∃ r ∈ s.psc.queue, r.group = h ∧ r.kind = .burst
  owned : ∀ k g, (Tab.get s.psc.slots k).state.group = some g → ∃ r ∈ s.psc.queue, r.group = g ∧ r.inFlight = true
  flying : ∀ r ∈ s.psc.queue, r.inFlight = true → ∃ k, (Tab.get s.psc.slots k).state.group = some r.group
  offsets : ∀ k k' g i, (Tab.get s.psc.slots k).state.probe = some (g, i) → (Tab.get s.psc.slots k').state.probe = some (g, i) → k = k'
  rounds : ∀ r ∈ s.psc.queue, 1 ≤ r.rounds ∧ (r.kind ≠ .burst → r.rounds = 1)

/-- No two outstanding probes are for one transmit lane (R117), each is for a lane of an enabled entry's group, and so is each request. -/
structure LanesDistinct (s : State) : Prop where
  planned : ∀ r ∈ s.psc.queue, (s.entry r.group).enabled = true
  covered : ∀ k g i, (Tab.get s.psc.slots k).state.probe = some (g, i) →
    (s.entry g).enabled = true ∧ i.val < (s.entry g).fields.width.lanes
  oneProbe : ∀ k k' g i g' i', (Tab.get s.psc.slots k).state.probe = some (g, i) →
    (Tab.get s.psc.slots k').state.probe = some (g', i') → laneAt g i.val = laneAt g' i'.val → k = k'

end Sys2Proof.Machine
end

