-- ==== Sys2Proof/WellFormed.lean ====
section
/-! DEFINITION. Which terms of Instr are events of the part. Ports, lanes, slots and indices are in range by their types;
the one operand whose type admits more than the spec does is the bit stream of a chain read. -/

namespace Sys2Proof

/-- A chain read takes 128 bits, one with each shift clock (R41); every other term is an event of the part. -/
def Instr.wellFormed : Instr → Bool
  | .chainReadEnd bits => bits.length == 128
  | .resetAssert | .resetRelease | .signalDetected _ _ | .signalLost _ _ | .lockAchieved _ _ _ | .lockLost _ _
  | .leadWordArrival _ _ _ _ | .shortFrameDiscard _ _ _ | .deskewHoldExpiry _ _ | .probeReceived _ _ _
  | .echoReceived _ _ _ | .probeDeadlineExpiry _ | .probeDeparture _ | .echoDeparture _ _ | .responseDeparture _ _
  | .controlRequestReceived _ _ _ | .palertRise | .inventoryIntervalExpiry | .lockTimerExpiry _
  | .agreementTimerExpiry _ | .retryTimerExpiry _ | .agreementPollExpiry _ | .sweepStep | .unknownCommand
  | .readIdentity | .setIdentity | .writePlanEntry | .readPlanEntry | .writeClassEntry | .readClassEntry
  | .writeProfile | .readProfile | .writeFrameClass | .readFrameClass | .writeSettings | .readSettings | .readGroup
  | .readInventory | .readNotices | .readCounters | .groupActionHold | .groupActionResume | .groupActionRecheck
  | .sweepControl | .softReset | .frameUnderWayEnd _ _ _ _ | .targetFieldsArrival _ _ _ => true

end Sys2Proof
end

