-- ==== Sys2Proof/Certificates/Slice0/Obligations.lean ====
section
/-! DEFINITION. The statements about the model, each a rule of the spec or a property that rests on its rules. -/

section

open Sys2Proof Sys2Proof.Machine

/-! ## The machine -/

/-- One step with command c at the front of the queue is c's effect on the state with the queue's rest. -/
def Obligations.StepRunsFrontCommand : Prop :=
  ∀ (c : Instr) (rest : List Instr) (s : State), step { s with pending := c :: rest } = exec c { s with pending := rest }

/-- With an empty queue a step takes an own event that is due, or lets one tick pass (the model's choice, log 1 and 2): the
one event due if there is only one, and a tick if there is none. A tick takes the timestamp counter 1 ns on, modulo 2^32
(R108), takes 1 ns from every running timer, poll interval and deskew hold, takes a chain read under way 1 ns on, and changes
nothing else; while the reset line is asserted it changes nothing and nothing is due. What is due is what the disjunction
lists: the execution of the earliest WAITING request by its own row, a departure on a free lane, and each timer, deadline and
hold that has run out; and, while port change events handed on wait for their contexts, the taking of the one that has waited
longest (log 32). -/
def Obligations.EmptyQueueTakesDueEventOrTick : Prop :=
  (∀ s : State, s.pending = [] →
    (dueEvents s = [] → step s = .next s.tick)
      ∧ (∀ e, dueEvents s = [e] → step s = e.run s)
      ∧ ∀ c d rest, dueEvents s = c :: d :: rest → ∃ e ∈ dueEvents s, step s = e.run { s with turn := s.turn + 1 })
  ∧ (∀ (c : Instr) (s : State), OwnEvent.run (.row c) s = exec c s)
  ∧ (∀ s : State, s.inReset = true → s.tick = s ∧ dueEvents s = [])
  ∧ (∀ s : State, s.inReset = false →
    ∃ (contexts : Tab Context 64) (holds : Tab (List HeldFrame) 64),
      s.tick =
        { s with
          psc := { s.psc with now := s.psc.now + 1 }
          buc := { s.buc with contexts := contexts }
          fsu := { s.fsu with holds := holds }
          ciu := { s.ciu with
            timer := s.ciu.timer.map fun n => n - 1
            elapsed := if s.ciu.inProgress then min (s.ciu.elapsed + 1) 130000 else s.ciu.elapsed }
          sws := { s.sws with timer := s.sws.timer.map fun n => n - 1 } }
      ∧ (s.psc.now + 1).toNat = (s.psc.now.toNat + 1) % 2 ^ 32
      ∧ (∀ g, Tab.get contexts g =
          { s.ctx g with
            timer := (s.ctx g).timer.map fun x => { x with remaining := x.remaining - 1 }
            poll := (s.ctx g).poll.map fun n => n - 1 })
      ∧ ∀ l, Tab.get holds l = (Tab.get s.fsu.holds l).map fun h => { h with remaining := h.remaining - 1 })
  ∧ (∀ s : State, s.inReset = false → (OwnEvent.portChange ∈ dueEvents s ↔ s.ciu.handed ≠ []))
  ∧ (∀ s : State, s.inReset = false → ∀ c : Instr, OwnEvent.row c ∈ dueEvents s ↔
    (∃ r, earliestWaiting s.mga.queue = some r ∧ c = rowOf r)
    ∨ (∃ p j, c = .echoDeparture p j ∧ Tab.get s.ers (cell p j) ≠ none ∧ (Tab.get s.fsu.lineTx (cell p j)).underWay = none)
    ∨ (∃ p j, c = .responseDeparture p j ∧ (∃ e ∈ s.mga.queue, e.answersOn (cell p j) = true)
        ∧ (Tab.get s.fsu.systemTx (cell p j)).underWay = none)
    ∨ (∃ p j h rest, c = .deskewHoldExpiry p j ∧ Tab.get s.fsu.holds (cell p j) = h :: rest ∧ h.remaining = 0)
    ∨ (∃ k g i, c = .probeDeparture k ∧ (Tab.get s.psc.slots k).state = .granted g i
        ∧ (Tab.get s.fsu.lineTx (laneAt g i.val)).underWay = none ∧ Tab.get s.ers (laneAt g i.val) = none)
    ∨ (∃ k g i sendTime timeout deadline, c = .probeDeadlineExpiry k
        ∧ (Tab.get s.psc.slots k).state = .sent g i sendTime timeout deadline ∧ timeout ≤ (s.psc.now - sendTime).toNat)
    ∨ (∃ g, c = .lockTimerExpiry g ∧ (s.ctx g).timer = some { kind := .lock, remaining := 0 })
    ∨ (∃ g, c = .agreementTimerExpiry g ∧ (s.ctx g).timer = some { kind := .agreement, remaining := 0 })
    ∨ (∃ g, c = .retryTimerExpiry g ∧ (s.ctx g).timer = some { kind := .retry, remaining := 0 })
    ∨ (∃ g, c = .agreementPollExpiry g ∧ (s.ctx g).poll = some 0)
    ∨ (c = .inventoryIntervalExpiry ∧ s.ciu.timer = some 0)
    ∨ (c = .sweepStep ∧ s.sws.timer = some 0))
  ∧ ∀ r : ControlRequest,
    (r.code ∉ commandCodes → rowOf r = .unknownCommand)
    ∧ (∀ x ∈ ([(1, .readIdentity), (2, .setIdentity), (16, .writePlanEntry), (17, .readPlanEntry), (18, .writeClassEntry),
          (19, .readClassEntry), (20, .writeProfile), (21, .readProfile), (22, .writeFrameClass), (23, .readFrameClass),
          (32, .writeSettings), (33, .readSettings), (48, .readGroup), (49, .readInventory), (50, .readNotices),
          (51, .readCounters), (80, .sweepControl), (96, .softReset)] : List (Nat × Instr)), r.code = x.1 → rowOf r = x.2)
    ∧ ∀ a b : Byte, r.code = 64 → r.args = [a, b] →
      (b.getLsbD 2 = true → rowOf r = .groupActionHold)
      ∧ (b.getLsbD 2 = false → b.getLsbD 1 = true → rowOf r = .groupActionResume)
      ∧ (b.getLsbD 2 = false → b.getLsbD 1 = false → b.getLsbD 0 = true → rowOf r = .groupActionRecheck)

/-- Every command that is an event of the part answers a next state, with the queue of commands as it was; while the reset
line is asserted no event but the line's own release changes the part (log 5). A chain read that does not bring 128 bits is no
event of the part and faults (log 17). -/
def Obligations.EveryCommandCompletes : Prop :=
  (∀ (c : Instr) (s : State), c.wellFormed = true → ∃ t, exec c s = .next t ∧ t.pending = s.pending)
    ∧ (∀ (c : Instr) (s : State), s.inReset = true → c.wellFormed = true → c ≠ .resetAssert → c ≠ .resetRelease →
      exec c s = .next s)
    ∧ ∀ (bits : List Bool) (s : State), bits.length ≠ 128 → exec (.chainReadEnd bits) s = .fault .illFormedCommand

/-! ## Resets -/

/-- RESET_ASSERT from every state: each item of R20, and each block at its hardware-reset values. -/
def Obligations.ResetAssertLoadsHardwareReset : Prop :=
  ∀ s : State, ∃ t, exec .resetAssert s = .next t ∧ t.inReset = true
    ∧ (∀ g, t.path g = { gate := .closed, profile := 0, map := .straight, comps := Tab.fill 0, fenced := 0 })
    ∧ (∀ side l, (Tab.get (t.tx side) l).underWay = none ∧ (Tab.get (t.tx side) l).buffer = [])
    ∧ (∀ l, Tab.get t.lfr l = { state := .dark, polarity := false })
    ∧ (∀ k : Fin 16, Tab.get t.fsu.classTable k = resetAction k)
    ∧ t.fsu.malformed = 0
    ∧ (∀ l, Tab.get t.fsu.systemRx l = .none ∧ Tab.get t.fsu.lineRx l = .none ∧ Tab.get t.fsu.holds l = [])
    ∧ (∀ g, t.entry g = { enabled := false, fields := PlanFields.reset })
    ∧ (∀ c : Fin 8, Tab.get t.cpt.classD c = resetD c)
    ∧ (∀ p, Tab.get t.cpt.profiles p = { verified := 0xFF, degraded := 0x80 })
    ∧ (∀ p, Tab.get t.ciu.records p = InventoryRecord.absent)
    ∧ t.ciu.inProgress = false ∧ t.ciu.readPending = false ∧ t.ciu.timer = none ∧ t.ciu.handed = []
    ∧ (∀ g, t.ctx g = Context.reset)
    ∧ (∀ l, Tab.get t.buc.lockView l = { locked := false, polarity := false })
    ∧ t.psc.now = 0 ∧ t.psc.queue = [] ∧ t.psc.holder = none ∧ t.psc.late = 0
    ∧ (∀ k, Tab.get t.psc.slots k = { generation := 0, state := .free })
    ∧ (∀ l, Tab.get t.ers l = none)
    ∧ t.sws = { mode := .continuous, remaining := 0, position := 0, completed := 0, flag := false, timer := none }
    ∧ t.mga.identity = { chassis := 4095, unit := 15, assigned := false } ∧ t.mga.queue = [] ∧ t.mga.settings = Settings.reset
    ∧ t.notices = [] ∧ t.pending = s.pending

/-- RESET_RELEASE: the part runs, a chain read and its interval timer start, and the step timer starts; nothing else changes.
The release of a part held in hardware reset gives State.reset (log 6). -/
def Obligations.ReleaseStartsReadAndSweep : Prop :=
  (∀ s : State, s.inReset = true → s.ciu.inProgress = false → s.sws.mode ≠ .off →
    exec .resetRelease s = .next
      { s with
        inReset := false
        ciu := { s.ciu with inProgress := true, timer := some (1000000 * s.mga.settings.inventoryInterval), elapsed := 0 }
        sws := { s.sws with timer := some (1000 * s.mga.settings.sweepInterval) } })
    ∧ exec .resetRelease State.heldInReset = .next State.reset

/-- SOFT RESET from every state: what is kept, what is cleared, each context rebuilt by the start test, and the notices posted
(R82, R195); the Probe Scheduler's queue holds the bursts of the contexts that started, in index order, the first of them is
the burst holder, and each slot is free with its generation kept or taken by one of them with the next (R128). That the
fenced-frame counters stand at 0 although frames were cut is the model's reading (log 14), and so is what the cut does to a
control frame that waits for its target fields (log 11). A port change event that a context has not taken is dropped, the
context being rebuilt on the record that shows the change: the model's choice (log 32). -/
def Obligations.SoftResetRebuildsThePart : Prop :=
  ∀ (s : State) (r : ControlRequest), s.inReset = false → earliestWaiting s.mga.queue = some r → r.code = 96 → r.args = [] →
    let locked := fun g : Index =>
      (List.range (s.entry g).fields.width.lanes).all fun i => (Tab.get s.buc.lockView (laneAt g i)).locked
    let started := indices.filter fun g => (s.entry g).enabled && (startTest s g).isNone && locked g
    ∃ u, exec .softReset s = .next (u.respond r (Reply.ok []))
      ∧ u.mga = s.mga ∧ u.cpt = s.cpt ∧ u.lfr = s.lfr ∧ u.buc.lockView = s.buc.lockView ∧ u.ciu.records = s.ciu.records
      ∧ u.psc.now = s.psc.now ∧ u.fsu.classTable = s.fsu.classTable
      ∧ u.fsu.systemRx = Tab.map (SystemRx.cut fun _ => false) s.fsu.systemRx ∧ u.fsu.lineRx = s.fsu.lineRx
      ∧ u.sws.mode = s.sws.mode ∧ u.sws.remaining = s.sws.remaining
      ∧ u.ciu.inProgress = true ∧ u.ciu.readPending = false ∧ u.ciu.elapsed = 0 ∧ u.ciu.handed = []
      ∧ u.ciu.timer = some (1000000 * s.mga.settings.inventoryInterval)
      ∧ u.fsu.malformed = 0 ∧ u.psc.late = 0 ∧ (∀ g, (u.path g).fenced = 0)
      ∧ (∀ g, (u.path g).map = .straight ∧ (u.path g).comps = Tab.fill 0 ∧ (u.path g).gate = .closed)
      ∧ (∀ l, Tab.get u.ers l = none) ∧ (∀ l, Tab.get u.fsu.holds l = [])
      ∧ (∀ side l f, TxFrame.data f ∉ (Tab.get (u.tx side) l).content)
      ∧ u.sws.position = 0 ∧ u.sws.completed = 0 ∧ u.sws.flag = false
      ∧ u.sws.timer = (if s.sws.mode = .off then none else some (1000 * s.mga.settings.sweepInterval))
      ∧ u.psc.queue.map (fun q => (q.group, q.kind, q.rounds))
          = started.map (fun g => (g, RequestKind.burst, s.mga.settings.discoveryRounds))
      ∧ u.psc.holder = started.head?
      ∧ (∀ k, Tab.get u.psc.slots k = { generation := (Tab.get s.psc.slots k).generation, state := .free }
          ∨ ∃ g ∈ started, ∃ i, Tab.get u.psc.slots k
              = { generation := (Tab.get s.psc.slots k).generation + 1, state := .granted g i })
      ∧ (∀ g, (s.entry g).enabled = false → u.ctx g = Context.reset)
      ∧ (∀ g, (s.entry g).enabled = true →
          (u.ctx g).bound = some (s.entry g).fields ∧ (u.ctx g).stale = false
            ∧ match startTest s g with
              | some w => Waits u g w
              | none =>
                if locked g then StartsDiscovery u g s.mga.settings.discoveryRounds
                else InState u g .acquiring .none none
                  ∧ (u.ctx g).timer = some { kind := .lock, remaining := 1000000 * s.mga.settings.lockTimeout }
                  ∧ (u.ctx g).poll = none ∧ (u.ctx g).record = DiscoveryRecord.cleared ∧ (u.ctx g).goodCount = 0
                  ∧ NoProbeWork u g)
      ∧ u.notices = (indices.filter fun g => (s.entry g).enabled).map fun g =>
          { subject := g.val, content := .group (u.ctx g).state (u.ctx g).reason (u.ctx g).origin, time := s.psc.now, coalesced := false }

/-! ## Lane fronts -/

/-- The table of R1 with the polarity flag of R2 and the lane lock view of R54, for one lane: each row of the table completes,
changes that lane's front as the table says, records LOCK and LOSS in the view, and cuts an intercepted frame at a loss (R3).
-/
def Obligations.LaneFrontFollowsItsTable : Prop :=
  ∀ (s : State) (p : Fin 16) (j : Fin 4) (inverted : Bool), s.inReset = false →
    (s.rx (cell p j) = .dark →
      exec (.signalDetected p j) s = .next
        { s with lfr := Tab.set s.lfr (cell p j) { state := .acquiring, polarity := (Tab.get s.lfr (cell p j)).polarity } })
    ∧ (s.rx (cell p j) = .acquiring →
      exec (.signalLost p j) s = .next
        { s with lfr := Tab.set s.lfr (cell p j) { state := .dark, polarity := (Tab.get s.lfr (cell p j)).polarity } })
    ∧ (s.rx (cell p j) = .acquiring →
      ∃ t, exec (.lockAchieved p j inverted) s = .next t
        ∧ t.lfr = Tab.set s.lfr (cell p j) { state := .locked, polarity := inverted }
        ∧ t.buc.lockView = Tab.set s.buc.lockView (cell p j) { locked := true, polarity := inverted }
        ∧ t.fsu.lineRx = s.fsu.lineRx)
    ∧ (s.rx (cell p j) = .locked →
      (∃ t, exec (.lockLost p j) s = .next t
        ∧ t.lfr = Tab.set s.lfr (cell p j) { state := .acquiring, polarity := (Tab.get s.lfr (cell p j)).polarity }
        ∧ t.buc.lockView
            = Tab.set s.buc.lockView (cell p j) { locked := false, polarity := (Tab.get s.buc.lockView (cell p j)).polarity }
        ∧ t.fsu.lineRx = Tab.set s.fsu.lineRx (cell p j) .none)
      ∧ ∃ t, exec (.signalLost p j) s = .next t
        ∧ t.lfr = Tab.set s.lfr (cell p j) { state := .dark, polarity := (Tab.get s.lfr (cell p j)).polarity }
        ∧ t.buc.lockView
            = Tab.set s.buc.lockView (cell p j) { locked := false, polarity := (Tab.get s.buc.lockView (cell p j)).polarity }
        ∧ t.fsu.lineRx = Tab.set s.fsu.lineRx (cell p j) .none)

/-- A LOSS event on a lane of a DISCOVERING, AGREEING, VERIFIED or DEGRADED context takes it to LOST with a lock timer, its
record, binding, map and compensations kept, posts its group notice (R57), and changes no other group (R66). Its data frames
under way are cut: none is left on a lane or in a hold, each has left its output lane with an abort mark and has raised the
fenced-frame counter (R15). In DISCOVERING and AGREEING there is none to cut where a closed gate has none under way
(ContextsStayValid). The abort marks are read in the model's own record of what left a lane (log 15); that a frame which waits
in a lane's buffer is cut too, and leaves aborted at once, ahead of an inserted frame under way, is the model's choice (log 28).
-/
def Obligations.LossTakesRunningGroupToLost : Prop :=
  ∀ (s : State) (p : Fin 16) (j : Fin 4) (g : Index) (c : Instr), s.inReset = false → s.rx (cell p j) = .locked →
    (c = .lockLost p j ∨ c = .signalLost p j) → covering s.cpt.plan (cell p j) = some g →
    ((s.ctx g).state = .discovering ∨ passedVerdict (s.ctx g).state) →
    ∃ t, exec c s = .next t ∧ InState t g .lost .lockLost none
      ∧ (t.ctx g).timer = some { kind := .lock, remaining := 1000000 * s.mga.settings.lockTimeout }
      ∧ (t.ctx g).poll = none ∧ (t.ctx g).record = (s.ctx g).record ∧ (t.ctx g).bound = (s.ctx g).bound
      ∧ (t.ctx g).stale = (s.ctx g).stale ∧ (t.ctx g).goodCount = (s.ctx g).goodCount
      ∧ (t.path g).map = (s.path g).map ∧ (t.path g).comps = (s.path g).comps
      ∧ t.notices = postNotice s.notices g.val (.group .lost .lockLost none) s.psc.now
      ∧ FramesCut g (fun f => f.group != g) s t
      ∧ NoProbeWork t g ∧ OthersKept g s t ∧ BlocksKept s t ∧ t.ers = s.ers ∧ t.psc.late = s.psc.late

/-- A LOCK event on a lane of an ACQUIRING or LOST context takes it to DISCOVERING when it completes the group's lanes, with
its group notice (R57), and changes no context and posts nothing when it does not (R62, R67, R63). -/
def Obligations.LastLockStartsDiscovery : Prop :=
  ∀ (s : State) (p : Fin 16) (j : Fin 4) (inverted : Bool) (g : Index), s.inReset = false → s.rx (cell p j) = .acquiring →
    covering s.cpt.plan (cell p j) = some g → ((s.ctx g).state = .acquiring ∨ (s.ctx g).state = .lost) →
    ∃ t, exec (.lockAchieved p j inverted) s = .next t
      ∧ (if ∀ i < boundWidth s g, laneAt g i = cell p j ∨ (Tab.get s.buc.lockView (laneAt g i)).locked = true then
          StartsDiscovery t g s.mga.settings.discoveryRounds
            ∧ t.notices = postNotice s.notices g.val (.group .discovering .none none) s.psc.now
        else t.buc.contexts = s.buc.contexts ∧ t.notices = s.notices)
      ∧ (t.ctx g).bound = (s.ctx g).bound ∧ (t.path g).map = (s.path g).map ∧ (t.path g).comps = (s.path g).comps
      ∧ OthersKept g s t ∧ BlocksKept s t ∧ t.ers = s.ers ∧ t.psc.late = s.psc.late

/-- LOCK and LOSS events are recorded in the lane lock view and change nothing else of the Bring-up Controller or the blocks
behind it: on a lane that no enabled entry covers (an UNPLANNED one, R54), on the lanes of a context in QUARANTINED, HELD,
WAITING or UNPLANNED (R69), and, for a LOSS, on those of a context in ACQUIRING or LOST (R62, R67). -/
def Obligations.LockAndLossRecordedOnly : Prop :=
  ∀ (s : State) (p : Fin 16) (j : Fin 4) (inverted : Bool), s.inReset = false → LanesSettled s → GrantsSettled s →
    let coveredBy := fun states : List GroupState =>
      ∃ g, covering s.cpt.plan (cell p j) = some g ∧ (s.ctx g).state ∈ states
    let idle := covering s.cpt.plan (cell p j) = none ∨ coveredBy [.quarantined, .held, .waiting, .unplanned]
    let setView := fun v : LockView => { s.buc with lockView := Tab.set s.buc.lockView (cell p j) v }
    let unlocked : LockView := { locked := false, polarity := (Tab.get s.buc.lockView (cell p j)).polarity }
    let lost := fun x : RxState =>
      { s with
        lfr := Tab.set s.lfr (cell p j) { state := x, polarity := (Tab.get s.lfr (cell p j)).polarity }
        fsu := { s.fsu with lineRx := Tab.set s.fsu.lineRx (cell p j) .none }
        buc := setView unlocked }
    (s.rx (cell p j) = .acquiring → idle →
      exec (.lockAchieved p j inverted) s = .next
        { s with
          lfr := Tab.set s.lfr (cell p j) { state := .locked, polarity := inverted }
          buc := setView { locked := true, polarity := inverted } })
    ∧ (s.rx (cell p j) = .locked → (idle ∨ coveredBy [.acquiring, .lost]) →
      exec (.lockLost p j) s = .next (lost .acquiring) ∧ exec (.signalLost p j) s = .next (lost .dark))

/-! ## Frames -/

/-- A data frame that no gate admits is discarded and counted: against its group, or against 4 × port + lane where no enabled
entry covers the lane; nothing else changes (R14). A gate admits a class when it is OPEN_VERIFIED and the class is in the
verified set of the profile it names, or OPEN_DEGRADED and the class is in the degraded set (R14); the class is bits 11-9 of
the lead word. A control frame from the line side counts as data (R10). -/
def Obligations.FencedDataFrameIsCounted : Prop :=
  ∀ (s : State) (side : Side) (p : Fin 16) (j : Fin 4) (frame : Incoming) (i : Index), s.inReset = false → LanesSettled s →
    let trafficClass := frame.lead.toNat / 512 % 8
    let named := Tab.get s.cpt.profiles (s.path i).profile
    let admitted := match (s.path i).gate with
      | .closed => false
      | .openVerified => named.verified.getLsbD trafficClass
      | .openDegraded => named.degraded.getLsbD trafficClass
    (side = .line → s.rx (cell p j) = .locked) →
    (actionOf s frame.lead = .passData ∨ side = .line ∧ actionOf s frame.lead = .control) →
    (covering s.cpt.plan (cell p j) = none ∧ i = cell p j
      ∨ covering s.cpt.plan (cell p j) = some i ∧ admitted = false) →
    exec (.leadWordArrival side p j frame) s = .next
      ((s.clearRx side (cell p j)).modPath i fun q => { q with fenced := satInc q.fenced })

/-- An admitted data frame takes the transmit lane its group's steering map gives, its lead word and the content behind it
unchanged (R4): from the system side it goes there at once; from the line side it is first held for its line lane's
compensation, and goes when the hold of the oldest frame of its lane ends. Nothing else changes (R14, R17, R18). A frame is
admitted when its class, bits 11-9 of its lead word, is in the verified set of the gate's profile and the gate is
OPEN_VERIFIED, or in the degraded set and the gate is OPEN_DEGRADED (R14). -/
def Obligations.AdmittedFramesAreSteered : Prop :=
  let admitted := fun (s : State) (g : Index) (frame : Incoming) =>
    match (s.path g).gate with
    | .closed => false
    | .openVerified => (Tab.get s.cpt.profiles (s.path g).profile).verified.getLsbD (frame.lead.toNat / 512 % 8)
    | .openDegraded => (Tab.get s.cpt.profiles (s.path g).profile).degraded.getLsbD (frame.lead.toNat / 512 % 8)
  let steered := fun (s : State) (side : Side) (g l : Index) (frame : Incoming) =>
    ({ lead := frame.lead, content := frame.content, source := side, group := g
       out := laneAt g (match (s.path g).map with
         | .straight => (offsetIn g l).val
         | .reversed => (s.entry g).fields.width.lanes - 1 - (offsetIn g l).val) } : DataFrame)
  (∀ (s : State) (p : Fin 16) (j : Fin 4) (frame : Incoming) (g : Index), s.inReset = false → LanesSettled s →
    covering s.cpt.plan (cell p j) = some g → admitted s g frame = true →
    (actionOf s frame.lead = .passData →
      exec (.leadWordArrival .system p j frame) s = .next
        ((s.setSystemRx (cell p j) .none).offerFrame .line (steered s .system g (cell p j) frame)))
    ∧ (s.rx (cell p j) = .locked → (actionOf s frame.lead = .passData ∨ actionOf s frame.lead = .control) →
      exec (.leadWordArrival .line p j frame) s = .next
        ((s.setLineRx (cell p j) .none).setHolds (cell p j)
          (Tab.get s.fsu.holds (cell p j)
            ++ [{ frame := steered s .line g (cell p j) frame
                  remaining := Tab.get (s.path g).comps (offsetIn g (cell p j)) }]))))
  ∧ ∀ (s : State) (p : Fin 16) (j : Fin 4) (h : HeldFrame) (rest : List HeldFrame), s.inReset = false → LanesSettled s →
    Tab.get s.fsu.holds (cell p j) = h :: rest →
    exec (.deskewHoldExpiry p j) s = .next ((s.setHolds (cell p j) rest).offerFrame .system h.frame)

/-- A lead word whose frame is not data: from the line side a probe or an echo is stamped with the timestamp counter and
intercepted and DROP is discarded; from the system side a control frame waits for its target fields, and PROBE, ECHO and DROP
are discarded; nothing is counted (R6, R9, R11). That the waiting control frame keeps the gate's answer of its lead word's
arrival, for the case that it proves not addressed, is the model's reading (log 11). -/
def Obligations.OtherFramesInterceptedOrDiscarded : Prop :=
  ∀ (s : State) (p : Fin 16) (j : Fin 4) (frame : Incoming), s.inReset = false → LanesSettled s →
    (s.rx (cell p j) = .locked →
      (actionOf s frame.lead = .probe →
        exec (.leadWordArrival .line p j frame) s = .next (s.setLineRx (cell p j) (.probe s.psc.now)))
      ∧ (actionOf s frame.lead = .echo →
        exec (.leadWordArrival .line p j frame) s = .next (s.setLineRx (cell p j) (.echo s.psc.now)))
      ∧ (actionOf s frame.lead = .drop → exec (.leadWordArrival .line p j frame) s = .next (s.setLineRx (cell p j) .none)))
    ∧ (actionOf s frame.lead = .control →
      exec (.leadWordArrival .system p j frame) s
        = .next (s.setSystemRx (cell p j) (.awaitingTarget frame.lead (judge s .system (cell p j) frame))))
    ∧ (actionOf s frame.lead = .probe ∨ actionOf s frame.lead = .echo ∨ actionOf s frame.lead = .drop →
      exec (.leadWordArrival .system p j frame) s = .next (s.setSystemRx (cell p j) .none))

/-- The target fields of a control frame: addressed to this part (R10), it is intercepted; not addressed and not admitted at
its gate, it is discarded and counted; not addressed and admitted, it goes on as data (R9). That the gate's answer is the one
of its lead word's arrival, and not of its target fields', is the model's reading (log 11). -/
def Obligations.ControlFrameJudgedByItsTarget : Prop :=
  ∀ (s : State) (p : Fin 16) (j : Fin 4) (lead : LeadWord) (target : BitVec 16) (jd : Judgement), s.inReset = false →
    LanesSettled s → Tab.get s.fsu.systemRx (cell p j) = .awaitingTarget lead jd →
    let mine :=
      (s.mga.identity.assigned = true ∧ target.toNat / 16 = s.mga.identity.chassis
        ∧ (target.toNat % 16 = s.mga.identity.unit ∨ target.toNat % 16 = 15))
      ∨ (s.mga.identity.assigned = false ∧ target.toNat / 16 = 4095)
    (mine → exec (.targetFieldsArrival p j target) s = .next (s.setSystemRx (cell p j) (.control lead target)))
    ∧ (¬mine → ∀ i, jd = .fenced i →
      exec (.targetFieldsArrival p j target) s
        = .next ((s.setSystemRx (cell p j) .none).modPath i fun q => { q with fenced := satInc q.fenced }))
    ∧ (¬mine → ∀ f, jd = .admitted f → f.source = .system →
      exec (.targetFieldsArrival p j target) s = .next ((s.setSystemRx (cell p j) .none).offerFrame .line f))

/-- A frame that ends before its lead word, a malformed probe or echo and a malformed addressed control frame are discarded
and raise the malformed-frame counter by one, saturating; nothing else changes (R4, R11, R12). -/
def Obligations.MalformedFramesAreCounted : Prop :=
  ∀ (s : State) (p : Fin 16) (j : Fin 4) (rest : List Byte), s.inReset = false →
    let counted := fun t : State => { t with fsu := { t.fsu with malformed := satInc s.fsu.malformed } }
    exec (.shortFrameDiscard .system p j) s = .next (counted (s.setSystemRx (cell p j) .none))
    ∧ (s.rx (cell p j) = .locked → exec (.shortFrameDiscard .line p j) s = .next (counted (s.setLineRx (cell p j) .none)))
    ∧ (∀ a, Tab.get s.fsu.lineRx (cell p j) = .probe a → (rest.length ≠ 10 ∨ 15 < at8 rest 7 ∨ 3 < at8 rest 8) →
      exec (.probeReceived p j rest) s = .next (counted (s.setLineRx (cell p j) .none)))
    ∧ (∀ a, Tab.get s.fsu.lineRx (cell p j) = .echo a → (rest.length ≠ 12 ∨ 15 < at8 rest 7 ∨ 3 < at8 rest 8) →
      exec (.echoReceived p j rest) s = .next (counted (s.setLineRx (cell p j) .none)))
    ∧ (∀ lead target, Tab.get s.fsu.systemRx (cell p j) = .control lead target →
      (rest.length < 4 ∨ 120 < at8 rest 3 ∨ rest.length - 4 < at8 rest 3) →
      exec (.controlRequestReceived p j rest) s = .next (counted (s.setSystemRx (cell p j) .none)))

/-- The end of the frame under way on a transmit lane: it leaves the lane, and the lane takes its next data frame unless an
inserted frame waits (R5). -/
def Obligations.FrameEndGivesTheLaneOn : Prop :=
  ∀ (s : State) (side : Side) (p : Fin 16) (j : Fin 4) (f : TxFrame) (abortMark : Bool), s.inReset = false → LanesSettled s →
    (Tab.get (s.tx side) (cell p j)).underWay = some f →
    exec (.frameUnderWayEnd side p j abortMark) s = .next
      (s.modTx side (cell p j) (TxLane.next (insertedWaits s side (cell p j)) f (endOf f abortMark)))

/-- A gate write tests the group's frames under way again: those the new gate does not admit are on no lane and in no hold
afterwards, those it admits and those of other groups stay where they were, and each cut frame has left its output lane with an
abort mark and raises the group's fenced-frame counter by one (R15). The new gate admits the classes of the verified set of its
profile when it is OPEN_VERIFIED, those of the degraded set when it is OPEN_DEGRADED, and none when it is CLOSED (R14). The
abort marks are read in the model's own record of what left a lane (log 15); that a frame which waits in a lane's buffer is cut
too, and leaves aborted at once, ahead of an inserted frame under way, is the model's choice (log 28). -/
def Obligations.GateWriteCutsFramesUnderWay : Prop :=
  ∀ (s : State) (g : Index) (gate : GateState) (profile : Option (Fin 8)),
    let t := s.writeGate g gate profile
    let named := Tab.get s.cpt.profiles (profile.getD (s.path g).profile)
    let admitted := fun f : DataFrame => match gate with
      | .closed => false
      | .openVerified => named.verified.getLsbD (f.lead.toNat / 512 % 8)
      | .openDegraded => named.degraded.getLsbD (f.lead.toNat / 512 % 8)
    let keep := fun f : DataFrame => (f.group != g) || admitted f
    (t.path g).gate = gate ∧ (t.path g).profile = profile.getD (s.path g).profile ∧ FramesCut g keep s t
      ∧ ∀ h, h ≠ g → t.path h = s.path h

/-! ## Probes and echoes -/

/-- A well-formed probe received whole fills its lane's echo slot or replaces what it holds; its view changes no context when
the acceptance test of R99 fails (the lane's record is unmerged, the sender is not the far end merged there in every item, or
the sender is this part), when the lane has no group, or when its code names no view (R92, R96, R99). -/
def Obligations.ProbeFillsEchoSlot : Prop :=
  ∀ (s : State) (p : Fin 16) (j : Fin 4) (rest : List Byte) (a : Time) (x : ProbeItems), s.inReset = false →
    Tab.get s.fsu.lineRx (cell p j) = .probe a → readProbe rest = some x →
    let refused := fun g : Index =>
      (Tab.get (s.ctx g).record.lanes (offsetIn g (cell p j))).merged = none
      ∨ (∃ m, (Tab.get (s.ctx g).record.lanes (offsetIn g (cell p j))).merged = some m
          ∧ ¬(m.far.chassis = x.sender.chassis ∧ m.far.unit = x.sender.unit ∧ m.far.port = x.sender.port
              ∧ m.far.lane = x.sender.lane))
      ∨ (x.sender.chassis = s.mga.identity.chassis ∧ x.sender.unit = s.mga.identity.unit)
    ∃ t, exec (.probeReceived p j rest) s = .next t
      ∧ t.ers = Tab.set s.ers (cell p j) (some { tag := x.tag, sendTime := x.sendTime, arrival := a })
      ∧ t.fsu.lineRx = Tab.set s.fsu.lineRx (cell p j) .none
      ∧ t.lfr = s.lfr ∧ t.buc.lockView = s.buc.lockView ∧ t.psc.late = s.psc.late ∧ BlocksKept s t
      ∧ ((x.view = none ∨ ∀ g, covering s.cpt.plan (cell p j) = some g → refused g) →
        t.buc.contexts = s.buc.contexts ∧ t.fsu.paths = s.fsu.paths ∧ t.notices = s.notices ∧ t.fsu.holds = s.fsu.holds)

/-- A probe view that passes the acceptance test of R99 acts on the covering context as the view table of section 5.6 says, in
every state (R101 to R106), and the group notice is posted where the state, reason or hold origin has changed (R57). -/
def Obligations.AcceptedProbeViewActs : Prop :=
  ∀ (s : State) (p : Fin 16) (j : Fin 4) (rest : List Byte) (a : Time) (x : ProbeItems) (g : Index) (v : View) (m : Merged),
    s.inReset = false → Tab.get s.fsu.lineRx (cell p j) = .probe a → readProbe rest = some x → x.view = some v →
    covering s.cpt.plan (cell p j) = some g →
    (Tab.get (s.ctx g).record.lanes (offsetIn g (cell p j))).merged = some m → m.far = x.sender →
    ¬(x.sender.chassis = s.mga.identity.chassis ∧ x.sender.unit = s.mga.identity.unit) →
    ∃ t, exec (.probeReceived p j rest) s = .next t ∧ ViewActed s t g v ∧ t.notices = groupNoticed s t s.notices g
      ∧ OthersKept g s t ∧ BlocksKept s t

/-- An echo departs from a holding slot on a free lane: fourteen bytes with the slot's tag and send time, the identity, lane
and view now in force, and a turnaround that saturates at 65,535; the slot becomes EMPTY; nothing else changes (R90, R93,
R94). The view is that of the covering context's state, UNPLANNED where no enabled entry covers the lane (R87), in its code
(R88). -/
def Obligations.EchoDepartureAnswersTheProbe : Prop :=
  ∀ (s : State) (p : Fin 16) (j : Fin 4) (e : EchoSlot), s.inReset = false → Tab.get s.ers (cell p j) = some e →
    (Tab.get s.fsu.lineTx (cell p j)).underWay = none →
    let viewCode := match covering s.cpt.plan (cell p j) with
      | none => 0
      | some g => match (s.ctx g).state with
        | .unplanned => 0
        | .waiting | .acquiring | .discovering | .lost => 1
        | .agreeing | .verified | .degraded => 2
        | .quarantined => 3
        | .held => 4
    exec (.echoDeparture p j) s = .next
      ((s.setEcho (cell p j) none).send .line (cell p j) (.echo
        (bytes16 (4096 * kindOf s.fsu.classTable .echo) ++ [e.tag] ++ bytes32 e.sendTime.toNat
          ++ bytes16 (16 * s.mga.identity.chassis + s.mga.identity.unit) ++ [byte p.val, byte j.val]
          ++ bytes16 (min (s.psc.now - e.arrival).toNat 65535) ++ [byte viewCode])))

/-- A granted probe departs on its free line lane where no echo waits: twelve bytes with the slot's tag, the counter, the
identity, port and lane, and the view of its context's state (R87) in its code (R88); the slot becomes SENT with the probe
timeout now in force; nothing else changes (R89, R119). -/
def Obligations.ProbeDepartureStampsTheSlot : Prop :=
  ∀ (s : State) (k : Fin 8) (g : Index) (i : Fin 4), s.inReset = false →
    (Tab.get s.psc.slots k).state = .granted g i → (Tab.get s.fsu.lineTx (laneAt g i.val)).underWay = none →
    Tab.get s.ers (laneAt g i.val) = none →
    let l := laneAt g i.val
    let ns := 1000 * s.mga.settings.probeTimeout
    let sent : Slot :=
      { generation := (Tab.get s.psc.slots k).generation, state := .sent g i s.psc.now ns (s.psc.now + BitVec.ofNat 32 ns) }
    let viewCode := match (s.ctx g).state with
      | .unplanned => 0
      | .waiting | .acquiring | .discovering | .lost => 1
      | .agreeing | .verified | .degraded => 2
      | .quarantined => 3
      | .held => 4
    exec (.probeDeparture k) s = .next
      (({ s with psc := { s.psc with slots := Tab.set s.psc.slots k sent } }).send .line l (.probe
        (bytes16 (4096 * kindOf s.fsu.classTable .probe) ++ [byte (32 * k.val + (Tab.get s.psc.slots k).generation.toNat)]
          ++ bytes32 s.psc.now.toNat ++ bytes16 (16 * s.mga.identity.chassis + s.mga.identity.unit)
          ++ [byte (portOf l).val, byte (laneOf l).val, byte viewCode])))

/-- An echo that fails one of the four conditions of R120 is late and only counted (R123). A probe settled while its round has
another unsettled probe is ECHOED with the echo's items, its raw round trip and its order in the round, or MISSED at its
deadline; the slot no longer holds it, and no context changes (R120, R121). -/
def Obligations.EchoesSettleTheirProbeOrAreLate : Prop :=
  (∀ (s : State) (p : Fin 16) (j : Fin 4) (rest : List Byte) (a : Time) (e : EchoFields), s.inReset = false →
    Tab.get s.fsu.lineRx (cell p j) = .echo a → readEcho rest = some e → (∀ k g i, ¬EchoMatches s k g i a e) →
    exec (.echoReceived p j rest) s = .next (s.setLineRx (cell p j) .none).countLate)
  ∧ ∀ (s : State) (c : Instr) (k k' : Fin 8) (g : Index) (i : Fin 4) (r : ProbeRequest) (o : LaneOutcome), s.inReset = false →
    SchedulerConsistent s → Settles s c k g i r o → k' ≠ k → (Tab.get s.psc.slots k').state.group = some g →
    r ∈ s.psc.queue → r.group = g →
    ∃ t, exec c s = .next t ∧ t.buc = s.buc ∧ t.fsu.paths = s.fsu.paths ∧ t.notices = s.notices
      ∧ (Tab.get t.psc.slots k).state.probe ≠ some (g, i) ∧ { r with outcomes := Tab.set r.outcomes i (some o) } ∈ t.psc.queue
      ∧ BlocksKept s t ∧ ReceiveKeptBut c s t

/-- A burst round that completes, by an echo or by a deadline, is merged lane by lane and its view recorded (R131 to R134, R98,
R101): with rounds still owed the context stays in DISCOVERING and the request stays queued for them; with none the verdict is
made of the merged record, view and all, in the same event (R124, R135): the first of checks 1 to 11 that fails quarantines the
group with its reason; else a length or the skew out of its window does (R142, R143); else the last peer view gives the outcome
(R144), with the map and compensations loaded (R146). -/
def Obligations.BurstRoundsMergeAndBringTheVerdict : Prop :=
  ∀ (s : State) (c : Instr) (g : Index) (i : Fin 4) (r : ProbeRequest) (o : LaneOutcome), s.inReset = false →
    SchedulerConsistent s → CompletesRound s c g i r o → r.kind = .burst → (s.ctx g).state = .discovering →
    let outs := Tab.set r.outcomes i (some o)
    let W := boundWidth s g
    let lane := fun n : Fin 4 => Tab.get (s.ctx g).record.lanes n
    let seen := fun e : EchoItems => ({ far := e.far, back := e.back } : Merged)
    let merged := fun (lanes : Tab LaneRecord 4) => ∀ n : Fin 4,
      (W ≤ n.val ∨ Tab.get outs n = none → Tab.get lanes n = lane n)
      ∧ (n.val < W → Tab.get outs n = some .missed →
        Tab.get lanes n = { lane n with missRun := min ((lane n).missRun + 1) 3 })
      ∧ ∀ e, n.val < W → Tab.get outs n = some (.echoed e) →
        ((lane n).merged = none →
          Tab.get lanes n = ({ lane n with merged := some (seen e), missRun := 0 }).takeSample s.mga.settings e)
        ∧ ((lane n).merged = some (seen e) → Tab.get lanes n = ({ lane n with missRun := 0 }).takeSample s.mga.settings e)
        ∧ (∀ m, (lane n).merged = some m → m ≠ seen e → Tab.get lanes n = { lane n with conflicted := true, missRun := 0 })
    ∃ t lanes view, exec c s = .next t ∧ merged lanes
      ∧ (let dr : DiscoveryRecord := { (s.ctx g).record with lanes := lanes }
        (∀ v, RoundHasView s.mga.identity dr W outs v → view = some v)
        ∧ ((∀ n order v, ¬ViewCandidate s.mga.identity dr W outs n order v) → view = dr.lastView)
        ∧ (2 ≤ r.rounds → t.ctx g = { s.ctx g with record := { dr with lastView := view } } ∧ t.path g = s.path g
            ∧ t.notices = s.notices
            ∧ ∃ q ∈ t.psc.queue, q.group = g ∧ q.kind = .burst ∧ q.rounds = r.rounds - 1)
        ∧ (r.rounds = 1 →
          let final : DiscoveryRecord := { dr with lastView := view }
          let mid := s.modCtx g fun c => { c with record := final }
          let b := (s.entry g).fields
          let D := Tab.get s.cpt.classD (s.record g).cls
          let checked := checks b final (s.record g) s.mga.identity g
          let length := fun n : Fin 4 => (Tab.get (withLengths D b.width.lanes final).lanes n).length
          let short := ∃ n x, n.val < b.width.lanes ∧ length n = some x ∧ x < b.lengthMin
          let long := ∃ n x, n.val < b.width.lanes ∧ length n = some x ∧ b.lengthMax < x
          let skewed := 16 * b.skewLimit < groupSkew final b.width.lanes
          t.ctx g = (mid.verdict g).ctx g ∧ t.path g = (mid.verdict g).path g
            ∧ (∀ reason, checked = .error reason → InState t g .quarantined reason none)
            ∧ (∀ m, checked = .ok m →
              (short → InState t g .quarantined .lengthShort none)
              ∧ (¬short → long → InState t g .quarantined .lengthLong none)
              ∧ (¬short → ¬long → skewed → InState t g .quarantined .skew none)
              ∧ (¬short → ¬long → ¬skewed →
                (view = some .fail ∨ view = some .unplanned → InState t g .quarantined .peerRejects none)
                ∧ (view = some .held → InState t g .held .holdRemote (some .remoteHold))
                ∧ (view = some .pass → InState t g .verified .none none)
                ∧ (view = some .pending ∨ view = none → InState t g .agreeing .none none)
                ∧ (view ≠ some .fail → view ≠ some .unplanned → (t.path g).map = m)))
            ∧ VerdictMade s t g ∧ t.notices = groupNoticed s t s.notices g
            ∧ (t.ctx g).record.lastView = view
            ∧ ∀ n, (Tab.get (t.ctx g).record.lanes n).merged = (Tab.get lanes n).merged
              ∧ (Tab.get (t.ctx g).record.lanes n).conflicted = (Tab.get lanes n).conflicted
              ∧ (Tab.get (t.ctx g).record.lanes n).missRun = (Tab.get lanes n).missRun
              ∧ (Tab.get (t.ctx g).record.lanes n).estimate = (Tab.get lanes n).estimate))
      ∧ OthersKept g s t ∧ BlocksKept s t ∧ ReceiveKeptBut c s t

/-- A recheck round that completes takes the steps of R173 in their order. A HELD context takes its view alone. An AGREEING,
VERIFIED or DEGRADED one is compared and counted lane by lane, and rediscovers at a differing echo or at a miss run of 3, with a
fresh burst and its gate closed (R174). Else `mid` is the part before step 6: a stale binding has been refreshed, and checks 1
to 11 run again on it have quarantined the context or passed (R175); a VERIFIED or DEGRADED context has taken its windows and
its hysteresis, a finding making it DEGRADED with count 0, and good rounds up to the hysteresis VERIFIED (R176, R177). The
round's view then acts on `mid` (R178): in AGREEING PASS opens it, in VERIFIED and DEGRADED PENDING takes it to AGREEING, FAIL
and UNPLANNED quarantine it, HELD holds it (R102, R103). The refreshed profile is in the gate at the round's end (R175). -/
def Obligations.RecheckRoundTakesItsSteps : Prop :=
  ∀ (s : State) (c : Instr) (g : Index) (i : Fin 4) (r : ProbeRequest) (o : LaneOutcome), s.inReset = false →
    SchedulerConsistent s → CompletesRound s c g i r o → r.kind ≠ .burst →
    let outs := Tab.set r.outcomes i (some o)
    let W := boundWidth s g
    let st := (s.ctx g).state
    let lane := fun n : Fin 4 => Tab.get (s.ctx g).record.lanes n
    let seen := fun e : EchoItems => ({ far := e.far, back := e.back } : Merged)
    let differs := ∃ n e, n.val < W ∧ Tab.get outs n = some (.echoed e) ∧ (lane n).merged ≠ some (seen e)
    let thirdMiss := ∃ n, n.val < W
      ∧ (Tab.get outs n = some .missed ∧ 2 ≤ (lane n).missRun ∨ Tab.get outs n = none ∧ 3 ≤ (lane n).missRun)
    let noView := ∀ n order v, ¬ViewCandidate s.mga.identity (s.ctx g).record W outs n order v
    let hasView := RoundHasView s.mga.identity (s.ctx g).record W outs
    let compared := fun lanes : Tab LaneRecord 4 => ∀ n : Fin 4,
      (W ≤ n.val ∨ Tab.get outs n = none → Tab.get lanes n = lane n)
      ∧ (n.val < W → Tab.get outs n = some .missed → Tab.get lanes n = { lane n with missRun := (lane n).missRun + 1 })
      ∧ ∀ e, n.val < W → Tab.get outs n = some (.echoed e) →
        Tab.get lanes n = ({ lane n with missRun := 0 }).takeSample s.mga.settings e
    ∃ t, exec c s = .next t ∧ OthersKept g s t ∧ BlocksKept s t ∧ ReceiveKeptBut c s t
      ∧ t.notices = groupNoticed s t s.notices g
      ∧ (st = .held → (∀ v, hasView v → ViewActed s t g v) ∧ (noView → t.ctx g = s.ctx g ∧ t.path g = s.path g))
      ∧ (passedVerdict st →
        (differs ∨ thirdMiss →
          InState t g .discovering .none none ∧ (∀ n, Tab.get (t.ctx g).record.lanes n = freshLane t g n)
            ∧ (t.ctx g).goodCount = 0
            ∧ (∀ v, hasView v → (t.ctx g).record.lastView = some v) ∧ (noView → (t.ctx g).record.lastView = none)
            ∧ ∃ b ∈ t.psc.queue, b.group = g ∧ b.kind = .burst ∧ b.rounds = s.mga.settings.discoveryRounds)
        ∧ (¬differs → ¬thirdMiss →
          ∃ (lanes : Tab LaneRecord 4) (mid : State), compared lanes ∧ BlocksKept s mid
            ∧ (∀ v, hasView v → ViewActed mid t g v) ∧ (noView → t.ctx g = mid.ctx g)
            ∧ (t.path g).map = (s.path g).map ∧ (t.path g).comps = (s.path g).comps
            ∧ ((s.path g).gate = gateOf st → (t.path g).gate = gateOf (t.ctx g).state)
            ∧ ((s.ctx g).stale = true → (t.path g).profile = (s.entry g).fields.profile)
            ∧ ((s.ctx g).stale = false → (t.ctx g).state = st → t.path g = s.path g)
            ∧ (let dr : DiscoveryRecord := { (s.ctx g).record with lanes := lanes }
              let entry := (s.entry g).fields
              let base : Context :=
                if (s.ctx g).stale then { s.ctx g with record := dr, bound := some entry, stale := false }
                else { s.ctx g with record := dr }
              let checked := checks entry dr (s.record g) s.mga.identity g
              (∀ reason, (s.ctx g).stale = true → checked = .error reason →
                mid.ctx g =
                  { base with
                    state := .quarantined, reason := reason, origin := none, poll := none
                    timer := if entry.retry = 0 then none else some { kind := .retry, remaining := 1000000000 * entry.retry } })
              ∧ ((s.ctx g).stale = false ∨ (∃ m, checked = .ok m) →
                (st = .agreeing → mid.ctx g = base)
                ∧ ∀ b, base.bound = some b →
                  let D := Tab.get s.cpt.classD (s.record g).cls
                  let judged : Context := { base with record := withSkew b.width.lanes (withLengths D b.width.lanes dr) }
                  let length := fun n : Fin 4 => (Tab.get judged.record.lanes n).length
                  let short := ∃ n x, n.val < b.width.lanes ∧ length n = some x ∧ x < b.lengthMin
                  let long := ∃ n x, n.val < b.width.lanes ∧ length n = some x ∧ b.lengthMax < x
                  let skewed := 16 * b.skewLimit < groupSkew dr b.width.lanes
                  let entered := fun (x : GroupState) (reason : Reason) =>
                    { judged with state := x, reason := reason, origin := none, goodCount := 0, timer := none, poll := none }
                  let finds := fun reason : Reason =>
                    (st = .verified → mid.ctx g = entered .degraded reason)
                      ∧ (st = .degraded → mid.ctx g = { judged with reason := reason, goodCount := 0 })
                  (short → finds .lengthShort) ∧ (¬short → long → finds .lengthLong) ∧ (¬short → ¬long → skewed → finds .skew)
                  ∧ (¬short → ¬long → ¬skewed →
                    (st = .verified → mid.ctx g = judged)
                    ∧ (st = .degraded → (s.ctx g).goodCount + 1 < s.mga.settings.hysteresis →
                      mid.ctx g = { judged with goodCount := (s.ctx g).goodCount + 1 })
                    ∧ (st = .degraded → s.mga.settings.hysteresis ≤ (s.ctx g).goodCount + 1 →
                      mid.ctx g = entered .verified .none))))))

/-- The arbiter. At the end of an event it makes the grant attempts of R112 on the queue and the slots the event left: the
candidate is the one of R113, it is granted when the slots suffice with the reservation of R114, a candidate that fails ends the
attempts whatever waits behind it (R115), and a BURST granted while there is no burst holder becomes the holder (R116). So
after a posting, ROUTINE or URGENT (R110); the settling of a probe (R120, R121); the completion of a round of a HELD group
(R124); and the abandonment of a group's probe work at a LOSS (R126). A granted round takes one slot per lane offset, the
lowest-numbered free slots in order of offset, each with its generation advanced by one modulo 32, and touches no other slot
(R118). That the attempts are made once, at the end of the event, is the model's reading (log 10), and that a context without a
bound copy counts as width 1 its choice (log 18). -/
def Obligations.ArbiterGrantsInItsOrder : Prop :=
  (∀ s before : State, GrantsMade (boundWidth s) s.psc (s.endEvent before).psc)
  ∧ (∀ (s : State) (g : Index), s.inReset = false → (s.ctx g).poll ≠ none → (s.ctx g).state = .agreeing →
    hasRequest s.psc.queue g = false →
    let posted : ProbeRequest := { group := g, kind := .routine, rounds := 1, inFlight := false, outcomes := Tab.fill none }
    ∃ t, exec (.agreementPollExpiry g) s = .next t
      ∧ GrantsMade (boundWidth s) { s.psc with queue := s.psc.queue ++ [posted] } t.psc)
  ∧ (∀ (s : State) (r : ControlRequest) (a b : Byte) (g : Index), s.inReset = false → earliestWaiting s.mga.queue = some r →
    r.code = 64 → r.args = [a, b] → a.toNat = g.val → b.extractLsb' 0 3 = 1 →
    (passedVerdict (s.ctx g).state ∨ (s.ctx g).state = .held) →
    let posted : ProbeRequest := { group := g, kind := .urgent, rounds := 1, inFlight := false, outcomes := Tab.fill none }
    let upgraded := s.psc.queue.map fun q => if q.group = g ∧ q.kind = .routine then { q with kind := .urgent } else q
    ∃ u : State, exec .groupActionRecheck s = .next (u.respond r { status := .ok, detail := .none, result := [0, 1] })
      ∧ GrantsMade (boundWidth s)
        { s.psc with queue := if hasRequest s.psc.queue g then upgraded else s.psc.queue ++ [posted] } u.psc)
  ∧ (∀ (s : State) (c : Instr) (k : Fin 8) (g : Index) (i : Fin 4) (r : ProbeRequest) (o : LaneOutcome), s.inReset = false →
    SchedulerConsistent s → Settles s c k g i r o → r ∈ s.psc.queue → r.group = g →
    let slots := Tab.upd s.psc.slots k fun sl => { sl with state := .free }
    let stored := s.psc.queue.map fun q => if q.group = g then { q with outcomes := Tab.set q.outcomes i (some o) } else q
    let last := ∀ k', k' ≠ k → (Tab.get s.psc.slots k').state.group ≠ some g
    (¬last →
      ∃ t, exec c s = .next t ∧ GrantsMade (boundWidth s) { s.psc with slots := slots, queue := stored } t.psc)
    ∧ (last → (s.ctx g).state = .held → r.kind ≠ .burst →
      (∀ n order v, ¬ViewCandidate s.mga.identity (s.ctx g).record (boundWidth s g) (Tab.set r.outcomes i (some o)) n order v) →
      ∃ t, exec c s = .next t
        ∧ GrantsMade (boundWidth s) { s.psc with slots := slots, queue := s.psc.queue.filter fun q => q.group != g } t.psc))
  ∧ (∀ (s : State) (p : Fin 16) (j : Fin 4) (g : Index) (c : Instr), s.inReset = false → s.rx (cell p j) = .locked →
    (c = .lockLost p j ∨ c = .signalLost p j) → covering s.cpt.plan (cell p j) = some g →
    ((s.ctx g).state = .discovering ∨ passedVerdict (s.ctx g).state) →
    let abandoned : Psc :=
      { s.psc with
        slots := Tab.map (fun sl => if sl.state.group = some g then { sl with state := .free } else sl) s.psc.slots
        queue := s.psc.queue.filter fun q => q.group != g
        holder := if s.psc.holder = some g then none else s.psc.holder }
    ∃ t, exec c s = .next t ∧ GrantsMade (boundWidth s) abandoned t.psc)
  ∧ ∀ (W : Width) (c : ProbeRequest) (psc : Psc), W.lanes ≤ (freeSlots psc).length →
    (∀ (i : Fin 4) (k : Fin 8), i.val < W.lanes → (freeSlots psc)[i.val]? = some k →
      Tab.get (grantRound W.lanes c psc).slots k
        = { generation := (Tab.get psc.slots k).generation + 1, state := .granted c.group i })
    ∧ ∀ k, k ∉ (freeSlots psc).take W.lanes → Tab.get (grantRound W.lanes c psc).slots k = Tab.get psc.slots k

/-! ## The verdict and the delay arithmetic -/

/-- R141: check 11, for far lanes f i on the lane offsets below W; and a verdict writes the lane map that passes into the
record, and leaves the record's lane map as it was when check 11 or an earlier check fails. -/
def Obligations.LaneOrderCheck : Prop :=
  (∀ (b : PlanFields) (f : Nat → Nat),
    let W := b.width.lanes
    let F := b.farFirstLane
    let far := (List.range W).map fun i => (i, f i)
    let straight := ∀ i < W, f i = F + i
    let reversed := (W = 2 ∨ W = 4) ∧ ∀ i < W, (f i : Int) = F + W - 1 - i
    let shifted := (∃ c : Int, ∀ i < W, (f i : Int) - i = c) ∨ ∃ c, ∀ i < W, f i + i = c
    (straight → laneOrderCheck b far = .ok .straight)
    ∧ (¬straight → reversed → b.reversal = true → laneOrderCheck b far = .ok .reversed)
    ∧ (¬straight → reversed → b.reversal = false → laneOrderCheck b far = .error .laneOrder)
    ∧ (¬straight → ¬reversed → shifted → laneOrderCheck b far = .error .wrongLane)
    ∧ (¬straight → ¬reversed → ¬shifted → laneOrderCheck b far = .error .laneOrder))
  ∧ ∀ (s : State) (g : Index),
    let checked := checks (s.entry g).fields (s.ctx g).record (s.record g) s.mga.identity g
    (∀ m, checked = .ok m → ((s.verdict g).ctx g).record.laneMap = some m)
      ∧ ∀ r, checked = .error r → ((s.verdict g).ctx g).record.laneMap = (s.ctx g).record.laneMap

/-- Checks 12 to 14 of a verdict whose checks 1 to 11 pass (R142 to R144; what a failing one leaves, R145), and the outcome
where one of checks 1 to 11 fails: QUARANTINED with its reason, the record as it was (R135, R145). A lane's length below the
window fails with LENGTH_SHORT, else one above it with LENGTH_LONG, the lane map and the lengths written; a skew above 16 times
the limit fails with SKEW, the skew written too; either leaves the compensations of the record and the FSU's map and
compensations as they were. The skew is the largest lane estimate less the smallest (R159). Else the compensations are written,
and check 14 gives the outcome from the record's last peer view: the state, the reason and the hold origin of its table, with
the gate of that state. -/
def Obligations.LastChecksDecideTheOutcome : Prop :=
  ∀ (s : State) (g : Index) (m : LaneMap),
    let b := (s.entry g).fields
    let dr := (s.ctx g).record
    let D := Tab.get s.cpt.classD (s.record g).cls
    let W := b.width.lanes
    let judged := withLengths D W { dr with laneMap := some m }
    let short := ∃ i n, i.val < W ∧ (Tab.get judged.lanes i).length = some n ∧ n < b.lengthMin
    let long := ∃ i n, i.val < W ∧ (Tab.get judged.lanes i).length = some n ∧ b.lengthMax < n
    let skewed := 16 * b.skewLimit < groupSkew dr W
    let t := s.verdict g
    let fails := fun (reason : Reason) (left : DiscoveryRecord) =>
      InState t g .quarantined reason none ∧ (t.ctx g).record = left ∧ (t.ctx g).bound = some b ∧ (t.ctx g).stale = false
        ∧ (t.ctx g).timer = (if b.retry = 0 then none else some { kind := .retry, remaining := 1000000000 * b.retry })
        ∧ (∀ i, (Tab.get (t.ctx g).record.lanes i).comp = (Tab.get dr.lanes i).comp)
        ∧ (t.path g).map = (s.path g).map ∧ (t.path g).comps = (s.path g).comps
    let isSkew := fun n : Nat => ∃ (i j : Fin 4) (most least : Nat), i.val < W ∧ (Tab.get dr.lanes i).estimate = some most
      ∧ j.val < W ∧ (Tab.get dr.lanes j).estimate = some least ∧ n = most - least
      ∧ ∀ k : Fin 4, k.val < W → ∃ E, (Tab.get dr.lanes k).estimate = some E ∧ least ≤ E ∧ E ≤ most
    (∀ r, checks b dr (s.record g) s.mga.identity g = .error r → fails r dr)
    ∧ (checks b dr (s.record g) s.mga.identity g = .ok m →
      (∀ n, isSkew n → groupSkew dr W = n)
      ∧ (short → fails .lengthShort judged)
      ∧ (¬short → long → fails .lengthLong judged)
      ∧ (¬short → ¬long → skewed → fails .skew { judged with skew := some (groupSkew dr W) })
      ∧ (¬short → ¬long → ¬skewed →
        (t.ctx g).record = withComps W { judged with skew := some (groupSkew dr W) }
        ∧ (dr.lastView = some .fail ∨ dr.lastView = some .unplanned → InState t g .quarantined .peerRejects none)
        ∧ (dr.lastView = some .held → InState t g .held .holdRemote (some .remoteHold))
        ∧ (dr.lastView = some .pass → InState t g .verified .none none)
        ∧ (dr.lastView = some .pending ∨ dr.lastView = none → InState t g .agreeing .none none)))

/-- Checks 1 to 10 in their order, each on the records that pass the checks before it, and check 11 on the far lanes of a
record that passes them all (R135 to R140). -/
def Obligations.ChecksOneToTenInOrder : Prop :=
  ∀ (b : PlanFields) (dr : DiscoveryRecord) (inv : InventoryRecord) (id : Identity) (g : Index),
    let lane := fun i : Fin 4 => Tab.get dr.lanes i
    let inGroup := fun i : Fin 4 => i.val < b.width.lanes
    let classAllowed := b.allowed.getLsbD inv.cls.val = true
    let shapeMatches := inv.shape = .whole ∧ b.width.lanes = 4 ∨ inv.shape = .pair ∧ b.width.lanes = 2
      ∨ inv.shape = .quad ∧ b.width.lanes = 1
    let inverted := ∃ i, inGroup i ∧ (lane i).inverted = true
    (¬classAllowed → checks b dr inv id g = .error .cableClass)
    ∧ (classAllowed → ¬shapeMatches → checks b dr inv id g = .error .cableShape)
    ∧ (classAllowed → shapeMatches → inverted → b.inversion = false → checks b dr inv id g = .error .polarity)
    ∧ (classAllowed → shapeMatches → (inverted → b.inversion = true) →
      ((∀ i, inGroup i → (lane i).merged = none) → checks b dr inv id g = .error .peerSilent)
      ∧ ((∃ i, inGroup i ∧ (lane i).merged ≠ none) → (∃ i, inGroup i ∧ (lane i).merged = none) →
        checks b dr inv id g = .error .laneDark)
      ∧ ∀ m : Fin 4 → Merged, (∀ i, inGroup i → (lane i).merged = some (m i)) →
        ((∃ i, inGroup i ∧ (lane i).conflicted = true) → checks b dr inv id g = .error .unstable)
        ∧ ((∀ i, inGroup i → (lane i).conflicted = false) →
          ((∃ i, inGroup i ∧ (m i).back ≠ laneAt g i.val) → checks b dr inv id g = .error .pairSplit)
          ∧ ((∀ i, inGroup i → (m i).back = laneAt g i.val) →
            ((∃ i, inGroup i ∧ ((m i).far.chassis, (m i).far.unit, (m i).far.port)
                ≠ ((m 0).far.chassis, (m 0).far.unit, (m 0).far.port)) → checks b dr inv id g = .error .splitFarEnd)
            ∧ ((∀ i, inGroup i → ((m i).far.chassis, (m i).far.unit, (m i).far.port)
                = ((m 0).far.chassis, (m 0).far.unit, (m 0).far.port)) →
              ((m 0).far.chassis = id.chassis ∧ (m 0).far.unit = id.unit → checks b dr inv id g = .error .loopback)
              ∧ (¬((m 0).far.chassis = id.chassis ∧ (m 0).far.unit = id.unit) →
                (((m 0).far.chassis, (m 0).far.unit, (m 0).far.port) ≠ (b.farChassis, b.farUnit, b.farPort) →
                  checks b dr inv id g = .error .wrongPeer)
                ∧ (((m 0).far.chassis, (m 0).far.unit, (m 0).far.port) = (b.farChassis, b.farUnit, b.farPort) →
                  checks b dr inv id g
                    = laneOrderCheck b ((List.range b.width.lanes).map fun i => (i, (m (Fin.ofNat 4 i)).far.lane))))))))

/-- R156: a lane that has an estimate E takes a later sample v by a smoothing step with the smoothing shift k in force: E plus
(v - E) divided by 2^k, truncated toward zero; the new estimate lies between the old one and the sample. A lane without one
takes its first sample as its estimate; each sample counts, up to 16, and one that was clamped at 0 or whose turnaround was
saturated marks the lane suspect. -/
def Obligations.SmoothingStep : Prop :=
  (∀ (t : Settings) (e : EchoItems) (r : LaneRecord),
    let net := (e.raw : Int) - e.turnaround - t.pathOffset
    let v := min (8 * net.toNat) 16777215
    (∀ E, r.estimate = some E → (r.takeSample t e).estimate = some (smooth t.smoothing E v))
    ∧ (r.estimate = none → (r.takeSample t e).estimate = some v)
    ∧ (r.takeSample t e).echoCount = min (r.echoCount + 1) 16
    ∧ ((r.takeSample t e).suspect = true ↔ r.suspect = true ∨ net < 0 ∨ e.turnaround = 65535)
    ∧ r.takeSample t e
        = { r with
            estimate := (r.takeSample t e).estimate
            echoCount := (r.takeSample t e).echoCount
            suspect := (r.takeSample t e).suspect })
  ∧ ∀ k E v : Nat, E ≤ 16777215 → v ≤ 16777215 →
    (E ≤ v → smooth k E v = E + (v - E) / 2 ^ k) ∧ (v ≤ E → smooth k E v = E - (E - v) / 2 ^ k)
      ∧ min E v ≤ smooth k E v ∧ smooth k E v ≤ max E v ∧ smooth k E v ≤ 16777215 ∧ smooth 0 E v = v
      ∧ ((v : Int) - E < 2 ^ k → -(2 ^ k : Int) < (v : Int) - E → smooth k E v = E)

/-- R157: a lane's length is floor(E × 6,250 / D), at most 65,535 cm, and a length computation writes it for every lane of the
group that has an estimate. It writes nothing else there: the clamp sets no suspect item and leaves the estimate as it was; a
lane outside the group is as it was. -/
def Obligations.LengthFromEstimate : Prop :=
  (∀ E D : Nat, 3000 ≤ D → D ≤ 8000 → E ≤ 16777215 →
    (E * 6250 / D ≤ 65535 → lengthCm E D = E * 6250 / D) ∧ (65535 < E * 6250 / D → lengthCm E D = 65535)
      ∧ E * 6250 ≤ 104857593750)
  ∧ ∀ (D W : Nat) (dr : DiscoveryRecord) (i : Fin 4) (E : Nat), i.val < W → (Tab.get dr.lanes i).estimate = some E →
    Tab.get (withLengths D W dr).lanes i = { Tab.get dr.lanes i with length := some (lengthCm E D) }
      ∧ (∀ k : Fin 4, W ≤ k.val → Tab.get (withLengths D W dr).lanes k = Tab.get dr.lanes k)
      ∧ withLengths D W dr = { dr with lanes := (withLengths D W dr).lanes }

/-- R160: a lane's compensation is (max(E) - E + 8) div 16, at most 63 ns; the slowest lane has 0, the clamp does not act
within a skew of 1,008 sixteenths, and a computation writes it for every lane of the group that has an estimate, with max(E)
the largest estimate of the group. -/
def Obligations.CompensationFromEstimates : Prop :=
  (∀ maxE E : Nat, E ≤ maxE →
    ((maxE - E + 8) / 16 ≤ 63 → compensation maxE E = (maxE - E + 8) / 16)
      ∧ (63 < (maxE - E + 8) / 16 → compensation maxE E = 63)
      ∧ compensation E E = 0 ∧ (maxE - E ≤ 1008 → compensation maxE E = (maxE - E + 8) / 16))
  ∧ ∀ (W : Nat) (dr : DiscoveryRecord) (i k : Fin 4) (E maxE : Nat), i.val < W → (Tab.get dr.lanes i).estimate = some E →
    k.val < W → (Tab.get dr.lanes k).estimate = some maxE →
    (∀ n x, n.val < W → (Tab.get dr.lanes n).estimate = some x → x ≤ maxE) →
    (Tab.get (withComps W dr).lanes i).comp = some (compensation maxE E)

/-- Steps 4 and 5 of a recheck: the first finding of R176 makes the group DEGRADED with its reason and count 0; with none, a
VERIFIED group stays, and a DEGRADED group counts the round and returns to VERIFIED when the count reaches the hysteresis
(R176, R177). The skew is the largest lane estimate less the smallest (R159). -/
def Obligations.WindowsAndHysteresis : Prop :=
  ∀ (s : State) (g : Index) (b : PlanFields), (s.ctx g).bound = some b → (s.ctx g).origin = none →
    ((s.ctx g).state = .verified ∧ (s.path g).gate = .openVerified
      ∨ (s.ctx g).state = .degraded ∧ (s.path g).gate = .openDegraded) →
    let D := Tab.get s.cpt.classD (s.record g).cls
    let W := b.width.lanes
    let dr := withSkew W (withLengths D W (s.ctx g).record)
    let short := ∃ i n, i.val < W ∧ (Tab.get dr.lanes i).length = some n ∧ n < b.lengthMin
    let long := ∃ i n, i.val < W ∧ (Tab.get dr.lanes i).length = some n ∧ b.lengthMax < n
    let skewed := 16 * b.skewLimit < groupSkew (s.ctx g).record W
    let isSkew := fun n : Nat => ∃ (i j : Fin 4) (most least : Nat), i.val < W ∧ (Tab.get (s.ctx g).record.lanes i).estimate = some most
      ∧ j.val < W ∧ (Tab.get (s.ctx g).record.lanes j).estimate = some least ∧ n = most - least
      ∧ ∀ k : Fin 4, k.val < W → ∃ E, (Tab.get (s.ctx g).record.lanes k).estimate = some E ∧ least ≤ E ∧ E ≤ most
    let t := s.windowStep g
    (∀ n, isSkew n → groupSkew (s.ctx g).record W = n)
    ∧ (t.ctx g).record = dr
    ∧ (short → InState t g .degraded .lengthShort none)
    ∧ (¬short → long → InState t g .degraded .lengthLong none)
    ∧ (¬short → ¬long → skewed → InState t g .degraded .skew none)
    ∧ (short ∨ long ∨ skewed → (t.ctx g).goodCount = 0)
    ∧ (¬short → ¬long → ¬skewed →
      ((s.ctx g).state = .verified → t.ctx g = { s.ctx g with record := dr })
      ∧ ((s.ctx g).state = .degraded → (s.ctx g).goodCount + 1 < s.mga.settings.hysteresis →
        t.ctx g = { s.ctx g with record := dr, goodCount := (s.ctx g).goodCount + 1 })
      ∧ ((s.ctx g).state = .degraded → s.mga.settings.hysteresis ≤ (s.ctx g).goodCount + 1 →
        InState t g .verified .none none ∧ (t.ctx g).goodCount = 0))

/-! ## The presence chain -/

/-- A trigger of the chain read, by the marks (the table of R43): PALERT and the interval timer. -/
def Obligations.ReadTriggersFollowTheMarks : Prop :=
  ∀ s : State, s.inReset = false →
    (s.ciu.inProgress = false →
      exec .palertRise s = .next { s with ciu := { s.ciu with
        inProgress := true, timer := some (1000000 * s.mga.settings.inventoryInterval), elapsed := 0 } }
      ∧ (s.ciu.timer ≠ none → exec .inventoryIntervalExpiry s = .next { s with ciu := { s.ciu with
        inProgress := true, timer := some (1000000 * s.mga.settings.inventoryInterval), elapsed := 0 } }))
    ∧ (s.ciu.inProgress = true →
      exec .palertRise s = .next { s with ciu := { s.ciu with readPending := true } }
      ∧ (s.ciu.timer ≠ none →
        exec .inventoryIntervalExpiry s = .next { s with ciu := { s.ciu with readPending := true, timer := none } }))

/-- The end of a chain read judges every port's byte: the 128 bits in the order they were taken, port 15's byte first, each
most significant bit first (R41). A bad byte holds the record with fault set and posts the port notice; a good byte replaces
it, and posts the port notice if it changed anything (R45 to R48). The contexts of a port whose present, class, shape and
ready fields come out as they were are not touched. The port notices come in the order of the judging; behind them, as each
context takes its event as one of its own, the group notices, those of port 15's contexts first (R45, R49, R57, log 9), in a
port by lane (the model's choice, log 33). The pending read starts or the in-progress mark is cleared (R43). What is said of
contexts and group notices is said where no port change event of an earlier read waits, for one that waits is taken before the
read is judged (PortChangeActsOnTheContexts; log 32). -/
def Obligations.ChainReadEndJudgesEveryPort : Prop :=
  ∀ (s : State) (bits : List Bool) (chain : Fin 16 → Byte), s.inReset = false → s.ciu.inProgress = true → bits.length = 128 →
    (∀ (p : Fin 16) (k : Nat), k < 8 → (chain p).getLsbD k = bits.getD (8 * (15 - p.val) + (7 - k)) false) →
    let bad := fun p : Fin 16 => onesCount (chain p) % 2 = 0 ∨ ((chain p).extractLsb' 2 2).toNat = 3
    let old := fun p : Fin 16 => Tab.get s.ciu.records p
    let new := fun p : Fin 16 => recordAfterByte s.cpt.plan p (old p) (chain p)
    let posts := fun p : Fin 16 => bad p ∨ new p ≠ old p
    let fromPort15 := (List.finRange 16).reverse.flatMap fun p => (List.finRange 4).map (cell p)
    ∃ t, exec (.chainReadEnd bits) s = .next t
      ∧ (∀ p : Fin 16, Tab.get t.ciu.records p = new p)
      ∧ (s.ciu.handed = [] → ∀ (ports : List (Fin 16)), ports.Pairwise (fun a b => b < a) → (∀ p, p ∈ ports ↔ posts p) →
          t.notices = fromPort15.foldl (groupNoticed s t) (ports.foldl (portNoticed s t) s.notices))
      ∧ (∀ (p : Fin 16) (j : Fin 4), (∀ e ∈ s.ciu.handed, e.group ≠ cell p j) →
          ((new p).present, (new p).cls, (new p).shape, (new p).ready) = ((old p).present, (old p).cls, (old p).shape, (old p).ready) →
          t.ctx (cell p j) = s.ctx (cell p j) ∧ t.path (cell p j) = s.path (cell p j))
      ∧ (s.ciu.readPending = true → t.ciu.inProgress = true ∧ t.ciu.readPending = false
          ∧ t.ciu.timer = some (1000000 * s.mga.settings.inventoryInterval) ∧ t.ciu.elapsed = 0)
      ∧ (s.ciu.readPending = false → t.ciu.inProgress = false ∧ t.ciu.readPending = false ∧ t.ciu.timer = s.ciu.timer)
      ∧ t.cpt = s.cpt ∧ t.mga = s.mga ∧ t.sws = s.sws ∧ t.fsu.classTable = s.fsu.classTable ∧ t.psc.now = s.psc.now
      ∧ ReceiveKept s t

/-- The port change event that a read brings, by its kind (R49), goes to each of the four contexts of its port, port 15's first;
each takes it as an event of its own, with its own grant attempts and notice at its end, on the new record and in the state it
then has (R49, R70 to R72). A context whose verdict can fall together with the read, the last round of its burst being in
flight, takes it in a step of its own instead, which an echo or a deadline that brings the verdict can precede: the verdict
then reads the new record, and the event reaches the context after it (R50, R84). That this holds of such contexts alone, and
that an empty queue of commands takes such an event before time passes, is the model's choice (log 32); the end of a further
read takes it first, before it judges a byte, so that the event is always taken on the record of its own read. REMOVED takes
every planned context to WAITING with its record cleared, with reason CABLE_ABSENT, or NO_IDENTITY while the identity is
unassigned. The order of the four contexts of a port is the model's choice (log 33). -/
def Obligations.PortChangeActsOnTheContexts : Prop :=
  (∀ old new : InventoryRecord,
    (old.present = false → new.present = true → portChangeOf old new = some .arrived)
    ∧ (old.present = true → new.present = false → portChangeOf old new = some .removed)
    ∧ (old.present = new.present → (old.cls ≠ new.cls ∨ old.shape ≠ new.shape) → portChangeOf old new = some .replaced)
    ∧ (old.present = new.present → old.cls = new.cls → old.shape = new.shape →
      (old.ready ≠ new.ready → portChangeOf old new = some (.ready new.ready))
      ∧ (old.ready = new.ready → portChangeOf old new = none)))
  ∧ (∀ (s : State) (bits : List Bool), s.inReset = false → s.ciu.inProgress = true → bits.length = 128 →
    exec (.chainReadEnd bits) s = exec (.chainReadEnd bits)
      (s.ciu.handed.foldl (fun u e => (u.portChange e.group e.change).endEvent u) { s with ciu := { s.ciu with handed := [] } }))
  ∧ (∀ (s : State) (bits : List Bool), s.inReset = false → s.ciu.inProgress = true → bits.length = 128 → s.ciu.handed = [] →
    let old := fun p : Fin 16 => Tab.get s.ciu.records p
    let new := fun p : Fin 16 => recordAfterByte s.cpt.plan p (old p) (portByte bits p)
    let change := fun p : Fin 16 => portChangeOf (old p) (new p)
    let handed : List HandedEvent := (List.finRange 16).reverse.flatMap fun p =>
      (change p).toList.flatMap fun e => (List.finRange 4).map fun j => { group := cell p j, change := e }
    ∃ mid t, exec (.chainReadEnd bits) s = .next t ∧ mid = { s with ciu := mid.ciu, notices := mid.notices }
      ∧ (∀ p, Tab.get mid.ciu.records p = new p) ∧ mid.ciu.handed = handed.filter (fun e => lastRoundFlies s e.group)
      ∧ t = (handed.filter fun e => !lastRoundFlies s e.group).foldl
          (fun u e => (u.portChange e.group e.change).endEvent u) mid
      ∧ t.ciu = mid.ciu
      ∧ ∀ (p : Fin 16) (j : Fin 4) (e : PortChange), change p = some e →
        (lastRoundFlies s (cell p j) = true → t.ctx (cell p j) = s.ctx (cell p j) ∧ t.path (cell p j) = s.path (cell p j))
        ∧ (lastRoundFlies s (cell p j) = false →
          PortChangeActs mid t (cell p j) e
          ∧ (e = .removed → (s.ctx (cell p j)).state ≠ .unplanned → (s.ctx (cell p j)).state ≠ .waiting →
            Waits t (cell p j) (if s.mga.identity.assigned then .cableAbsent else .noIdentity))))
  ∧ (∀ (s : State) (g : Index), SchedulerConsistent s →
    (lastRoundFlies s g = true ↔ (s.ctx g).state = .discovering
      ∧ ∃ r ∈ s.psc.queue, r.group = g ∧ r.kind = .burst ∧ r.rounds = 1 ∧ r.inFlight = true))
  ∧ ∀ (s : State) (e : HandedEvent) (rest : List HandedEvent), s.ciu.handed = e :: rest →
    ∃ t, OwnEvent.run .portChange s = .next t ∧ PortChangeActs s t e.group e.change
      ∧ t.ciu = { s.ciu with handed := rest } ∧ t.notices = groupNoticed s t s.notices e.group
      ∧ OthersKept e.group s t ∧ ReceiveKept s t ∧ t.cpt = s.cpt ∧ t.mga = s.mga ∧ t.sws = s.sws ∧ t.psc.now = s.psc.now

/-! ## Timers -/

/-- The lock timer of an ACQUIRING or LOST context and the agreement timer of an AGREEING context quarantine it when they
expire, with LOCK_TIMEOUT and NO_AGREEMENT; the retry timer of a QUARANTINED context takes it through the start test. The
group notice is posted where the state or the reason has changed (R57, R65, R68, R78, R79). -/
def Obligations.ExpiredStateTimersAct : Prop :=
  ∀ (s : State) (g : Index) (n : Nat), s.inReset = false →
    ((s.ctx g).timer = some { kind := .lock, remaining := n } →
      ((s.ctx g).state = .acquiring ∨ (s.ctx g).state = .lost) →
      ∃ t, exec (.lockTimerExpiry g) s = .next t ∧ Quarantined s t g .lockTimeout
        ∧ t.notices = postNotice s.notices g.val (.group .quarantined .lockTimeout none) s.psc.now
        ∧ OthersKept g s t ∧ BlocksKept s t ∧ ReceiveKept s t)
    ∧ ((s.ctx g).timer = some { kind := .agreement, remaining := n } → (s.ctx g).state = .agreeing →
      ∃ t, exec (.agreementTimerExpiry g) s = .next t ∧ Quarantined s t g .noAgreement
        ∧ t.notices = postNotice s.notices g.val (.group .quarantined .noAgreement none) s.psc.now
        ∧ OthersKept g s t ∧ BlocksKept s t ∧ ReceiveKept s t)
    ∧ ((s.ctx g).timer = some { kind := .retry, remaining := n } → (s.ctx g).state = .quarantined →
      ∃ t, exec (.retryTimerExpiry g) s = .next t ∧ StartTested s t g ∧ (t.ctx g).bound = (s.ctx g).bound
        ∧ t.notices = groupNoticed s t s.notices g ∧ OthersKept g s t ∧ BlocksKept s t ∧ ReceiveKept s t)

/-- The poll interval of an AGREEING context restarts at its expiry, and posts a ROUTINE request of one round when the queue
holds none for the group and nothing when it holds one (R164). -/
def Obligations.PollPostsWhenNothingIsPending : Prop :=
  ∀ (s : State) (g : Index), s.inReset = false → GrantsSettled s → (s.ctx g).poll ≠ none → (s.ctx g).state = .agreeing →
    ∃ t, exec (.agreementPollExpiry g) s = .next t ∧ t.ctx g = { s.ctx g with poll := some 2000000 }
      ∧ (hasRequest s.psc.queue g = true → t.psc = s.psc)
      ∧ (hasRequest s.psc.queue g = false → ∃ r ∈ t.psc.queue, r.group = g ∧ r.kind = .routine ∧ r.rounds = 1)
      ∧ OthersKept g s t ∧ BlocksKept s t ∧ ReceiveKept s t

/-- A step of the Sweep Scheduler posts a ROUTINE for the first eligible index from its position on, ends on the index after
it, and counts a sweep as it passes from 63 to 0; with no eligible index it posts nothing, ends where it began and counts a
sweep. The last sweep of a SINGLE run ends it OFF at index 0, with or without a posting for index 63 (R167 to R169). -/
def Obligations.SweepStepSearchesFromItsPosition : Prop :=
  ∀ (s : State) (ns : Nat), s.inReset = false → s.sws.timer = some ns →
    let index := fun n : Nat => (⟨(s.sws.position.val + n) % 64, Nat.mod_lt _ (by decide)⟩ : Index)
    let eligible := fun g : Index => ((s.ctx g).state = .verified ∨ (s.ctx g).state = .degraded ∨ (s.ctx g).state = .held)
      ∧ hasRequest s.psc.queue g = false
    let posts := fun (g : Index) (t : State) => (∃ r ∈ t.psc.queue, r.group = g ∧ r.kind = .routine ∧ r.rounds = 1)
      ∧ t.buc = s.buc ∧ OthersKept g s t ∧ ReceiveKept s t ∧ t.mga = s.mga ∧ t.cpt = s.cpt ∧ t.ciu = s.ciu
    let swept : Sws :=
      { s.sws with
        remaining := if s.sws.mode = .single then s.sws.remaining - 1 else s.sws.remaining
        completed := satInc s.sws.completed
        flag := true }
    let restarted := some (1000 * s.mga.settings.sweepInterval)
    let ended : Sws :=
      { mode := .off, remaining := 0, position := 0, completed := satInc s.sws.completed, flag := true, timer := none }
    (s.sws.mode = .continuous ∨ s.sws.mode = .single ∧ 2 ≤ s.sws.remaining →
      (∀ n < 64, (∀ m < n, ¬eligible (index m)) → eligible (index n) →
        ∃ t, exec .sweepStep s = .next t ∧ posts (index n) t
          ∧ t.sws = { (if s.sws.position.val + n < 63 then s.sws else swept) with position := index (n + 1), timer := restarted })
      ∧ ((∀ g, ¬eligible g) → exec .sweepStep s = .next { s with sws := { swept with timer := restarted } }))
    ∧ (s.sws.mode = .single → s.sws.remaining = 1 →
      (∀ n, s.sws.position.val + n < 63 → (∀ m < n, ¬eligible (index m)) → eligible (index n) →
        ∃ t, exec .sweepStep s = .next t ∧ posts (index n) t
          ∧ t.sws = { s.sws with position := index (n + 1), timer := restarted })
      ∧ ((∀ n, s.sws.position.val + n < 63 → ¬eligible (index n)) → eligible 63 →
        ∃ t, exec .sweepStep s = .next t ∧ posts 63 t ∧ t.sws = ended)
      ∧ ((∀ n, s.sws.position.val + n < 64 → ¬eligible (index n)) →
        exec .sweepStep s = .next { s with sws := ended }))

/-! ## Management -/

/-- The request queue of the Management Agent: a well-formed addressed frame received whole takes an entry as WAITING while
fewer than four are occupied, and is discarded when four are; the oldest response waiting at a free system lane departs and
frees its entry (R182, R183, R184). -/
def Obligations.RequestsQueueAndResponsesDepart : Prop :=
  (∀ (s : State) (p : Fin 16) (j : Fin 4) (rest : List Byte) (lead : LeadWord) (target : BitVec 16), s.inReset = false →
    Tab.get s.fsu.systemRx (cell p j) = .control lead target → 4 ≤ rest.length → at8 rest 3 ≤ 120 →
    at8 rest 3 ≤ rest.length - 4 →
    let received := s.setSystemRx (cell p j) .none
    let request : ControlRequest :=
      { lead := lead, target := target, tag := BitVec.ofNat 16 (at16 rest 0), code := at8 rest 2
        args := (rest.drop 4).take (at8 rest 3), lane := cell p j }
    (s.mga.queue.length < 4 → exec (.controlRequestReceived p j rest) s = .next
      { received with mga := { s.mga with queue := s.mga.queue ++ [{ request := request, state := .waiting }] } })
    ∧ (4 ≤ s.mga.queue.length → exec (.controlRequestReceived p j rest) s = .next received))
  ∧ ∀ (s : State) (p : Fin 16) (j : Fin 4) (pre post : List Entry) (r : ControlRequest) (bytes : List Byte), s.inReset = false →
    s.mga.queue = pre ++ { request := r, state := .answering bytes } :: post → r.lane = cell p j →
    (∀ e ∈ pre, e.answersOn (cell p j) = false) → (Tab.get s.fsu.systemTx (cell p j)).underWay = none →
    exec (.responseDeparture p j) s = .next
      (({ s with mga := { s.mga with queue := pre ++ post } }).send .system (cell p j) (.response bytes))

/-- An execution answers its request: the entry becomes ANSWERING with the response of R184 and R185, its source the identity
in force and its attention flag set exactly when a notice is pending; the entry of a domain broadcast is freed with no
response; other entries and the rest of the part are unchanged (R183, R184). A code that names no command is answered
UNKNOWN_COMMAND, and an argument length that is not the command's own BAD_ARGUMENT with LENGTH, both with no result and no
other change (R185). That each of the three rows of GROUP ACTION answers a code-64 request of a wrong length is the model's
reading of the table (log 8), and that the rows take the earliest WAITING request is log 7. -/
def Obligations.ExecutionAnswersItsRequest : Prop :=
  (∀ (s : State) (pre post : List Entry) (r : ControlRequest) (a : Reply),
    s.mga.queue = pre ++ { request := r, state := .waiting } :: post → (∀ e ∈ pre, e.state ≠ .waiting) →
    let response :=
      bytes16 r.lead.toNat ++ bytes16 (16 * s.mga.identity.chassis + s.mga.identity.unit) ++ bytes16 r.tag.toNat
        ++ [byte a.status.code, byte a.detail.code, (if s.notices = [] then 0 else 0x80), byte a.result.length] ++ a.result
    let queued := fun q : List Entry => { s with mga := { s.mga with queue := q } }
    earliestWaiting s.mga.queue = some r
    ∧ (r.target.toNat % 16 = 15 → s.respond r a = queued (pre ++ post))
    ∧ (r.target.toNat % 16 ≠ 15 → s.respond r a = queued (pre ++ { request := r, state := .answering response } :: post)))
  ∧ ∀ (s : State) (r : ControlRequest), s.inReset = false → earliestWaiting s.mga.queue = some r →
    (r.code ∉ commandCodes →
      exec .unknownCommand s = .next (s.respond r { status := .unknownCommand, detail := .none, result := [] }))
    ∧ ∀ x ∈ ([(.readIdentity, 1, [0]), (.setIdentity, 2, [2]), (.writePlanEntry, 16, [17]), (.readPlanEntry, 17, [1]),
        (.writeClassEntry, 18, [3]), (.readClassEntry, 19, [1]), (.writeProfile, 20, [3]), (.readProfile, 21, [1]),
        (.writeFrameClass, 22, [16]), (.readFrameClass, 23, [0]), (.writeSettings, 32, [17]), (.readSettings, 33, [0]),
        (.readGroup, 48, [1]), (.readInventory, 49, [0]), (.readNotices, 50, [0]), (.readCounters, 51, [0]),
        (.groupActionHold, 64, [2]), (.groupActionResume, 64, [2]), (.groupActionRecheck, 64, [2]), (.sweepControl, 80, [0, 2]),
        (.softReset, 96, [0])] : List (Instr × Nat × List Nat)),
      r.code = x.2.1 → r.args.length ∉ x.2.2 →
      exec x.1 s = .next (s.respond r { status := .badArgument, detail := .length, result := [] })

/-- The read commands answer with what is stored and change nothing else: identity (R186), profile (R35), Frame Class Table
(R8), the 17 bytes of the settings (R188), the group snapshot of 24 bytes and 19 for each lane offset (R189), the inventory
with two bytes for each port, and the counters (R190); an index out of range is refused. That bit 0 of a port's first byte and
bits 7-2 of its second are 0 is the model's choice (log 34). -/
def Obligations.ReadsAnswerAndChangeNothing : Prop :=
  ∀ (s : State) (r : ControlRequest), s.inReset = false → earliestWaiting s.mga.queue = some r →
    let answers := fun (c : Instr) (bytes : List Byte) =>
      exec c s = .next (s.respond r { status := .ok, detail := .none, result := bytes })
    let refuses := fun c : Instr => exec c s = .next (s.respond r { status := .badArgument, detail := .index, result := [] })
    let settings := fun x : Settings =>
      bytes16 x.probeTimeout ++ [byte x.discoveryRounds, byte x.smoothing] ++ bytes16 x.pathOffset ++ bytes16 x.lockTimeout
        ++ bytes16 x.agreementTimeout ++ bytes32 x.sweepInterval ++ [byte x.hysteresis] ++ bytes16 x.inventoryInterval
    let port := fun x : InventoryRecord =>
      [byte ((if x.present then 128 else 0) + 16 * x.cls.val
          + 4 * (match x.shape with
            | .whole => 0
            | .pair => 1
            | .quad => 2)
          + (if x.ready then 2 else 0)),
       byte ((if x.fault then 2 else 0) + (if x.unplanned then 1 else 0))]
    let group := fun g : Index =>
      let c := s.ctx g
      let q := s.path g
      [byte c.state.code, byte c.reason.code,
       byte (match c.origin with
         | none => 0
         | some .localHold => 1
         | some .remoteHold => 2),
       byte c.goodCount,
       byte ((if c.record.skew = none then 4 else 0) + (if c.stale then 2 else 0) + (if c.bound = none then 0 else 1)),
       byte (boundWidth s g),
       byte (match c.timer with
         | none => 0
         | some { kind := .lock, .. } => 1
         | some { kind := .agreement, .. } => 2
         | some { kind := .retry, .. } => 3)]
      ++ bytes32 (match c.timer with
        | none => 0
        | some x => (x.remaining + 999999) / 1000000)
      ++ [byte (match q.gate with
           | .closed => 0
           | .openVerified => 1
           | .openDegraded => 2),
          byte q.profile.val,
          byte (match q.map with
            | .straight => 0
            | .reversed => 1),
          byte (match c.record.lastView with
            | none => 255
            | some v => v.code),
          byte (match c.record.laneMap with
            | none => 255
            | some .straight => 0
            | some .reversed => 1)]
      ++ bytes32 (c.record.skew.getD 0) ++ bytes32 q.fenced.toNat
    let laneEntry := fun (g : Index) (i : Nat) =>
      let l := laneAt g i
      let v := Tab.get s.buc.lockView l
      let x := Tab.get (s.ctx g).record.lanes (Fin.ofNat 4 i)
      [byte (match (Tab.get s.lfr l).state with
         | .dark => 0
         | .acquiring => 1
         | .locked => 2),
       byte ((if v.locked then 32 else 0) + (if v.polarity then 16 else 0) + (if x.merged = none then 0 else 8)
         + (if x.conflicted then 4 else 0) + (if x.suspect then 2 else 0) + (if x.inverted then 1 else 0)),
       byte ((if x.estimate = none then 4 else 0) + (if x.length = none then 2 else 0) + (if x.comp = none then 1 else 0))]
      ++ (match x.merged with
        | none => [0, 0, 0, 0, 0, 0]
        | some m => bytes16 (16 * m.far.chassis + m.far.unit)
            ++ [byte m.far.port, byte m.far.lane, byte (portOf m.back).val, byte (laneOf m.back).val])
      ++ [byte x.missRun, byte x.echoCount] ++ bytes32 (x.estimate.getD 0) ++ bytes16 (x.length.getD 0)
      ++ [byte (x.comp.getD 0), byte (Tab.get (s.path g).comps (Fin.ofNat 4 i))]
    (r.code = 1 → r.args = [] → answers .readIdentity
      (bytes16 (16 * s.mga.identity.chassis + s.mga.identity.unit) ++ [byte (bit s.mga.identity.assigned), 1]))
    ∧ (∀ a, r.code = 21 → r.args = [a] →
      (∀ h : a.toNat < 8, answers .readProfile
        [a, (Tab.get s.cpt.profiles ⟨a.toNat, h⟩).verified, (Tab.get s.cpt.profiles ⟨a.toNat, h⟩).degraded])
      ∧ (8 ≤ a.toNat → refuses .readProfile))
    ∧ (r.code = 23 → r.args = [] → answers .readFrameClass
      ((List.finRange 16).map fun k => byte (Tab.get s.fsu.classTable k).code))
    ∧ (r.code = 33 → r.args = [] → answers .readSettings (settings s.mga.settings))
    ∧ (∀ a, r.code = 48 → r.args = [a] →
      (∀ h : a.toNat < 64, answers .readGroup
        (group ⟨a.toNat, h⟩ ++ (List.range (boundWidth s ⟨a.toNat, h⟩)).flatMap (laneEntry ⟨a.toNat, h⟩)))
      ∧ (64 ≤ a.toNat → refuses .readGroup))
    ∧ (r.code = 49 → r.args = [] → answers .readInventory
      ((List.finRange 16).flatMap fun p => port (Tab.get s.ciu.records p)))
    ∧ (r.code = 51 → r.args = [] → answers .readCounters
      (bytes32 s.psc.late.toNat ++ bytes32 s.fsu.malformed.toNat ++ bytes16 s.sws.completed.toNat))

/-- READ PLAN ENTRY returns the stored entry in the 17 bytes of the form of 10.5, and refuses an index above 63 with INDEX
(R29, R187). That byte 1 of an enabled entry is 1, and that the bits of byte 9 which a write ignores are 0, is the model's
choice (log 30). -/
def Obligations.ReadPlanEntryReturnsTheStoredEntry : Prop :=
  ∀ (s : State) (r : ControlRequest) (a : Byte), s.inReset = false → earliestWaiting s.mga.queue = some r → r.code = 17 →
    r.args = [a] →
    let shown := fun (g : Index) (e : PlanEntry) =>
      [byte g.val, (if e.enabled then 1 else 0), byte e.fields.width.lanes,
       byte (e.fields.farChassis / 256), byte (e.fields.farChassis % 256), byte e.fields.farUnit, byte e.fields.farPort,
       byte e.fields.farFirstLane, e.fields.allowed,
       byte ((if e.fields.reversal then 2 else 0) + (if e.fields.inversion then 1 else 0)),
       byte (e.fields.lengthMin / 256), byte (e.fields.lengthMin % 256),
       byte (e.fields.lengthMax / 256), byte (e.fields.lengthMax % 256),
       byte e.fields.skewLimit, byte e.fields.profile.val, byte e.fields.retry]
    (∀ h : a.toNat < 64, exec .readPlanEntry s = .next
      (s.respond r { status := .ok, detail := .none, result := shown ⟨a.toNat, h⟩ (s.entry ⟨a.toNat, h⟩) }))
    ∧ (64 ≤ a.toNat → exec .readPlanEntry s = .next (s.respond r { status := .badArgument, detail := .index, result := [] }))

/-- R33: WRITE CLASS ENTRY stores D clamped into 3,000 to 8,000 and answers the stored value, READ CLASS ENTRY returns it, and
both refuse a class above 7 with INDEX. -/
def Obligations.ClassEntriesAreClampedAndRead : Prop :=
  ∀ (s : State) (r : ControlRequest), s.inReset = false → earliestWaiting s.mga.queue = some r →
    let refused := s.respond r { status := .badArgument, detail := .index, result := [] }
    (∀ a b c : Byte, r.code = 18 → r.args = [a, b, c] →
      let D := max 3000 (min 8000 (256 * b.toNat + c.toNat))
      (∀ h : a.toNat < 8, exec .writeClassEntry s = .next
        (({ s with cpt := { s.cpt with classD := Tab.set s.cpt.classD ⟨a.toNat, h⟩ D } }).respond r
          { status := .ok, detail := .none, result := a :: bytes16 D }))
      ∧ (8 ≤ a.toNat → exec .writeClassEntry s = .next refused))
    ∧ ∀ a : Byte, r.code = 19 → r.args = [a] →
      (∀ h : a.toNat < 8, exec .readClassEntry s = .next
        (s.respond r { status := .ok, detail := .none, result := a :: bytes16 (Tab.get s.cpt.classD ⟨a.toNat, h⟩) }))
      ∧ (8 ≤ a.toNat → exec .readClassEntry s = .next refused)

/-- The writes of an Admission Profile (R36), of the Frame Class Table (R8) and of the Operating Settings (R188): what each
stores, refuses and answers, with nothing else changed. -/
def Obligations.TableWritesStoreOrRefuse : Prop :=
  ∀ (s : State) (r : ControlRequest), s.inReset = false → earliestWaiting s.mga.queue = some r →
    let answer := fun (t : State) (bytes : List Byte) => t.respond r { status := .ok, detail := .none, result := bytes }
    let refuse := fun (d : Detail) (bytes : List Byte) => s.respond r { status := .badArgument, detail := d, result := bytes }
    (∀ a v d : Byte, r.code = 20 → r.args = [a, v, d] →
      (8 ≤ a.toNat → exec .writeProfile s = .next (refuse .index []))
      ∧ ∀ h : a.toNat < 8,
        let old := Tab.get s.cpt.profiles ⟨a.toNat, h⟩
        let new : Profile := { verified := v, degraded := d }
        ((∃ c, c < 8 ∧ d.getLsbD c = true ∧ v.getLsbD c = false) →
          exec .writeProfile s = .next (refuse .subset [a, old.verified, old.degraded]))
        ∧ ((∀ c, c < 8 → d.getLsbD c = true → v.getLsbD c = true) → exec .writeProfile s = .next
          (answer { s with cpt := { s.cpt with profiles := Tab.set s.cpt.profiles ⟨a.toNat, h⟩ new } } [a, v, d])))
    ∧ (r.code = 22 → r.args.length = 16 →
      let stored := (List.finRange 16).map fun k => byte (Tab.get s.fsu.classTable k).code
      ((∃ k : Fin 16, 4 < at8 r.args k.val) → exec .writeFrameClass s = .next (refuse .kindMap stored))
      ∧ ∀ table : Tab Action 16, (∀ k : Fin 16, at8 r.args k.val = (Tab.get table k).code) →
        let count := fun x : Action => ((List.finRange 16).filter fun k => Tab.get table k = x).length
        let allowed := count .probe = 1 ∧ count .echo = 1 ∧ 1 ≤ count .control
        (¬allowed → exec .writeFrameClass s = .next (refuse .kindMap stored))
        ∧ (allowed → exec .writeFrameClass s = .next
          (answer { s with fsu := { s.fsu with classTable := table } } r.args)))
    ∧ (r.code = 32 → r.args.length = 17 →
      let written : Settings :=
        { probeTimeout := max 1 (min 1000 (at16 r.args 0)), discoveryRounds := max 1 (min 16 (at8 r.args 2))
          smoothing := min 7 (at8 r.args 3), pathOffset := min 1023 (at16 r.args 4)
          lockTimeout := max 10 (min 2000 (at16 r.args 6)), agreementTimeout := max 10 (min 10000 (at16 r.args 8))
          sweepInterval := max 100 (min 100000 (at32 r.args 10)), hysteresis := max 1 (min 15 (at8 r.args 14))
          inventoryInterval := max 10 (min 1000 (at16 r.args 15)) }
      exec .writeSettings s = .next
        (answer { s with mga := { s.mga with settings := written } }
          (bytes16 written.probeTimeout ++ [byte written.discoveryRounds, byte written.smoothing] ++ bytes16 written.pathOffset
            ++ bytes16 written.lockTimeout ++ bytes16 written.agreementTimeout ++ bytes32 written.sweepInterval
            ++ [byte written.hysteresis] ++ bytes16 written.inventoryInterval)))

/-- A plan write is refused with the first cause of R23 and R24 that applies, in their order, and names the entry to store
when none does; an index above 63 is refused before any of them (R22, R23, R24). -/
def Obligations.PlanWriteChecksInOrder : Prop :=
  (∀ (plan : Tab PlanEntry 64) (g : Index) (w : WrittenEntry),
    let old := Tab.get plan g
    let width := w.width = 1 ∨ w.width = 2 ∨ w.width = 4
    let align := g.val % w.width = 0 ∧ w.farFirstLane ≤ 3 ∧ w.farFirstLane % w.width = 0
    let overlap := w.enabled = true ∧ ∃ h l : Index, h ≠ g ∧ (Tab.get plan h).enabled = true
      ∧ covers h (Tab.get plan h).fields.width l = true
      ∧ portOf l = portOf g ∧ (laneOf g).val ≤ (laneOf l).val ∧ (laneOf l).val < (laneOf g).val + w.width
    let farId := w.farChassis ≤ 4094 ∧ w.farUnit ≤ 14 ∧ w.farPort ≤ 15
    let kept := old.enabled = true → w.enabled = true → old.fields.width.lanes = w.width
    let first := fun (pass : Prop) (d : Detail) (rest : Prop) =>
      (¬pass → validateEntry plan g w = .error d) ∧ (pass → rest)
    first width .width (first align .align (first (¬overlap) .overlap (first farId .farId (first (w.allowed ≠ 0) .classSet
      (first (w.lengthMin ≤ w.lengthMax) .window (first (w.skewLimit ≤ 63) .skewLimit (first (w.profile ≤ 7) .profile
        (first kept .lockedWidth (∃ e, validateEntry plan g w = .ok e ∧ e.enabled = w.enabled
          ∧ e.fields.width.lanes = w.width ∧ e.fields.profile.val = w.profile
          ∧ e.fields = { w.fields e.fields.width with profile := e.fields.profile }))))))))))
  ∧ ∀ (s : State) (r : ControlRequest), s.inReset = false → earliestWaiting s.mga.queue = some r → r.code = 16 →
    r.args.length = 17 → 64 ≤ at8 r.args 0 →
    exec .writePlanEntry s = .next (s.respond r { status := .badArgument, detail := .index, result := [] })

/-- A plan write that moves no context: refused, it leaves every entry and context as it was and answers the stored entry; a
storing or restating write changes the stored entry alone; a changing write also sets the stale mark of its context (R22, R25,
R28). Arguments and answer have the 17 bytes of the form of 10.5 (R187); that byte 1 of an enabled entry in the answer is 1,
and that the bits of byte 9 which a write ignores are 0 there, is the model's choice (log 30). -/
def Obligations.PlanWritesThatMoveNoContext : Prop :=
  ∀ (s : State) (r : ControlRequest) (g : Index), s.inReset = false → LanesSettled s → GrantsSettled s →
    earliestWaiting s.mga.queue = some r → r.code = 16 → r.args.length = 17 → at8 r.args 0 = g.val →
    let shown := fun (g : Index) (e : PlanEntry) =>
      [byte g.val, (if e.enabled then 1 else 0), byte e.fields.width.lanes,
       byte (e.fields.farChassis / 256), byte (e.fields.farChassis % 256), byte e.fields.farUnit, byte e.fields.farPort,
       byte e.fields.farFirstLane, e.fields.allowed,
       byte ((if e.fields.reversal then 2 else 0) + (if e.fields.inversion then 1 else 0)),
       byte (e.fields.lengthMin / 256), byte (e.fields.lengthMin % 256),
       byte (e.fields.lengthMax / 256), byte (e.fields.lengthMax % 256),
       byte e.fields.skewLimit, byte e.fields.profile.val, byte e.fields.retry]
    let written : WrittenEntry :=
      { enabled := at8 r.args 1 != 0, width := at8 r.args 2, farChassis := 256 * at8 r.args 3 + at8 r.args 4
        farUnit := at8 r.args 5, farPort := at8 r.args 6, farFirstLane := at8 r.args 7, allowed := r.args.getD 8 0
        reversal := (r.args.getD 9 0).getLsbD 1, inversion := (r.args.getD 9 0).getLsbD 0
        lengthMin := 256 * at8 r.args 10 + at8 r.args 11, lengthMax := 256 * at8 r.args 12 + at8 r.args 13
        skewLimit := at8 r.args 14, profile := at8 r.args 15, retry := at8 r.args 16 }
    let checked := validateEntry s.cpt.plan g written
    let stored := fun e : PlanEntry => { s with cpt := { s.cpt with plan := Tab.set s.cpt.plan g e } }
    let answer := fun (t : State) (e : PlanEntry) => t.respond r { status := .ok, detail := .none, result := shown g e }
    (∀ d, checked = .error d → exec .writePlanEntry s = .next
      (s.respond r { status := .badArgument, detail := d, result := shown g (s.entry g) }))
    ∧ (∀ e, checked = .ok e → e = s.entry g → exec .writePlanEntry s = .next (answer s e))
    ∧ (∀ e, checked = .ok e → (s.entry g).enabled = false → e.enabled = false →
      exec .writePlanEntry s = .next (answer (stored e) e))
    ∧ (∀ e, checked = .ok e → (s.entry g).enabled = true → e.enabled = true → e ≠ s.entry g →
      exec .writePlanEntry s = .next (answer ((stored e).modCtx g fun c => { c with stale := true }) e))

/-- An enabling plan write stores the entry, recomputes the port's unplanned field, binds the entry in its context and takes
it through WAITING and the start test (R26, R38, R47, R58). It posts the port notice if the unplanned field has changed, and
then the group notice (R48, R57, log 9). Arguments and answer have the 17 bytes of the form of 10.5 (R187); that byte 1 of
the entry in the answer is 1, and that the bits of byte 9 which a write ignores are 0 there, is the model's choice (log 30).
-/
def Obligations.EnablingWriteStartsTheContext : Prop :=
  ∀ (s : State) (r : ControlRequest) (g : Index) (e : PlanEntry), s.inReset = false → earliestWaiting s.mga.queue = some r →
    r.code = 16 → r.args.length = 17 → at8 r.args 0 = g.val →
    let shown := fun (g : Index) (e : PlanEntry) =>
      [byte g.val, (if e.enabled then 1 else 0), byte e.fields.width.lanes,
       byte (e.fields.farChassis / 256), byte (e.fields.farChassis % 256), byte e.fields.farUnit, byte e.fields.farPort,
       byte e.fields.farFirstLane, e.fields.allowed,
       byte ((if e.fields.reversal then 2 else 0) + (if e.fields.inversion then 1 else 0)),
       byte (e.fields.lengthMin / 256), byte (e.fields.lengthMin % 256),
       byte (e.fields.lengthMax / 256), byte (e.fields.lengthMax % 256),
       byte e.fields.skewLimit, byte e.fields.profile.val, byte e.fields.retry]
    let written : WrittenEntry :=
      { enabled := at8 r.args 1 != 0, width := at8 r.args 2, farChassis := 256 * at8 r.args 3 + at8 r.args 4
        farUnit := at8 r.args 5, farPort := at8 r.args 6, farFirstLane := at8 r.args 7, allowed := r.args.getD 8 0
        reversal := (r.args.getD 9 0).getLsbD 1, inversion := (r.args.getD 9 0).getLsbD 0
        lengthMin := 256 * at8 r.args 10 + at8 r.args 11, lengthMax := 256 * at8 r.args 12 + at8 r.args 13
        skewLimit := at8 r.args 14, profile := at8 r.args 15, retry := at8 r.args 16 }
    validateEntry s.cpt.plan g written = .ok e → (s.entry g).enabled = false → e.enabled = true →
    ∃ u, exec .writePlanEntry s = .next (u.respond r { status := .ok, detail := .none, result := shown g e })
      ∧ u.cpt = { s.cpt with plan := Tab.set s.cpt.plan g e }
      ∧ (u.ctx g).bound = some e.fields ∧ (u.ctx g).stale = false
      ∧ (match startTest s g with
        | some w => Waits u g w
        | none =>
          if (List.range e.fields.width.lanes).all fun i => (Tab.get s.buc.lockView (laneAt g i)).locked then
            StartsDiscovery u g s.mga.settings.discoveryRounds
          else InState u g .acquiring .none none
            ∧ (u.ctx g).timer = some { kind := .lock, remaining := 1000000 * s.mga.settings.lockTimeout })
      ∧ (∀ h, h ≠ g → u.ctx h = s.ctx h ∧ u.path h = s.path h)
      ∧ (∀ p, p ≠ portOf g → Tab.get u.ciu.records p = Tab.get s.ciu.records p)
      ∧ Tab.get u.ciu.records (portOf g)
          = { s.record g with
              unplanned := (s.record g).present && decide (∃ j : Fin 4, covering u.cpt.plan (cell (portOf g) j) = none) }
      ∧ u.notices
          = groupNoticed s u (if u.record g = s.record g then s.notices else portNoticed s u s.notices (portOf g)) g
      ∧ ReceiveKept s u ∧ u.mga = s.mga ∧ u.sws = s.sws ∧ u.psc.now = s.psc.now

/-- A disabling plan write stores the entry and takes its context to UNPLANNED from every state: gate closed, map and
compensations returned, probe work abandoned, record, count, origin, binding and timers cleared (R27, R38). It posts the port
notice if the unplanned field has changed, and then the group notice (R47, R48, R57, log 9). Arguments and answer have the 17
bytes of the form of 10.5 (R187); that the bits of byte 9 which a write ignores are 0 in the answer is the model's choice (log
30). -/
def Obligations.DisablingWriteEndsTheContext : Prop :=
  ∀ (s : State) (r : ControlRequest) (g : Index) (e : PlanEntry), s.inReset = false → earliestWaiting s.mga.queue = some r →
    r.code = 16 → r.args.length = 17 → at8 r.args 0 = g.val →
    let shown := fun (g : Index) (e : PlanEntry) =>
      [byte g.val, (if e.enabled then 1 else 0), byte e.fields.width.lanes,
       byte (e.fields.farChassis / 256), byte (e.fields.farChassis % 256), byte e.fields.farUnit, byte e.fields.farPort,
       byte e.fields.farFirstLane, e.fields.allowed,
       byte ((if e.fields.reversal then 2 else 0) + (if e.fields.inversion then 1 else 0)),
       byte (e.fields.lengthMin / 256), byte (e.fields.lengthMin % 256),
       byte (e.fields.lengthMax / 256), byte (e.fields.lengthMax % 256),
       byte e.fields.skewLimit, byte e.fields.profile.val, byte e.fields.retry]
    let written : WrittenEntry :=
      { enabled := at8 r.args 1 != 0, width := at8 r.args 2, farChassis := 256 * at8 r.args 3 + at8 r.args 4
        farUnit := at8 r.args 5, farPort := at8 r.args 6, farFirstLane := at8 r.args 7, allowed := r.args.getD 8 0
        reversal := (r.args.getD 9 0).getLsbD 1, inversion := (r.args.getD 9 0).getLsbD 0
        lengthMin := 256 * at8 r.args 10 + at8 r.args 11, lengthMax := 256 * at8 r.args 12 + at8 r.args 13
        skewLimit := at8 r.args 14, profile := at8 r.args 15, retry := at8 r.args 16 }
    validateEntry s.cpt.plan g written = .ok e → (s.entry g).enabled = true → e.enabled = false →
    ∃ u, exec .writePlanEntry s = .next (u.respond r { status := .ok, detail := .none, result := shown g e })
      ∧ u.cpt = { s.cpt with plan := Tab.set s.cpt.plan g e }
      ∧ u.ctx g = Context.reset
      ∧ (u.path g).gate = .closed ∧ (u.path g).profile = (s.path g).profile ∧ (u.path g).map = .straight
      ∧ (u.path g).comps = Tab.fill 0 ∧ NoProbeWork u g
      ∧ (∀ side l f, f.group = g → TxFrame.data f ∉ (Tab.get (u.tx side) l).content)
      ∧ (∀ h, h ≠ g → u.ctx h = s.ctx h ∧ u.path h = s.path h)
      ∧ (∀ p, p ≠ portOf g → Tab.get u.ciu.records p = Tab.get s.ciu.records p)
      ∧ Tab.get u.ciu.records (portOf g)
          = { s.record g with
              unplanned := (s.record g).present && decide (∃ j : Fin 4, covering u.cpt.plan (cell (portOf g) j) = none) }
      ∧ u.notices
          = groupNoticed s u (if u.record g = s.record g then s.notices else portNoticed s u s.notices (portOf g)) g
      ∧ ReceiveKept s u ∧ u.mga = s.mga ∧ u.sws = s.sws ∧ u.psc.now = s.psc.now

/-- SET IDENTITY: a chassis above 4094 or a unit above 14 is refused and changes nothing; otherwise the identity is stored,
and when it differs from the one in force every running context goes to ACQUIRING or on to DISCOVERING, a WAITING one
re-applies the start test, and HELD and UNPLANNED ones stay, gate and all (R81, R186); every binding is kept (R81); the notices
of the changed groups are posted in index order (R57). That the refusal carries no result is the model's choice (log 22). -/
def Obligations.SetIdentityStoresAndRestarts : Prop :=
  ∀ (s : State) (r : ControlRequest) (a b : Byte), s.inReset = false → earliestWaiting s.mga.queue = some r → r.code = 2 →
    r.args = [a, b] →
    let chassis := (256 * a.toNat + b.toNat) / 16
    let unit := (256 * a.toNat + b.toNat) % 16
    let id : Identity := { chassis := chassis, unit := unit, assigned := true }
    (4094 < chassis ∨ 14 < unit →
      exec .setIdentity s = .next (s.respond r { status := .badArgument, detail := .identity, result := [] }))
    ∧ (chassis ≤ 4094 → unit ≤ 14 →
      ∃ u, exec .setIdentity s = .next (u.respond r
          { status := .ok, detail := .none, result := bytes16 (16 * chassis + unit) ++ [1, 1] })
        ∧ u.mga = { s.mga with identity := id }
        ∧ u.cpt = s.cpt ∧ u.ciu = s.ciu ∧ u.sws = s.sws ∧ ReceiveKept s u
        ∧ u.notices = indices.foldl (groupNoticed s u) s.notices
        ∧ ((chassis, unit) = (s.mga.identity.chassis, s.mga.identity.unit) → u.buc = s.buc ∧ u.notices = s.notices)
        ∧ (∀ g, (u.ctx g).bound = (s.ctx g).bound ∧ (u.ctx g).stale = (s.ctx g).stale)
        ∧ ((chassis, unit) ≠ (s.mga.identity.chassis, s.mga.identity.unit) → ∀ g,
          match (s.ctx g).state with
          | .acquiring | .discovering | .agreeing | .verified | .degraded | .quarantined | .lost => AcquiresOrDiscovers s u g
          | .waiting =>
            if (s.record g).present = false then (u.ctx g).state = .waiting ∧ (u.ctx g).reason = .cableAbsent
            else if (s.record g).ready = false then (u.ctx g).state = .waiting ∧ (u.ctx g).reason = .noReady
            else AcquiresOrDiscovers s u g
          | .held | .unplanned => u.ctx g = s.ctx g ∧ u.path g = s.path g))

/-- GROUP ACTION HOLD and RESUME on one group, by its state: HOLD gives a local hold in every state but UNPLANNED and WAITING,
RESUME releases a local hold through the start test, and what is not applicable changes nothing (R74, R76, R191). The group
notice is posted where state, reason or hold origin have changed (R57). -/
def Obligations.HoldAndResumeOneGroup : Prop :=
  ∀ (s : State) (r : ControlRequest) (a b : Byte) (g : Index), s.inReset = false → LanesSettled s → GrantsSettled s →
    earliestWaiting s.mga.queue = some r → r.code = 64 → r.args = [a, b] → a.toNat = g.val →
    (b.getLsbD 2 = true →
      (((s.ctx g).state = .unplanned ∨ (s.ctx g).state = .waiting) → exec .groupActionHold s = .next
        (s.respond r { status := .notApplicable, detail := .none, result := [2, 0] }))
      ∧ ((s.ctx g).state = .held → ∃ u, exec .groupActionHold s = .next
          (u.respond r { status := .ok, detail := .none, result := [2, 1] })
        ∧ u.ctx g = { s.ctx g with reason := .holdLocal, origin := some .localHold } ∧ u.psc = s.psc ∧ OthersKept g s u
        ∧ u.notices = groupNoticed s u s.notices g ∧ BlocksKept s u ∧ ReceiveKept s u)
      ∧ ((s.ctx g).state ≠ .unplanned → (s.ctx g).state ≠ .waiting → (s.ctx g).state ≠ .held →
        ∃ u, exec .groupActionHold s = .next (u.respond r { status := .ok, detail := .none, result := [2, 1] })
          ∧ Held s u g .holdLocal .localHold ∧ u.notices = groupNoticed s u s.notices g ∧ OthersKept g s u ∧ BlocksKept s u
          ∧ ReceiveKept s u))
    ∧ (b.getLsbD 2 = false → b.getLsbD 1 = true →
      ((s.ctx g).state = .held → (s.ctx g).origin = some .localHold →
        ∃ u, exec .groupActionResume s = .next (u.respond r { status := .ok, detail := .none, result := [1, 1] })
          ∧ StartTested s u g ∧ (u.ctx g).bound = (s.ctx g).bound ∧ u.notices = groupNoticed s u s.notices g
          ∧ OthersKept g s u ∧ BlocksKept s u ∧ ReceiveKept s u)
      ∧ (¬((s.ctx g).state = .held ∧ (s.ctx g).origin = some .localHold) → exec .groupActionResume s = .next
        (s.respond r { status := .notApplicable, detail := .none, result := [1, 0] })))

/-- GROUP ACTION RECHECK on one group, by its state: for an AGREEING, VERIFIED, DEGRADED or HELD group an URGENT request of one
round joins behind all others where the queue holds none for the group, and otherwise a ROUTINE request of the group becomes
URGENT in its place, in flight or not, and a BURST or URGENT one is left as it is; a retry for a QUARANTINED group;
NOT_APPLICABLE and no change in the other states (R79, R110, R172). -/
def Obligations.RecheckOneGroup : Prop :=
  ∀ (s : State) (r : ControlRequest) (a b : Byte) (g : Index), s.inReset = false → LanesSettled s → GrantsSettled s →
    SchedulerConsistent s → earliestWaiting s.mga.queue = some r → r.code = 64 → r.args = [a, b] → a.toNat = g.val →
    b.extractLsb' 0 3 = 1 →
    let upgraded := fun q : ProbeRequest => if q.group = g ∧ q.kind = .routine then RequestKind.urgent else q.kind
    let terms := fun (kind : ProbeRequest → RequestKind) (q : ProbeRequest) => (q.group, kind q, q.rounds)
    ((passedVerdict (s.ctx g).state ∨ (s.ctx g).state = .held) →
      ∃ u, exec .groupActionRecheck s = .next (u.respond r { status := .ok, detail := .none, result := [0, 1] })
        ∧ u.buc = s.buc
        ∧ (hasRequest s.psc.queue g = false →
          u.psc.queue.map (terms ProbeRequest.kind) = s.psc.queue.map (terms ProbeRequest.kind) ++ [(g, .urgent, 1)])
        ∧ (hasRequest s.psc.queue g = true →
          u.psc.queue.map (terms ProbeRequest.kind) = s.psc.queue.map (terms upgraded))
        ∧ (∀ q ∈ s.psc.queue, q.inFlight = true → { q with kind := upgraded q } ∈ u.psc.queue)
        ∧ OthersKept g s u ∧ BlocksKept s u ∧ ReceiveKept s u)
    ∧ ((s.ctx g).state = .quarantined →
      ∃ u, exec .groupActionRecheck s = .next (u.respond r { status := .ok, detail := .none, result := [0, 1] })
        ∧ StartTested s u g ∧ (u.ctx g).bound = (s.ctx g).bound ∧ u.notices = groupNoticed s u s.notices g
        ∧ OthersKept g s u ∧ BlocksKept s u ∧ ReceiveKept s u)
    ∧ (((s.ctx g).state = .unplanned ∨ (s.ctx g).state = .waiting ∨ (s.ctx g).state = .acquiring
        ∨ (s.ctx g).state = .discovering ∨ (s.ctx g).state = .lost) →
      exec .groupActionRecheck s = .next (s.respond r { status := .notApplicable, detail := .none, result := [0, 0] }))

/-- GROUP ACTION on index 64 carries out HOLD, RESUME or RECHECK for every planned group it applies to, passes the others over,
posts the notices of the changed groups in index order, and answers OK with the number of groups it was carried out for (R74,
R76, R79, R172, R191, R57). An index above 64 is refused with INDEX, an action byte with none of the three bits with ACTION;
that each of the three rows answers such a request (log 8) and that the refusal with ACTION carries no result (log 22) are the
model's readings. -/
def Obligations.GroupActionOnEveryGroupOrRefused : Prop :=
  ∀ (s : State) (r : ControlRequest) (a b : Byte), s.inReset = false → earliestWaiting s.mga.queue = some r → r.code = 64 →
    r.args = [a, b] →
    let planned := fun g : Index => (s.entry g).enabled = true
    let holds := fun g : Index => planned g ∧ (s.ctx g).state ≠ .unplanned ∧ (s.ctx g).state ≠ .waiting
    let resumes := fun g : Index => planned g ∧ (s.ctx g).state = .held ∧ (s.ctx g).origin = some .localHold
    let rechecks := fun g : Index => planned g ∧ (passedVerdict (s.ctx g).state ∨ (s.ctx g).state = .held)
    let retries := fun g : Index => planned g ∧ (s.ctx g).state = .quarantined
    let counts := fun (n : Nat) (takes : Index → Prop) =>
      ∃ taken : List Index, taken.Nodup ∧ (∀ g, g ∈ taken ↔ takes g) ∧ n = taken.length
    let acts := fun (c : Instr) (code : Byte) (takes : Index → Prop) (does : State → Prop) =>
      ∃ u n, exec c s = .next (u.respond r { status := .ok, detail := .none, result := [code, byte n] }) ∧ counts n takes
        ∧ does u ∧ (∀ g, ¬takes g → u.ctx g = s.ctx g ∧ u.path g = s.path g)
        ∧ u.notices = indices.foldl (groupNoticed s u) s.notices ∧ BlocksKept s u ∧ ReceiveKept s u
    (a.toNat = 64 →
      (b.getLsbD 2 = true → acts .groupActionHold 2 holds fun u => ∀ g, holds g →
        (u.ctx g).state = .held ∧ (u.ctx g).reason = .holdLocal ∧ (u.ctx g).origin = some .localHold
          ∧ (u.ctx g).record = (s.ctx g).record)
      ∧ (b.getLsbD 2 = false → b.getLsbD 1 = true → acts .groupActionResume 1 resumes fun u => ∀ g, resumes g →
        StartTested s u g ∧ (u.ctx g).bound = (s.ctx g).bound)
      ∧ (b.extractLsb' 0 3 = 1 → acts .groupActionRecheck 0 (fun g => rechecks g ∨ retries g) fun u =>
        (∀ g, retries g → StartTested s u g ∧ (u.ctx g).bound = (s.ctx g).bound)
        ∧ (∀ g, rechecks g → u.ctx g = s.ctx g ∧ u.path g = s.path g
          ∧ (hasRequest s.psc.queue g = false → ∃ q ∈ u.psc.queue, q.group = g ∧ q.kind = .urgent ∧ q.rounds = 1)
          ∧ ∀ q ∈ s.psc.queue, q.group = g → ∃ q' ∈ u.psc.queue, q'.group = g ∧ q'.rounds = q.rounds
            ∧ q'.kind = if q.kind = .routine then .urgent else q.kind)))
    ∧ ∀ c ∈ [Instr.groupActionHold, .groupActionResume, .groupActionRecheck],
      let chosen := c = .groupActionHold ∧ b.getLsbD 2 = true
        ∨ c = .groupActionResume ∧ b.getLsbD 2 = false ∧ b.getLsbD 1 = true
        ∨ c = .groupActionRecheck ∧ b.extractLsb' 0 3 = 1
        ∨ b.extractLsb' 0 3 = 0
      (64 < a.toNat → chosen →
        exec c s = .next (s.respond r { status := .badArgument, detail := .index, result := [] }))
      ∧ (a.toNat ≤ 64 → b.extractLsb' 0 3 = 0 →
        exec c s = .next (s.respond r { status := .badArgument, detail := .action, result := [] }))

/-- SWEEP CONTROL: its read form changes nothing; a mode code above 2 is refused; else the mode is stored, position and flag
are reset, the remaining count is set and the timer stopped or restarted (R170, R192). That the refusal carries no result is
the model's choice (log 22). -/
def Obligations.SweepControlSetsTheScheduler : Prop :=
  ∀ (s : State) (r : ControlRequest), s.inReset = false → earliestWaiting s.mga.queue = some r → r.code = 80 →
    let shown := fun w : Sws => [byte w.mode.code, byte w.remaining, byte w.position.val, byte (bit w.flag)]
    (r.args = [] → exec .sweepControl s = .next (s.respond r { status := .ok, detail := .none, result := shown s.sws }))
    ∧ ∀ a b : Byte, r.args = [a, b] →
      (2 < a.toNat → exec .sweepControl s = .next (s.respond r { status := .badArgument, detail := .mode, result := [] }))
      ∧ ∀ m : SweepMode, a.toNat = m.code →
        let w : Sws :=
          { mode := m, remaining := if m = .single then max 1 b.toNat else 0, position := 0, completed := s.sws.completed,
            flag := false, timer := if m = .off then none else some (1000 * s.mga.settings.sweepInterval) }
        exec .sweepControl s = .next (({ s with sws := w }).respond r { status := .ok, detail := .none, result := shown w })

/-- A posting rewrites the notice pending for its subject in place and marks it coalesced, or places a notice at the tail; no
other notice changes (R193). READ NOTICES removes the oldest notices from the head of the queue, up to eight, and returns them
in their order, nine bytes each (R194). That the kind bit is 0 for GROUP and 1 for PORT is the model's reading (log 24); that
bits 7-2 of the byte with the kind are 0 (log 35), and bit 0 and bits 7-2 of the two bytes of a port's record (log 34), is the
model's choice. -/
def Obligations.NoticeQueueKeepsOnePerSubject : Prop :=
  (∀ (q : List Notice) (subject : Nat) (content : NoticeContent) (time : Time),
    ((∀ n ∈ q, n.subject ≠ subject) → postNotice q subject content time
      = q ++ [{ subject := subject, content := content, time := time, coalesced := false }])
    ∧ ∀ pre n post, q = pre ++ n :: post → (∀ x ∈ pre, x.subject ≠ subject) → n.subject = subject →
      postNotice q subject content time
        = pre ++ { subject := subject, content := content, time := time, coalesced := true } :: post)
  ∧ ∀ (s : State) (r : ControlRequest), s.inReset = false → earliestWaiting s.mga.queue = some r → r.code = 50 → r.args = [] →
    let coalesced := fun n : Notice => if n.coalesced then 1 else 0
    let nine := fun n : Notice =>
      (match n.content with
        | .group st reason origin =>
          [byte n.subject, byte (coalesced n), byte st.code, byte reason.code,
           byte (match origin with
             | none => 0
             | some .localHold => 1
             | some .remoteHold => 2)]
        | .port x =>
          [byte n.subject, byte (2 + coalesced n),
           byte ((if x.present then 128 else 0) + 16 * x.cls.val
             + 4 * (match x.shape with
               | .whole => 0
               | .pair => 1
               | .quad => 2)
             + (if x.ready then 2 else 0)),
           byte ((if x.fault then 2 else 0) + (if x.unplanned then 1 else 0)), 0])
      ++ bytes32 n.time.toNat
    exec .readNotices s = .next
      (({ s with notices := s.notices.drop 8 }).respond r
        { status := .ok, detail := .none, result := byte (min 8 s.notices.length) :: (s.notices.take 8).flatMap nine })

/-! ## Invariants -/

/-- The state after reset satisfies every invariant below. -/
def Obligations.ResetStateIsValid : Prop :=
  TablesValid State.reset ∧ QueuesValid State.reset ∧ ContextsValid State.reset ∧ OpenRecordsConsistent State.reset
    ∧ RecordsInRange State.reset ∧ SchedulerConsistent State.reset ∧ LanesDistinct State.reset ∧ LanesSettled State.reset
    ∧ GrantsSettled State.reset ∧ ClosedGatesIdle State.reset

/-- Every step keeps the stored tables, settings and identity, and the queues and marks, within what their rules allow; among
them, that a port change event which waits tells what the record of its port shows (R49). -/
def Obligations.TablesAndQueuesStayValid : Prop :=
  (∀ s t : State, TablesValid s → step s = .next t → TablesValid t)
    ∧ ∀ s t : State, QueuesValid s → step s = .next t → QueuesValid t

/-- Every step keeps each context in agreement with its gate, its plan entry and the identity: the gate of a VERIFIED context
is OPEN_VERIFIED, that of a DEGRADED one OPEN_DEGRADED, and that of every other CLOSED (R13, R55). And every step keeps that a
group whose gate is CLOSED has no data frame under way: what closes a gate cuts them, and nothing else brings one there (R14,
R15). That this goes for a control frame which waits for its target fields too is the model's reading (log 11). -/
def Obligations.ContextsStayValid : Prop :=
  (∀ s t : State, ContextsValid s → step s = .next t →
    ContextsValid t
      ∧ ∀ g, (t.path g).gate = match (t.ctx g).state with
        | .verified => .openVerified
        | .degraded => .openDegraded
        | .unplanned | .waiting | .acquiring | .discovering | .agreeing | .quarantined | .held | .lost => .closed)
  ∧ ∀ s t : State, ClosedGatesIdle s → step s = .next t → ClosedGatesIdle t

/-- Every step keeps R147, the record of an agreeing or open group whole and its map and compensations those in force; and
every step keeps every item of every record in its range. -/
def Obligations.RecordsStayConsistent : Prop :=
  (∀ s t : State, OpenRecordsConsistent s → step s = .next t → OpenRecordsConsistent t)
    ∧ ∀ s t : State, RecordsInRange s → step s = .next t → RecordsInRange t

/-- Every step keeps the probe scheduler's queue and slots in agreement, while the settings are in their ranges; and it keeps
requests for enabled entries alone, and the outstanding probes on distinct transmit lanes of enabled entries (R117). -/
def Obligations.SchedulerStaysConsistent : Prop :=
  (∀ s t : State, TablesValid s → SchedulerConsistent s → step s = .next t → SchedulerConsistent t)
    ∧ ∀ s t : State, TablesValid s → ContextsValid s → SchedulerConsistent s → LanesDistinct s → step s = .next t →
      LanesDistinct t

/-- Every step leaves the arbiters settled: the slots do not suffice for the candidate, if there is one (R112 to R115), and no
lane is free while a data frame waits for it alone (R5). That a context without a bound copy counts as width 1 is the model's
choice (log 18). -/
def Obligations.ArbitersStaySettled : Prop :=
  ∀ s t : State, LanesSettled s → GrantsSettled s → step s = .next t →
    LanesSettled t ∧ GrantsSettled t ∧ ∀ c, IsCandidate t.psc c → ¬SlotsSuffice (boundWidth t) t.psc c

end
end

