-- ==== Sys2Proof/Decode.lean ====
section
/-! DEFINITION. Decoding by the table's bits. spec/opcode_table.json gives no row any bits (98_reader.md: n_rows_with_fixed 0),
so no word spells a command. Frame and argument layouts are in Machine/Operands.lean. -/

namespace Sys2Proof

/-- The command a word spells by the table's bits: none, since no row of the table has bits. -/
def decodeTableWord (_nbits _w : Nat) : Option Instr := none

end Sys2Proof
end

