-- ==== Sys2Proof/Laws/State.lean ====
section
/-! SUPPORT. One lemma for each field and each single update of the state, and what the composite updates read back. -/

namespace Sys2Proof.Machine

variable (s : State)

/-! ## modCtx -/

@[simp] theorem inReset_modCtx (g : Index) (f : Context → Context) : (s.modCtx g f).inReset = s.inReset := rfl
@[simp] theorem lfr_modCtx (g : Index) (f : Context → Context) : (s.modCtx g f).lfr = s.lfr := rfl
@[simp] theorem fsu_modCtx (g : Index) (f : Context → Context) : (s.modCtx g f).fsu = s.fsu := rfl
@[simp] theorem cpt_modCtx (g : Index) (f : Context → Context) : (s.modCtx g f).cpt = s.cpt := rfl
@[simp] theorem ciu_modCtx (g : Index) (f : Context → Context) : (s.modCtx g f).ciu = s.ciu := rfl
@[simp] theorem buc_lockView_modCtx (g : Index) (f : Context → Context) : (s.modCtx g f).buc.lockView = s.buc.lockView := rfl
@[simp] theorem psc_modCtx (g : Index) (f : Context → Context) : (s.modCtx g f).psc = s.psc := rfl
@[simp] theorem ers_modCtx (g : Index) (f : Context → Context) : (s.modCtx g f).ers = s.ers := rfl
@[simp] theorem sws_modCtx (g : Index) (f : Context → Context) : (s.modCtx g f).sws = s.sws := rfl
@[simp] theorem mga_modCtx (g : Index) (f : Context → Context) : (s.modCtx g f).mga = s.mga := rfl
@[simp] theorem notices_modCtx (g : Index) (f : Context → Context) : (s.modCtx g f).notices = s.notices := rfl
@[simp] theorem turn_modCtx (g : Index) (f : Context → Context) : (s.modCtx g f).turn = s.turn := rfl
@[simp] theorem pending_modCtx (g : Index) (f : Context → Context) : (s.modCtx g f).pending = s.pending := rfl
@[simp] theorem path_modCtx (g : Index) (f : Context → Context) (h : Index) : (s.modCtx g f).path h = s.path h := rfl
@[simp] theorem entry_modCtx (g : Index) (f : Context → Context) (h : Index) : (s.modCtx g f).entry h = s.entry h := rfl
@[simp] theorem record_modCtx (g : Index) (f : Context → Context) (h : Index) : (s.modCtx g f).record h = s.record h := rfl

/-! ## modPath -/

@[simp] theorem inReset_modPath (g : Index) (f : GroupPath → GroupPath) : (s.modPath g f).inReset = s.inReset := rfl
@[simp] theorem lfr_modPath (g : Index) (f : GroupPath → GroupPath) : (s.modPath g f).lfr = s.lfr := rfl
@[simp] theorem fsu_classTable_modPath (g : Index) (f : GroupPath → GroupPath) : (s.modPath g f).fsu.classTable = s.fsu.classTable := rfl
@[simp] theorem fsu_malformed_modPath (g : Index) (f : GroupPath → GroupPath) : (s.modPath g f).fsu.malformed = s.fsu.malformed := rfl
@[simp] theorem fsu_systemRx_modPath (g : Index) (f : GroupPath → GroupPath) : (s.modPath g f).fsu.systemRx = s.fsu.systemRx := rfl
@[simp] theorem fsu_lineRx_modPath (g : Index) (f : GroupPath → GroupPath) : (s.modPath g f).fsu.lineRx = s.fsu.lineRx := rfl
@[simp] theorem fsu_holds_modPath (g : Index) (f : GroupPath → GroupPath) : (s.modPath g f).fsu.holds = s.fsu.holds := rfl
@[simp] theorem fsu_lineTx_modPath (g : Index) (f : GroupPath → GroupPath) : (s.modPath g f).fsu.lineTx = s.fsu.lineTx := rfl
@[simp] theorem fsu_systemTx_modPath (g : Index) (f : GroupPath → GroupPath) : (s.modPath g f).fsu.systemTx = s.fsu.systemTx := rfl
@[simp] theorem cpt_modPath (g : Index) (f : GroupPath → GroupPath) : (s.modPath g f).cpt = s.cpt := rfl
@[simp] theorem ciu_modPath (g : Index) (f : GroupPath → GroupPath) : (s.modPath g f).ciu = s.ciu := rfl
@[simp] theorem buc_modPath (g : Index) (f : GroupPath → GroupPath) : (s.modPath g f).buc = s.buc := rfl
@[simp] theorem psc_modPath (g : Index) (f : GroupPath → GroupPath) : (s.modPath g f).psc = s.psc := rfl
@[simp] theorem ers_modPath (g : Index) (f : GroupPath → GroupPath) : (s.modPath g f).ers = s.ers := rfl
@[simp] theorem sws_modPath (g : Index) (f : GroupPath → GroupPath) : (s.modPath g f).sws = s.sws := rfl
@[simp] theorem mga_modPath (g : Index) (f : GroupPath → GroupPath) : (s.modPath g f).mga = s.mga := rfl
@[simp] theorem notices_modPath (g : Index) (f : GroupPath → GroupPath) : (s.modPath g f).notices = s.notices := rfl
@[simp] theorem turn_modPath (g : Index) (f : GroupPath → GroupPath) : (s.modPath g f).turn = s.turn := rfl
@[simp] theorem pending_modPath (g : Index) (f : GroupPath → GroupPath) : (s.modPath g f).pending = s.pending := rfl
@[simp] theorem ctx_modPath (g : Index) (f : GroupPath → GroupPath) (h : Index) : (s.modPath g f).ctx h = s.ctx h := rfl
@[simp] theorem entry_modPath (g : Index) (f : GroupPath → GroupPath) (h : Index) : (s.modPath g f).entry h = s.entry h := rfl
@[simp] theorem record_modPath (g : Index) (f : GroupPath → GroupPath) (h : Index) : (s.modPath g f).record h = s.record h := rfl

/-! ## countMalformed -/

@[simp] theorem inReset_countMalformed : (s.countMalformed).inReset = s.inReset := rfl
@[simp] theorem lfr_countMalformed : (s.countMalformed).lfr = s.lfr := rfl
@[simp] theorem fsu_classTable_countMalformed : (s.countMalformed).fsu.classTable = s.fsu.classTable := rfl
@[simp] theorem fsu_paths_countMalformed : (s.countMalformed).fsu.paths = s.fsu.paths := rfl
@[simp] theorem fsu_systemRx_countMalformed : (s.countMalformed).fsu.systemRx = s.fsu.systemRx := rfl
@[simp] theorem fsu_lineRx_countMalformed : (s.countMalformed).fsu.lineRx = s.fsu.lineRx := rfl
@[simp] theorem fsu_holds_countMalformed : (s.countMalformed).fsu.holds = s.fsu.holds := rfl
@[simp] theorem fsu_lineTx_countMalformed : (s.countMalformed).fsu.lineTx = s.fsu.lineTx := rfl
@[simp] theorem fsu_systemTx_countMalformed : (s.countMalformed).fsu.systemTx = s.fsu.systemTx := rfl
@[simp] theorem cpt_countMalformed : (s.countMalformed).cpt = s.cpt := rfl
@[simp] theorem ciu_countMalformed : (s.countMalformed).ciu = s.ciu := rfl
@[simp] theorem buc_countMalformed : (s.countMalformed).buc = s.buc := rfl
@[simp] theorem psc_countMalformed : (s.countMalformed).psc = s.psc := rfl
@[simp] theorem ers_countMalformed : (s.countMalformed).ers = s.ers := rfl
@[simp] theorem sws_countMalformed : (s.countMalformed).sws = s.sws := rfl
@[simp] theorem mga_countMalformed : (s.countMalformed).mga = s.mga := rfl
@[simp] theorem notices_countMalformed : (s.countMalformed).notices = s.notices := rfl
@[simp] theorem turn_countMalformed : (s.countMalformed).turn = s.turn := rfl
@[simp] theorem pending_countMalformed : (s.countMalformed).pending = s.pending := rfl
@[simp] theorem ctx_countMalformed (h : Index) : (s.countMalformed).ctx h = s.ctx h := rfl
@[simp] theorem path_countMalformed (h : Index) : (s.countMalformed).path h = s.path h := rfl
@[simp] theorem entry_countMalformed (h : Index) : (s.countMalformed).entry h = s.entry h := rfl
@[simp] theorem record_countMalformed (h : Index) : (s.countMalformed).record h = s.record h := rfl

/-! ## countFenced -/

@[simp] theorem inReset_countFenced (g : Index) (n : Nat) : (s.countFenced g n).inReset = s.inReset := rfl
@[simp] theorem lfr_countFenced (g : Index) (n : Nat) : (s.countFenced g n).lfr = s.lfr := rfl
@[simp] theorem fsu_classTable_countFenced (g : Index) (n : Nat) : (s.countFenced g n).fsu.classTable = s.fsu.classTable := rfl
@[simp] theorem fsu_malformed_countFenced (g : Index) (n : Nat) : (s.countFenced g n).fsu.malformed = s.fsu.malformed := rfl
@[simp] theorem fsu_systemRx_countFenced (g : Index) (n : Nat) : (s.countFenced g n).fsu.systemRx = s.fsu.systemRx := rfl
@[simp] theorem fsu_lineRx_countFenced (g : Index) (n : Nat) : (s.countFenced g n).fsu.lineRx = s.fsu.lineRx := rfl
@[simp] theorem fsu_holds_countFenced (g : Index) (n : Nat) : (s.countFenced g n).fsu.holds = s.fsu.holds := rfl
@[simp] theorem fsu_lineTx_countFenced (g : Index) (n : Nat) : (s.countFenced g n).fsu.lineTx = s.fsu.lineTx := rfl
@[simp] theorem fsu_systemTx_countFenced (g : Index) (n : Nat) : (s.countFenced g n).fsu.systemTx = s.fsu.systemTx := rfl
@[simp] theorem cpt_countFenced (g : Index) (n : Nat) : (s.countFenced g n).cpt = s.cpt := rfl
@[simp] theorem ciu_countFenced (g : Index) (n : Nat) : (s.countFenced g n).ciu = s.ciu := rfl
@[simp] theorem buc_countFenced (g : Index) (n : Nat) : (s.countFenced g n).buc = s.buc := rfl
@[simp] theorem psc_countFenced (g : Index) (n : Nat) : (s.countFenced g n).psc = s.psc := rfl
@[simp] theorem ers_countFenced (g : Index) (n : Nat) : (s.countFenced g n).ers = s.ers := rfl
@[simp] theorem sws_countFenced (g : Index) (n : Nat) : (s.countFenced g n).sws = s.sws := rfl
@[simp] theorem mga_countFenced (g : Index) (n : Nat) : (s.countFenced g n).mga = s.mga := rfl
@[simp] theorem notices_countFenced (g : Index) (n : Nat) : (s.countFenced g n).notices = s.notices := rfl
@[simp] theorem turn_countFenced (g : Index) (n : Nat) : (s.countFenced g n).turn = s.turn := rfl
@[simp] theorem pending_countFenced (g : Index) (n : Nat) : (s.countFenced g n).pending = s.pending := rfl
@[simp] theorem ctx_countFenced (g : Index) (n : Nat) (h : Index) : (s.countFenced g n).ctx h = s.ctx h := rfl
@[simp] theorem entry_countFenced (g : Index) (n : Nat) (h : Index) : (s.countFenced g n).entry h = s.entry h := rfl
@[simp] theorem record_countFenced (g : Index) (n : Nat) (h : Index) : (s.countFenced g n).record h = s.record h := rfl

/-! ## setSystemRx -/

@[simp] theorem inReset_setSystemRx (l : Index) (r : SystemRx) : (s.setSystemRx l r).inReset = s.inReset := rfl
@[simp] theorem lfr_setSystemRx (l : Index) (r : SystemRx) : (s.setSystemRx l r).lfr = s.lfr := rfl
@[simp] theorem fsu_classTable_setSystemRx (l : Index) (r : SystemRx) : (s.setSystemRx l r).fsu.classTable = s.fsu.classTable := rfl
@[simp] theorem fsu_paths_setSystemRx (l : Index) (r : SystemRx) : (s.setSystemRx l r).fsu.paths = s.fsu.paths := rfl
@[simp] theorem fsu_malformed_setSystemRx (l : Index) (r : SystemRx) : (s.setSystemRx l r).fsu.malformed = s.fsu.malformed := rfl
@[simp] theorem fsu_lineRx_setSystemRx (l : Index) (r : SystemRx) : (s.setSystemRx l r).fsu.lineRx = s.fsu.lineRx := rfl
@[simp] theorem fsu_holds_setSystemRx (l : Index) (r : SystemRx) : (s.setSystemRx l r).fsu.holds = s.fsu.holds := rfl
@[simp] theorem fsu_lineTx_setSystemRx (l : Index) (r : SystemRx) : (s.setSystemRx l r).fsu.lineTx = s.fsu.lineTx := rfl
@[simp] theorem fsu_systemTx_setSystemRx (l : Index) (r : SystemRx) : (s.setSystemRx l r).fsu.systemTx = s.fsu.systemTx := rfl
@[simp] theorem cpt_setSystemRx (l : Index) (r : SystemRx) : (s.setSystemRx l r).cpt = s.cpt := rfl
@[simp] theorem ciu_setSystemRx (l : Index) (r : SystemRx) : (s.setSystemRx l r).ciu = s.ciu := rfl
@[simp] theorem buc_setSystemRx (l : Index) (r : SystemRx) : (s.setSystemRx l r).buc = s.buc := rfl
@[simp] theorem psc_setSystemRx (l : Index) (r : SystemRx) : (s.setSystemRx l r).psc = s.psc := rfl
@[simp] theorem ers_setSystemRx (l : Index) (r : SystemRx) : (s.setSystemRx l r).ers = s.ers := rfl
@[simp] theorem sws_setSystemRx (l : Index) (r : SystemRx) : (s.setSystemRx l r).sws = s.sws := rfl
@[simp] theorem mga_setSystemRx (l : Index) (r : SystemRx) : (s.setSystemRx l r).mga = s.mga := rfl
@[simp] theorem notices_setSystemRx (l : Index) (r : SystemRx) : (s.setSystemRx l r).notices = s.notices := rfl
@[simp] theorem turn_setSystemRx (l : Index) (r : SystemRx) : (s.setSystemRx l r).turn = s.turn := rfl
@[simp] theorem pending_setSystemRx (l : Index) (r : SystemRx) : (s.setSystemRx l r).pending = s.pending := rfl
@[simp] theorem ctx_setSystemRx (l : Index) (r : SystemRx) (h : Index) : (s.setSystemRx l r).ctx h = s.ctx h := rfl
@[simp] theorem path_setSystemRx (l : Index) (r : SystemRx) (h : Index) : (s.setSystemRx l r).path h = s.path h := rfl
@[simp] theorem entry_setSystemRx (l : Index) (r : SystemRx) (h : Index) : (s.setSystemRx l r).entry h = s.entry h := rfl
@[simp] theorem record_setSystemRx (l : Index) (r : SystemRx) (h : Index) : (s.setSystemRx l r).record h = s.record h := rfl

/-! ## setLineRx -/

@[simp] theorem inReset_setLineRx (l : Index) (r : LineRx) : (s.setLineRx l r).inReset = s.inReset := rfl
@[simp] theorem lfr_setLineRx (l : Index) (r : LineRx) : (s.setLineRx l r).lfr = s.lfr := rfl
@[simp] theorem fsu_classTable_setLineRx (l : Index) (r : LineRx) : (s.setLineRx l r).fsu.classTable = s.fsu.classTable := rfl
@[simp] theorem fsu_paths_setLineRx (l : Index) (r : LineRx) : (s.setLineRx l r).fsu.paths = s.fsu.paths := rfl
@[simp] theorem fsu_malformed_setLineRx (l : Index) (r : LineRx) : (s.setLineRx l r).fsu.malformed = s.fsu.malformed := rfl
@[simp] theorem fsu_systemRx_setLineRx (l : Index) (r : LineRx) : (s.setLineRx l r).fsu.systemRx = s.fsu.systemRx := rfl
@[simp] theorem fsu_holds_setLineRx (l : Index) (r : LineRx) : (s.setLineRx l r).fsu.holds = s.fsu.holds := rfl
@[simp] theorem fsu_lineTx_setLineRx (l : Index) (r : LineRx) : (s.setLineRx l r).fsu.lineTx = s.fsu.lineTx := rfl
@[simp] theorem fsu_systemTx_setLineRx (l : Index) (r : LineRx) : (s.setLineRx l r).fsu.systemTx = s.fsu.systemTx := rfl
@[simp] theorem cpt_setLineRx (l : Index) (r : LineRx) : (s.setLineRx l r).cpt = s.cpt := rfl
@[simp] theorem ciu_setLineRx (l : Index) (r : LineRx) : (s.setLineRx l r).ciu = s.ciu := rfl
@[simp] theorem buc_setLineRx (l : Index) (r : LineRx) : (s.setLineRx l r).buc = s.buc := rfl
@[simp] theorem psc_setLineRx (l : Index) (r : LineRx) : (s.setLineRx l r).psc = s.psc := rfl
@[simp] theorem ers_setLineRx (l : Index) (r : LineRx) : (s.setLineRx l r).ers = s.ers := rfl
@[simp] theorem sws_setLineRx (l : Index) (r : LineRx) : (s.setLineRx l r).sws = s.sws := rfl
@[simp] theorem mga_setLineRx (l : Index) (r : LineRx) : (s.setLineRx l r).mga = s.mga := rfl
@[simp] theorem notices_setLineRx (l : Index) (r : LineRx) : (s.setLineRx l r).notices = s.notices := rfl
@[simp] theorem turn_setLineRx (l : Index) (r : LineRx) : (s.setLineRx l r).turn = s.turn := rfl
@[simp] theorem pending_setLineRx (l : Index) (r : LineRx) : (s.setLineRx l r).pending = s.pending := rfl
@[simp] theorem ctx_setLineRx (l : Index) (r : LineRx) (h : Index) : (s.setLineRx l r).ctx h = s.ctx h := rfl
@[simp] theorem path_setLineRx (l : Index) (r : LineRx) (h : Index) : (s.setLineRx l r).path h = s.path h := rfl
@[simp] theorem entry_setLineRx (l : Index) (r : LineRx) (h : Index) : (s.setLineRx l r).entry h = s.entry h := rfl
@[simp] theorem record_setLineRx (l : Index) (r : LineRx) (h : Index) : (s.setLineRx l r).record h = s.record h := rfl

/-! ## modTx -/

@[simp] theorem inReset_modTx (d : Side) (l : Index) (f : TxLane → TxLane) : (s.modTx d l f).inReset = s.inReset := by cases d <;> rfl
@[simp] theorem lfr_modTx (d : Side) (l : Index) (f : TxLane → TxLane) : (s.modTx d l f).lfr = s.lfr := by cases d <;> rfl
@[simp] theorem fsu_classTable_modTx (d : Side) (l : Index) (f : TxLane → TxLane) : (s.modTx d l f).fsu.classTable = s.fsu.classTable := by cases d <;> rfl
@[simp] theorem fsu_paths_modTx (d : Side) (l : Index) (f : TxLane → TxLane) : (s.modTx d l f).fsu.paths = s.fsu.paths := by cases d <;> rfl
@[simp] theorem fsu_malformed_modTx (d : Side) (l : Index) (f : TxLane → TxLane) : (s.modTx d l f).fsu.malformed = s.fsu.malformed := by cases d <;> rfl
@[simp] theorem fsu_systemRx_modTx (d : Side) (l : Index) (f : TxLane → TxLane) : (s.modTx d l f).fsu.systemRx = s.fsu.systemRx := by cases d <;> rfl
@[simp] theorem fsu_lineRx_modTx (d : Side) (l : Index) (f : TxLane → TxLane) : (s.modTx d l f).fsu.lineRx = s.fsu.lineRx := by cases d <;> rfl
@[simp] theorem fsu_holds_modTx (d : Side) (l : Index) (f : TxLane → TxLane) : (s.modTx d l f).fsu.holds = s.fsu.holds := by cases d <;> rfl
@[simp] theorem cpt_modTx (d : Side) (l : Index) (f : TxLane → TxLane) : (s.modTx d l f).cpt = s.cpt := by cases d <;> rfl
@[simp] theorem ciu_modTx (d : Side) (l : Index) (f : TxLane → TxLane) : (s.modTx d l f).ciu = s.ciu := by cases d <;> rfl
@[simp] theorem buc_modTx (d : Side) (l : Index) (f : TxLane → TxLane) : (s.modTx d l f).buc = s.buc := by cases d <;> rfl
@[simp] theorem psc_modTx (d : Side) (l : Index) (f : TxLane → TxLane) : (s.modTx d l f).psc = s.psc := by cases d <;> rfl
@[simp] theorem ers_modTx (d : Side) (l : Index) (f : TxLane → TxLane) : (s.modTx d l f).ers = s.ers := by cases d <;> rfl
@[simp] theorem sws_modTx (d : Side) (l : Index) (f : TxLane → TxLane) : (s.modTx d l f).sws = s.sws := by cases d <;> rfl
@[simp] theorem mga_modTx (d : Side) (l : Index) (f : TxLane → TxLane) : (s.modTx d l f).mga = s.mga := by cases d <;> rfl
@[simp] theorem notices_modTx (d : Side) (l : Index) (f : TxLane → TxLane) : (s.modTx d l f).notices = s.notices := by cases d <;> rfl
@[simp] theorem turn_modTx (d : Side) (l : Index) (f : TxLane → TxLane) : (s.modTx d l f).turn = s.turn := by cases d <;> rfl
@[simp] theorem pending_modTx (d : Side) (l : Index) (f : TxLane → TxLane) : (s.modTx d l f).pending = s.pending := by cases d <;> rfl
@[simp] theorem ctx_modTx (d : Side) (l : Index) (f : TxLane → TxLane) (h : Index) : (s.modTx d l f).ctx h = s.ctx h := by cases d <;> rfl
@[simp] theorem path_modTx (d : Side) (l : Index) (f : TxLane → TxLane) (h : Index) : (s.modTx d l f).path h = s.path h := by cases d <;> rfl
@[simp] theorem entry_modTx (d : Side) (l : Index) (f : TxLane → TxLane) (h : Index) : (s.modTx d l f).entry h = s.entry h := by cases d <;> rfl
@[simp] theorem record_modTx (d : Side) (l : Index) (f : TxLane → TxLane) (h : Index) : (s.modTx d l f).record h = s.record h := by cases d <;> rfl

/-! ## send -/

@[simp] theorem inReset_send (d : Side) (l : Index) (f : TxFrame) : (s.send d l f).inReset = s.inReset := by cases d <;> rfl
@[simp] theorem lfr_send (d : Side) (l : Index) (f : TxFrame) : (s.send d l f).lfr = s.lfr := by cases d <;> rfl
@[simp] theorem fsu_classTable_send (d : Side) (l : Index) (f : TxFrame) : (s.send d l f).fsu.classTable = s.fsu.classTable := by cases d <;> rfl
@[simp] theorem fsu_paths_send (d : Side) (l : Index) (f : TxFrame) : (s.send d l f).fsu.paths = s.fsu.paths := by cases d <;> rfl
@[simp] theorem fsu_malformed_send (d : Side) (l : Index) (f : TxFrame) : (s.send d l f).fsu.malformed = s.fsu.malformed := by cases d <;> rfl
@[simp] theorem fsu_systemRx_send (d : Side) (l : Index) (f : TxFrame) : (s.send d l f).fsu.systemRx = s.fsu.systemRx := by cases d <;> rfl
@[simp] theorem fsu_lineRx_send (d : Side) (l : Index) (f : TxFrame) : (s.send d l f).fsu.lineRx = s.fsu.lineRx := by cases d <;> rfl
@[simp] theorem fsu_holds_send (d : Side) (l : Index) (f : TxFrame) : (s.send d l f).fsu.holds = s.fsu.holds := by cases d <;> rfl
@[simp] theorem cpt_send (d : Side) (l : Index) (f : TxFrame) : (s.send d l f).cpt = s.cpt := by cases d <;> rfl
@[simp] theorem ciu_send (d : Side) (l : Index) (f : TxFrame) : (s.send d l f).ciu = s.ciu := by cases d <;> rfl
@[simp] theorem buc_send (d : Side) (l : Index) (f : TxFrame) : (s.send d l f).buc = s.buc := by cases d <;> rfl
@[simp] theorem psc_send (d : Side) (l : Index) (f : TxFrame) : (s.send d l f).psc = s.psc := by cases d <;> rfl
@[simp] theorem ers_send (d : Side) (l : Index) (f : TxFrame) : (s.send d l f).ers = s.ers := by cases d <;> rfl
@[simp] theorem sws_send (d : Side) (l : Index) (f : TxFrame) : (s.send d l f).sws = s.sws := by cases d <;> rfl
@[simp] theorem mga_send (d : Side) (l : Index) (f : TxFrame) : (s.send d l f).mga = s.mga := by cases d <;> rfl
@[simp] theorem notices_send (d : Side) (l : Index) (f : TxFrame) : (s.send d l f).notices = s.notices := by cases d <;> rfl
@[simp] theorem turn_send (d : Side) (l : Index) (f : TxFrame) : (s.send d l f).turn = s.turn := by cases d <;> rfl
@[simp] theorem pending_send (d : Side) (l : Index) (f : TxFrame) : (s.send d l f).pending = s.pending := by cases d <;> rfl
@[simp] theorem ctx_send (d : Side) (l : Index) (f : TxFrame) (h : Index) : (s.send d l f).ctx h = s.ctx h := by cases d <;> rfl
@[simp] theorem path_send (d : Side) (l : Index) (f : TxFrame) (h : Index) : (s.send d l f).path h = s.path h := by cases d <;> rfl
@[simp] theorem entry_send (d : Side) (l : Index) (f : TxFrame) (h : Index) : (s.send d l f).entry h = s.entry h := by cases d <;> rfl
@[simp] theorem record_send (d : Side) (l : Index) (f : TxFrame) (h : Index) : (s.send d l f).record h = s.record h := by cases d <;> rfl

/-! ## setLockView -/

@[simp] theorem inReset_setLockView (l : Index) (v : LockView) : (s.setLockView l v).inReset = s.inReset := rfl
@[simp] theorem lfr_setLockView (l : Index) (v : LockView) : (s.setLockView l v).lfr = s.lfr := rfl
@[simp] theorem fsu_setLockView (l : Index) (v : LockView) : (s.setLockView l v).fsu = s.fsu := rfl
@[simp] theorem cpt_setLockView (l : Index) (v : LockView) : (s.setLockView l v).cpt = s.cpt := rfl
@[simp] theorem ciu_setLockView (l : Index) (v : LockView) : (s.setLockView l v).ciu = s.ciu := rfl
@[simp] theorem buc_contexts_setLockView (l : Index) (v : LockView) : (s.setLockView l v).buc.contexts = s.buc.contexts := rfl
@[simp] theorem psc_setLockView (l : Index) (v : LockView) : (s.setLockView l v).psc = s.psc := rfl
@[simp] theorem ers_setLockView (l : Index) (v : LockView) : (s.setLockView l v).ers = s.ers := rfl
@[simp] theorem sws_setLockView (l : Index) (v : LockView) : (s.setLockView l v).sws = s.sws := rfl
@[simp] theorem mga_setLockView (l : Index) (v : LockView) : (s.setLockView l v).mga = s.mga := rfl
@[simp] theorem notices_setLockView (l : Index) (v : LockView) : (s.setLockView l v).notices = s.notices := rfl
@[simp] theorem turn_setLockView (l : Index) (v : LockView) : (s.setLockView l v).turn = s.turn := rfl
@[simp] theorem pending_setLockView (l : Index) (v : LockView) : (s.setLockView l v).pending = s.pending := rfl
@[simp] theorem ctx_setLockView (l : Index) (v : LockView) (h : Index) : (s.setLockView l v).ctx h = s.ctx h := rfl
@[simp] theorem path_setLockView (l : Index) (v : LockView) (h : Index) : (s.setLockView l v).path h = s.path h := rfl
@[simp] theorem entry_setLockView (l : Index) (v : LockView) (h : Index) : (s.setLockView l v).entry h = s.entry h := rfl
@[simp] theorem record_setLockView (l : Index) (v : LockView) (h : Index) : (s.setLockView l v).record h = s.record h := rfl

/-! ## postGroup -/

@[simp] theorem inReset_postGroup (g : Index) : (s.postGroup g).inReset = s.inReset := rfl
@[simp] theorem lfr_postGroup (g : Index) : (s.postGroup g).lfr = s.lfr := rfl
@[simp] theorem fsu_postGroup (g : Index) : (s.postGroup g).fsu = s.fsu := rfl
@[simp] theorem cpt_postGroup (g : Index) : (s.postGroup g).cpt = s.cpt := rfl
@[simp] theorem ciu_postGroup (g : Index) : (s.postGroup g).ciu = s.ciu := rfl
@[simp] theorem buc_postGroup (g : Index) : (s.postGroup g).buc = s.buc := rfl
@[simp] theorem psc_postGroup (g : Index) : (s.postGroup g).psc = s.psc := rfl
@[simp] theorem ers_postGroup (g : Index) : (s.postGroup g).ers = s.ers := rfl
@[simp] theorem sws_postGroup (g : Index) : (s.postGroup g).sws = s.sws := rfl
@[simp] theorem mga_postGroup (g : Index) : (s.postGroup g).mga = s.mga := rfl
@[simp] theorem turn_postGroup (g : Index) : (s.postGroup g).turn = s.turn := rfl
@[simp] theorem pending_postGroup (g : Index) : (s.postGroup g).pending = s.pending := rfl
@[simp] theorem ctx_postGroup (g : Index) (h : Index) : (s.postGroup g).ctx h = s.ctx h := rfl
@[simp] theorem path_postGroup (g : Index) (h : Index) : (s.postGroup g).path h = s.path h := rfl
@[simp] theorem entry_postGroup (g : Index) (h : Index) : (s.postGroup g).entry h = s.entry h := rfl
@[simp] theorem record_postGroup (g : Index) (h : Index) : (s.postGroup g).record h = s.record h := rfl

/-! ## postPort -/

@[simp] theorem inReset_postPort (p : Fin 16) : (s.postPort p).inReset = s.inReset := rfl
@[simp] theorem lfr_postPort (p : Fin 16) : (s.postPort p).lfr = s.lfr := rfl
@[simp] theorem fsu_postPort (p : Fin 16) : (s.postPort p).fsu = s.fsu := rfl
@[simp] theorem cpt_postPort (p : Fin 16) : (s.postPort p).cpt = s.cpt := rfl
@[simp] theorem ciu_postPort (p : Fin 16) : (s.postPort p).ciu = s.ciu := rfl
@[simp] theorem buc_postPort (p : Fin 16) : (s.postPort p).buc = s.buc := rfl
@[simp] theorem psc_postPort (p : Fin 16) : (s.postPort p).psc = s.psc := rfl
@[simp] theorem ers_postPort (p : Fin 16) : (s.postPort p).ers = s.ers := rfl
@[simp] theorem sws_postPort (p : Fin 16) : (s.postPort p).sws = s.sws := rfl
@[simp] theorem mga_postPort (p : Fin 16) : (s.postPort p).mga = s.mga := rfl
@[simp] theorem turn_postPort (p : Fin 16) : (s.postPort p).turn = s.turn := rfl
@[simp] theorem pending_postPort (p : Fin 16) : (s.postPort p).pending = s.pending := rfl
@[simp] theorem ctx_postPort (p : Fin 16) (h : Index) : (s.postPort p).ctx h = s.ctx h := rfl
@[simp] theorem path_postPort (p : Fin 16) (h : Index) : (s.postPort p).path h = s.path h := rfl
@[simp] theorem entry_postPort (p : Fin 16) (h : Index) : (s.postPort p).entry h = s.entry h := rfl
@[simp] theorem record_postPort (p : Fin 16) (h : Index) : (s.postPort p).record h = s.record h := rfl

/-! ## setRecord -/

@[simp] theorem inReset_setRecord (p : Fin 16) (r : InventoryRecord) : (s.setRecord p r).inReset = s.inReset := rfl
@[simp] theorem lfr_setRecord (p : Fin 16) (r : InventoryRecord) : (s.setRecord p r).lfr = s.lfr := rfl
@[simp] theorem fsu_setRecord (p : Fin 16) (r : InventoryRecord) : (s.setRecord p r).fsu = s.fsu := rfl
@[simp] theorem cpt_setRecord (p : Fin 16) (r : InventoryRecord) : (s.setRecord p r).cpt = s.cpt := rfl
@[simp] theorem ciu_inProgress_setRecord (p : Fin 16) (r : InventoryRecord) : (s.setRecord p r).ciu.inProgress = s.ciu.inProgress := rfl
@[simp] theorem ciu_readPending_setRecord (p : Fin 16) (r : InventoryRecord) : (s.setRecord p r).ciu.readPending = s.ciu.readPending := rfl
@[simp] theorem ciu_timer_setRecord (p : Fin 16) (r : InventoryRecord) : (s.setRecord p r).ciu.timer = s.ciu.timer := rfl
@[simp] theorem ciu_elapsed_setRecord (p : Fin 16) (r : InventoryRecord) : (s.setRecord p r).ciu.elapsed = s.ciu.elapsed := rfl
@[simp] theorem ciu_handed_setRecord (p : Fin 16) (r : InventoryRecord) : (s.setRecord p r).ciu.handed = s.ciu.handed := rfl
@[simp] theorem buc_setRecord (p : Fin 16) (r : InventoryRecord) : (s.setRecord p r).buc = s.buc := rfl
@[simp] theorem psc_setRecord (p : Fin 16) (r : InventoryRecord) : (s.setRecord p r).psc = s.psc := rfl
@[simp] theorem ers_setRecord (p : Fin 16) (r : InventoryRecord) : (s.setRecord p r).ers = s.ers := rfl
@[simp] theorem sws_setRecord (p : Fin 16) (r : InventoryRecord) : (s.setRecord p r).sws = s.sws := rfl
@[simp] theorem mga_setRecord (p : Fin 16) (r : InventoryRecord) : (s.setRecord p r).mga = s.mga := rfl
@[simp] theorem notices_setRecord (p : Fin 16) (r : InventoryRecord) : (s.setRecord p r).notices = s.notices := rfl
@[simp] theorem turn_setRecord (p : Fin 16) (r : InventoryRecord) : (s.setRecord p r).turn = s.turn := rfl
@[simp] theorem pending_setRecord (p : Fin 16) (r : InventoryRecord) : (s.setRecord p r).pending = s.pending := rfl
@[simp] theorem ctx_setRecord (p : Fin 16) (r : InventoryRecord) (h : Index) : (s.setRecord p r).ctx h = s.ctx h := rfl
@[simp] theorem path_setRecord (p : Fin 16) (r : InventoryRecord) (h : Index) : (s.setRecord p r).path h = s.path h := rfl
@[simp] theorem entry_setRecord (p : Fin 16) (r : InventoryRecord) (h : Index) : (s.setRecord p r).entry h = s.entry h := rfl

/-! ## handOn -/

@[simp] theorem inReset_handOn (p : Fin 16) (e : PortChange) : (s.handOn p e).inReset = s.inReset := rfl
@[simp] theorem lfr_handOn (p : Fin 16) (e : PortChange) : (s.handOn p e).lfr = s.lfr := rfl
@[simp] theorem fsu_handOn (p : Fin 16) (e : PortChange) : (s.handOn p e).fsu = s.fsu := rfl
@[simp] theorem cpt_handOn (p : Fin 16) (e : PortChange) : (s.handOn p e).cpt = s.cpt := rfl
@[simp] theorem ciu_records_handOn (p : Fin 16) (e : PortChange) : (s.handOn p e).ciu.records = s.ciu.records := rfl
@[simp] theorem ciu_inProgress_handOn (p : Fin 16) (e : PortChange) : (s.handOn p e).ciu.inProgress = s.ciu.inProgress := rfl
@[simp] theorem ciu_readPending_handOn (p : Fin 16) (e : PortChange) : (s.handOn p e).ciu.readPending = s.ciu.readPending := rfl
@[simp] theorem ciu_timer_handOn (p : Fin 16) (e : PortChange) : (s.handOn p e).ciu.timer = s.ciu.timer := rfl
@[simp] theorem ciu_elapsed_handOn (p : Fin 16) (e : PortChange) : (s.handOn p e).ciu.elapsed = s.ciu.elapsed := rfl
@[simp] theorem buc_handOn (p : Fin 16) (e : PortChange) : (s.handOn p e).buc = s.buc := rfl
@[simp] theorem psc_handOn (p : Fin 16) (e : PortChange) : (s.handOn p e).psc = s.psc := rfl
@[simp] theorem ers_handOn (p : Fin 16) (e : PortChange) : (s.handOn p e).ers = s.ers := rfl
@[simp] theorem sws_handOn (p : Fin 16) (e : PortChange) : (s.handOn p e).sws = s.sws := rfl
@[simp] theorem mga_handOn (p : Fin 16) (e : PortChange) : (s.handOn p e).mga = s.mga := rfl
@[simp] theorem notices_handOn (p : Fin 16) (e : PortChange) : (s.handOn p e).notices = s.notices := rfl
@[simp] theorem turn_handOn (p : Fin 16) (e : PortChange) : (s.handOn p e).turn = s.turn := rfl
@[simp] theorem pending_handOn (p : Fin 16) (e : PortChange) : (s.handOn p e).pending = s.pending := rfl
@[simp] theorem ciu_handed_handOn (p : Fin 16) (e : PortChange) :
    (s.handOn p e).ciu.handed = s.ciu.handed ++ (List.finRange 4).map fun j => { group := cell p j, change := e } := rfl
@[simp] theorem ctx_handOn (p : Fin 16) (e : PortChange) (h : Index) : (s.handOn p e).ctx h = s.ctx h := rfl
@[simp] theorem path_handOn (p : Fin 16) (e : PortChange) (h : Index) : (s.handOn p e).path h = s.path h := rfl
@[simp] theorem entry_handOn (p : Fin 16) (e : PortChange) (h : Index) : (s.handOn p e).entry h = s.entry h := rfl
@[simp] theorem record_handOn (p : Fin 16) (e : PortChange) (h : Index) : (s.handOn p e).record h = s.record h := rfl

/-! ## setFront -/

@[simp] theorem inReset_setFront (l : Index) (f : LaneFront → LaneFront) : (s.setFront l f).inReset = s.inReset := rfl
@[simp] theorem fsu_setFront (l : Index) (f : LaneFront → LaneFront) : (s.setFront l f).fsu = s.fsu := rfl
@[simp] theorem cpt_setFront (l : Index) (f : LaneFront → LaneFront) : (s.setFront l f).cpt = s.cpt := rfl
@[simp] theorem ciu_setFront (l : Index) (f : LaneFront → LaneFront) : (s.setFront l f).ciu = s.ciu := rfl
@[simp] theorem buc_setFront (l : Index) (f : LaneFront → LaneFront) : (s.setFront l f).buc = s.buc := rfl
@[simp] theorem psc_setFront (l : Index) (f : LaneFront → LaneFront) : (s.setFront l f).psc = s.psc := rfl
@[simp] theorem ers_setFront (l : Index) (f : LaneFront → LaneFront) : (s.setFront l f).ers = s.ers := rfl
@[simp] theorem sws_setFront (l : Index) (f : LaneFront → LaneFront) : (s.setFront l f).sws = s.sws := rfl
@[simp] theorem mga_setFront (l : Index) (f : LaneFront → LaneFront) : (s.setFront l f).mga = s.mga := rfl
@[simp] theorem notices_setFront (l : Index) (f : LaneFront → LaneFront) : (s.setFront l f).notices = s.notices := rfl
@[simp] theorem turn_setFront (l : Index) (f : LaneFront → LaneFront) : (s.setFront l f).turn = s.turn := rfl
@[simp] theorem pending_setFront (l : Index) (f : LaneFront → LaneFront) : (s.setFront l f).pending = s.pending := rfl
@[simp] theorem ctx_setFront (l : Index) (f : LaneFront → LaneFront) (h : Index) : (s.setFront l f).ctx h = s.ctx h := rfl
@[simp] theorem path_setFront (l : Index) (f : LaneFront → LaneFront) (h : Index) : (s.setFront l f).path h = s.path h := rfl
@[simp] theorem entry_setFront (l : Index) (f : LaneFront → LaneFront) (h : Index) : (s.setFront l f).entry h = s.entry h := rfl
@[simp] theorem record_setFront (l : Index) (f : LaneFront → LaneFront) (h : Index) : (s.setFront l f).record h = s.record h := rfl

/-! ## setEcho -/

@[simp] theorem inReset_setEcho (l : Index) (e : Option EchoSlot) : (s.setEcho l e).inReset = s.inReset := rfl
@[simp] theorem lfr_setEcho (l : Index) (e : Option EchoSlot) : (s.setEcho l e).lfr = s.lfr := rfl
@[simp] theorem fsu_setEcho (l : Index) (e : Option EchoSlot) : (s.setEcho l e).fsu = s.fsu := rfl
@[simp] theorem cpt_setEcho (l : Index) (e : Option EchoSlot) : (s.setEcho l e).cpt = s.cpt := rfl
@[simp] theorem ciu_setEcho (l : Index) (e : Option EchoSlot) : (s.setEcho l e).ciu = s.ciu := rfl
@[simp] theorem buc_setEcho (l : Index) (e : Option EchoSlot) : (s.setEcho l e).buc = s.buc := rfl
@[simp] theorem psc_setEcho (l : Index) (e : Option EchoSlot) : (s.setEcho l e).psc = s.psc := rfl
@[simp] theorem sws_setEcho (l : Index) (e : Option EchoSlot) : (s.setEcho l e).sws = s.sws := rfl
@[simp] theorem mga_setEcho (l : Index) (e : Option EchoSlot) : (s.setEcho l e).mga = s.mga := rfl
@[simp] theorem notices_setEcho (l : Index) (e : Option EchoSlot) : (s.setEcho l e).notices = s.notices := rfl
@[simp] theorem turn_setEcho (l : Index) (e : Option EchoSlot) : (s.setEcho l e).turn = s.turn := rfl
@[simp] theorem pending_setEcho (l : Index) (e : Option EchoSlot) : (s.setEcho l e).pending = s.pending := rfl
@[simp] theorem ctx_setEcho (l : Index) (e : Option EchoSlot) (h : Index) : (s.setEcho l e).ctx h = s.ctx h := rfl
@[simp] theorem path_setEcho (l : Index) (e : Option EchoSlot) (h : Index) : (s.setEcho l e).path h = s.path h := rfl
@[simp] theorem entry_setEcho (l : Index) (e : Option EchoSlot) (h : Index) : (s.setEcho l e).entry h = s.entry h := rfl
@[simp] theorem record_setEcho (l : Index) (e : Option EchoSlot) (h : Index) : (s.setEcho l e).record h = s.record h := rfl

/-! ## storeEntry -/

@[simp] theorem inReset_storeEntry (g : Index) (e : PlanEntry) : (s.storeEntry g e).inReset = s.inReset := rfl
@[simp] theorem lfr_storeEntry (g : Index) (e : PlanEntry) : (s.storeEntry g e).lfr = s.lfr := rfl
@[simp] theorem fsu_storeEntry (g : Index) (e : PlanEntry) : (s.storeEntry g e).fsu = s.fsu := rfl
@[simp] theorem cpt_classD_storeEntry (g : Index) (e : PlanEntry) : (s.storeEntry g e).cpt.classD = s.cpt.classD := rfl
@[simp] theorem cpt_profiles_storeEntry (g : Index) (e : PlanEntry) : (s.storeEntry g e).cpt.profiles = s.cpt.profiles := rfl
@[simp] theorem ciu_storeEntry (g : Index) (e : PlanEntry) : (s.storeEntry g e).ciu = s.ciu := rfl
@[simp] theorem buc_storeEntry (g : Index) (e : PlanEntry) : (s.storeEntry g e).buc = s.buc := rfl
@[simp] theorem psc_storeEntry (g : Index) (e : PlanEntry) : (s.storeEntry g e).psc = s.psc := rfl
@[simp] theorem ers_storeEntry (g : Index) (e : PlanEntry) : (s.storeEntry g e).ers = s.ers := rfl
@[simp] theorem sws_storeEntry (g : Index) (e : PlanEntry) : (s.storeEntry g e).sws = s.sws := rfl
@[simp] theorem mga_storeEntry (g : Index) (e : PlanEntry) : (s.storeEntry g e).mga = s.mga := rfl
@[simp] theorem notices_storeEntry (g : Index) (e : PlanEntry) : (s.storeEntry g e).notices = s.notices := rfl
@[simp] theorem turn_storeEntry (g : Index) (e : PlanEntry) : (s.storeEntry g e).turn = s.turn := rfl
@[simp] theorem pending_storeEntry (g : Index) (e : PlanEntry) : (s.storeEntry g e).pending = s.pending := rfl
@[simp] theorem ctx_storeEntry (g : Index) (e : PlanEntry) (h : Index) : (s.storeEntry g e).ctx h = s.ctx h := rfl
@[simp] theorem path_storeEntry (g : Index) (e : PlanEntry) (h : Index) : (s.storeEntry g e).path h = s.path h := rfl
@[simp] theorem record_storeEntry (g : Index) (e : PlanEntry) (h : Index) : (s.storeEntry g e).record h = s.record h := rfl

/-! ## startRead -/

@[simp] theorem inReset_startRead : (s.startRead).inReset = s.inReset := rfl
@[simp] theorem lfr_startRead : (s.startRead).lfr = s.lfr := rfl
@[simp] theorem fsu_startRead : (s.startRead).fsu = s.fsu := rfl
@[simp] theorem cpt_startRead : (s.startRead).cpt = s.cpt := rfl
@[simp] theorem ciu_records_startRead : (s.startRead).ciu.records = s.ciu.records := rfl
@[simp] theorem ciu_readPending_startRead : (s.startRead).ciu.readPending = s.ciu.readPending := rfl
@[simp] theorem ciu_handed_startRead : (s.startRead).ciu.handed = s.ciu.handed := rfl
@[simp] theorem buc_startRead : (s.startRead).buc = s.buc := rfl
@[simp] theorem psc_startRead : (s.startRead).psc = s.psc := rfl
@[simp] theorem ers_startRead : (s.startRead).ers = s.ers := rfl
@[simp] theorem sws_startRead : (s.startRead).sws = s.sws := rfl
@[simp] theorem mga_startRead : (s.startRead).mga = s.mga := rfl
@[simp] theorem notices_startRead : (s.startRead).notices = s.notices := rfl
@[simp] theorem turn_startRead : (s.startRead).turn = s.turn := rfl
@[simp] theorem pending_startRead : (s.startRead).pending = s.pending := rfl
@[simp] theorem ctx_startRead (h : Index) : (s.startRead).ctx h = s.ctx h := rfl
@[simp] theorem path_startRead (h : Index) : (s.startRead).path h = s.path h := rfl
@[simp] theorem entry_startRead (h : Index) : (s.startRead).entry h = s.entry h := rfl
@[simp] theorem record_startRead (h : Index) : (s.startRead).record h = s.record h := rfl

/-! ## startStepTimer -/

@[simp] theorem inReset_startStepTimer : (s.startStepTimer).inReset = s.inReset := rfl
@[simp] theorem lfr_startStepTimer : (s.startStepTimer).lfr = s.lfr := rfl
@[simp] theorem fsu_startStepTimer : (s.startStepTimer).fsu = s.fsu := rfl
@[simp] theorem cpt_startStepTimer : (s.startStepTimer).cpt = s.cpt := rfl
@[simp] theorem ciu_startStepTimer : (s.startStepTimer).ciu = s.ciu := rfl
@[simp] theorem buc_startStepTimer : (s.startStepTimer).buc = s.buc := rfl
@[simp] theorem psc_startStepTimer : (s.startStepTimer).psc = s.psc := rfl
@[simp] theorem ers_startStepTimer : (s.startStepTimer).ers = s.ers := rfl
@[simp] theorem sws_mode_startStepTimer : (s.startStepTimer).sws.mode = s.sws.mode := rfl
@[simp] theorem sws_remaining_startStepTimer : (s.startStepTimer).sws.remaining = s.sws.remaining := rfl
@[simp] theorem sws_position_startStepTimer : (s.startStepTimer).sws.position = s.sws.position := rfl
@[simp] theorem sws_completed_startStepTimer : (s.startStepTimer).sws.completed = s.sws.completed := rfl
@[simp] theorem sws_flag_startStepTimer : (s.startStepTimer).sws.flag = s.sws.flag := rfl
@[simp] theorem mga_startStepTimer : (s.startStepTimer).mga = s.mga := rfl
@[simp] theorem notices_startStepTimer : (s.startStepTimer).notices = s.notices := rfl
@[simp] theorem turn_startStepTimer : (s.startStepTimer).turn = s.turn := rfl
@[simp] theorem pending_startStepTimer : (s.startStepTimer).pending = s.pending := rfl
@[simp] theorem ctx_startStepTimer (h : Index) : (s.startStepTimer).ctx h = s.ctx h := rfl
@[simp] theorem path_startStepTimer (h : Index) : (s.startStepTimer).path h = s.path h := rfl
@[simp] theorem entry_startStepTimer (h : Index) : (s.startStepTimer).entry h = s.entry h := rfl
@[simp] theorem record_startStepTimer (h : Index) : (s.startStepTimer).record h = s.record h := rfl

/-! ## countLate -/

@[simp] theorem inReset_countLate : (s.countLate).inReset = s.inReset := rfl
@[simp] theorem lfr_countLate : (s.countLate).lfr = s.lfr := rfl
@[simp] theorem fsu_countLate : (s.countLate).fsu = s.fsu := rfl
@[simp] theorem cpt_countLate : (s.countLate).cpt = s.cpt := rfl
@[simp] theorem ciu_countLate : (s.countLate).ciu = s.ciu := rfl
@[simp] theorem buc_countLate : (s.countLate).buc = s.buc := rfl
@[simp] theorem psc_now_countLate : (s.countLate).psc.now = s.psc.now := rfl
@[simp] theorem psc_queue_countLate : (s.countLate).psc.queue = s.psc.queue := rfl
@[simp] theorem psc_holder_countLate : (s.countLate).psc.holder = s.psc.holder := rfl
@[simp] theorem psc_slots_countLate : (s.countLate).psc.slots = s.psc.slots := rfl
@[simp] theorem ers_countLate : (s.countLate).ers = s.ers := rfl
@[simp] theorem sws_countLate : (s.countLate).sws = s.sws := rfl
@[simp] theorem mga_countLate : (s.countLate).mga = s.mga := rfl
@[simp] theorem notices_countLate : (s.countLate).notices = s.notices := rfl
@[simp] theorem turn_countLate : (s.countLate).turn = s.turn := rfl
@[simp] theorem pending_countLate : (s.countLate).pending = s.pending := rfl
@[simp] theorem ctx_countLate (h : Index) : (s.countLate).ctx h = s.ctx h := rfl
@[simp] theorem path_countLate (h : Index) : (s.countLate).path h = s.path h := rfl
@[simp] theorem entry_countLate (h : Index) : (s.countLate).entry h = s.entry h := rfl
@[simp] theorem record_countLate (h : Index) : (s.countLate).record h = s.record h := rfl

/-! ## respond -/

@[simp] theorem inReset_respond (r : ControlRequest) (a : Reply) : (s.respond r a).inReset = s.inReset := rfl
@[simp] theorem lfr_respond (r : ControlRequest) (a : Reply) : (s.respond r a).lfr = s.lfr := rfl
@[simp] theorem fsu_respond (r : ControlRequest) (a : Reply) : (s.respond r a).fsu = s.fsu := rfl
@[simp] theorem cpt_respond (r : ControlRequest) (a : Reply) : (s.respond r a).cpt = s.cpt := rfl
@[simp] theorem ciu_respond (r : ControlRequest) (a : Reply) : (s.respond r a).ciu = s.ciu := rfl
@[simp] theorem buc_respond (r : ControlRequest) (a : Reply) : (s.respond r a).buc = s.buc := rfl
@[simp] theorem psc_respond (r : ControlRequest) (a : Reply) : (s.respond r a).psc = s.psc := rfl
@[simp] theorem ers_respond (r : ControlRequest) (a : Reply) : (s.respond r a).ers = s.ers := rfl
@[simp] theorem sws_respond (r : ControlRequest) (a : Reply) : (s.respond r a).sws = s.sws := rfl
@[simp] theorem mga_identity_respond (r : ControlRequest) (a : Reply) : (s.respond r a).mga.identity = s.mga.identity := rfl
@[simp] theorem mga_settings_respond (r : ControlRequest) (a : Reply) : (s.respond r a).mga.settings = s.mga.settings := rfl
@[simp] theorem notices_respond (r : ControlRequest) (a : Reply) : (s.respond r a).notices = s.notices := rfl
@[simp] theorem turn_respond (r : ControlRequest) (a : Reply) : (s.respond r a).turn = s.turn := rfl
@[simp] theorem pending_respond (r : ControlRequest) (a : Reply) : (s.respond r a).pending = s.pending := rfl
@[simp] theorem ctx_respond (r : ControlRequest) (a : Reply) (h : Index) : (s.respond r a).ctx h = s.ctx h := rfl
@[simp] theorem path_respond (r : ControlRequest) (a : Reply) (h : Index) : (s.respond r a).path h = s.path h := rfl
@[simp] theorem entry_respond (r : ControlRequest) (a : Reply) (h : Index) : (s.respond r a).entry h = s.entry h := rfl
@[simp] theorem record_respond (r : ControlRequest) (a : Reply) (h : Index) : (s.respond r a).record h = s.record h := rfl

/-! ## arbitrate -/

@[simp] theorem inReset_arbitrate : (s.arbitrate).inReset = s.inReset := by unfold State.arbitrate; rfl
@[simp] theorem lfr_arbitrate : (s.arbitrate).lfr = s.lfr := by unfold State.arbitrate; rfl
@[simp] theorem fsu_classTable_arbitrate : (s.arbitrate).fsu.classTable = s.fsu.classTable := by unfold State.arbitrate; rfl
@[simp] theorem fsu_paths_arbitrate : (s.arbitrate).fsu.paths = s.fsu.paths := by unfold State.arbitrate; rfl
@[simp] theorem fsu_malformed_arbitrate : (s.arbitrate).fsu.malformed = s.fsu.malformed := by unfold State.arbitrate; rfl
@[simp] theorem fsu_systemRx_arbitrate : (s.arbitrate).fsu.systemRx = s.fsu.systemRx := by unfold State.arbitrate; rfl
@[simp] theorem fsu_lineRx_arbitrate : (s.arbitrate).fsu.lineRx = s.fsu.lineRx := by unfold State.arbitrate; rfl
@[simp] theorem fsu_holds_arbitrate : (s.arbitrate).fsu.holds = s.fsu.holds := by unfold State.arbitrate; rfl
@[simp] theorem cpt_arbitrate : (s.arbitrate).cpt = s.cpt := by unfold State.arbitrate; rfl
@[simp] theorem ciu_arbitrate : (s.arbitrate).ciu = s.ciu := by unfold State.arbitrate; rfl
@[simp] theorem buc_arbitrate : (s.arbitrate).buc = s.buc := by unfold State.arbitrate; rfl
@[simp] theorem psc_arbitrate : (s.arbitrate).psc = s.psc := by unfold State.arbitrate; rfl
@[simp] theorem ers_arbitrate : (s.arbitrate).ers = s.ers := by unfold State.arbitrate; rfl
@[simp] theorem sws_arbitrate : (s.arbitrate).sws = s.sws := by unfold State.arbitrate; rfl
@[simp] theorem mga_arbitrate : (s.arbitrate).mga = s.mga := by unfold State.arbitrate; rfl
@[simp] theorem notices_arbitrate : (s.arbitrate).notices = s.notices := by unfold State.arbitrate; rfl
@[simp] theorem turn_arbitrate : (s.arbitrate).turn = s.turn := by unfold State.arbitrate; rfl
@[simp] theorem pending_arbitrate : (s.arbitrate).pending = s.pending := by unfold State.arbitrate; rfl
@[simp] theorem ctx_arbitrate (h : Index) : (s.arbitrate).ctx h = s.ctx h := by unfold State.ctx; simp
@[simp] theorem path_arbitrate (h : Index) : (s.arbitrate).path h = s.path h := by unfold State.path; simp
@[simp] theorem entry_arbitrate (h : Index) : (s.arbitrate).entry h = s.entry h := by unfold State.entry; simp
@[simp] theorem record_arbitrate (h : Index) : (s.arbitrate).record h = s.record h := by unfold State.record; simp

/-! ## refresh -/

@[simp] theorem inReset_refresh (g : Index) : (s.refresh g).inReset = s.inReset := rfl
@[simp] theorem lfr_refresh (g : Index) : (s.refresh g).lfr = s.lfr := rfl
@[simp] theorem fsu_refresh (g : Index) : (s.refresh g).fsu = s.fsu := rfl
@[simp] theorem cpt_refresh (g : Index) : (s.refresh g).cpt = s.cpt := rfl
@[simp] theorem ciu_refresh (g : Index) : (s.refresh g).ciu = s.ciu := rfl
@[simp] theorem buc_lockView_refresh (g : Index) : (s.refresh g).buc.lockView = s.buc.lockView := rfl
@[simp] theorem psc_refresh (g : Index) : (s.refresh g).psc = s.psc := rfl
@[simp] theorem ers_refresh (g : Index) : (s.refresh g).ers = s.ers := rfl
@[simp] theorem sws_refresh (g : Index) : (s.refresh g).sws = s.sws := rfl
@[simp] theorem mga_refresh (g : Index) : (s.refresh g).mga = s.mga := rfl
@[simp] theorem notices_refresh (g : Index) : (s.refresh g).notices = s.notices := rfl
@[simp] theorem turn_refresh (g : Index) : (s.refresh g).turn = s.turn := rfl
@[simp] theorem pending_refresh (g : Index) : (s.refresh g).pending = s.pending := rfl
@[simp] theorem path_refresh (g : Index) (h : Index) : (s.refresh g).path h = s.path h := rfl
@[simp] theorem entry_refresh (g : Index) (h : Index) : (s.refresh g).entry h = s.entry h := rfl
@[simp] theorem record_refresh (g : Index) (h : Index) : (s.refresh g).record h = s.record h := rfl

/-! ## loadFsu -/

@[simp] theorem inReset_loadFsu (g : Index) : (s.loadFsu g).inReset = s.inReset := rfl
@[simp] theorem lfr_loadFsu (g : Index) : (s.loadFsu g).lfr = s.lfr := rfl
@[simp] theorem fsu_classTable_loadFsu (g : Index) : (s.loadFsu g).fsu.classTable = s.fsu.classTable := rfl
@[simp] theorem fsu_malformed_loadFsu (g : Index) : (s.loadFsu g).fsu.malformed = s.fsu.malformed := rfl
@[simp] theorem fsu_systemRx_loadFsu (g : Index) : (s.loadFsu g).fsu.systemRx = s.fsu.systemRx := rfl
@[simp] theorem fsu_lineRx_loadFsu (g : Index) : (s.loadFsu g).fsu.lineRx = s.fsu.lineRx := rfl
@[simp] theorem fsu_holds_loadFsu (g : Index) : (s.loadFsu g).fsu.holds = s.fsu.holds := rfl
@[simp] theorem fsu_lineTx_loadFsu (g : Index) : (s.loadFsu g).fsu.lineTx = s.fsu.lineTx := rfl
@[simp] theorem fsu_systemTx_loadFsu (g : Index) : (s.loadFsu g).fsu.systemTx = s.fsu.systemTx := rfl
@[simp] theorem cpt_loadFsu (g : Index) : (s.loadFsu g).cpt = s.cpt := rfl
@[simp] theorem ciu_loadFsu (g : Index) : (s.loadFsu g).ciu = s.ciu := rfl
@[simp] theorem buc_loadFsu (g : Index) : (s.loadFsu g).buc = s.buc := rfl
@[simp] theorem psc_loadFsu (g : Index) : (s.loadFsu g).psc = s.psc := rfl
@[simp] theorem ers_loadFsu (g : Index) : (s.loadFsu g).ers = s.ers := rfl
@[simp] theorem sws_loadFsu (g : Index) : (s.loadFsu g).sws = s.sws := rfl
@[simp] theorem mga_loadFsu (g : Index) : (s.loadFsu g).mga = s.mga := rfl
@[simp] theorem notices_loadFsu (g : Index) : (s.loadFsu g).notices = s.notices := rfl
@[simp] theorem turn_loadFsu (g : Index) : (s.loadFsu g).turn = s.turn := rfl
@[simp] theorem pending_loadFsu (g : Index) : (s.loadFsu g).pending = s.pending := rfl
@[simp] theorem ctx_loadFsu (g : Index) (h : Index) : (s.loadFsu g).ctx h = s.ctx h := rfl
@[simp] theorem entry_loadFsu (g : Index) (h : Index) : (s.loadFsu g).entry h = s.entry h := rfl
@[simp] theorem record_loadFsu (g : Index) (h : Index) : (s.loadFsu g).record h = s.record h := rfl

end Sys2Proof.Machine
end

