-- ==== Sys2Proof/Laws/Table.lean ====
section
/-! SUPPORT. What the table operations do, each said once. -/

namespace Sys2Proof.Tab

variable {α β : Type} {n : Nat}

theorem ext {v w : Tab α n} (h : ∀ i, get v i = get w i) : v = w := by
  apply Vector.ext
  intro i hi
  exact h ⟨i, hi⟩

theorem ext_iff' {v w : Tab α n} : v = w ↔ ∀ i, get v i = get w i := ⟨fun h _ => h ▸ rfl, ext⟩

@[simp] theorem get_build (f : Fin n → α) (i : Fin n) : get (build f) i = f i := by simp [get, build]

@[simp] theorem get_fill (x : α) (i : Fin n) : get (fill x : Tab α n) i = x := by simp [get, fill]

@[simp] theorem get_map (f : α → β) (v : Tab α n) (i : Fin n) : get (map f v) i = f (get v i) := by simp [map]

theorem get_set (v : Tab α n) (i j : Fin n) (x : α) : get (set v i x) j = if j = i then x else get v j := by
  unfold get set
  rw [Vector.getElem_set]
  by_cases h : i = j
  · subst h
    simp
  · rw [if_neg (fun e => h (Fin.ext e)), if_neg (fun e => h e.symm)]

@[simp] theorem get_set_same (v : Tab α n) (i : Fin n) (x : α) : get (set v i x) i = x := by simp [get_set]

theorem get_set_ne (v : Tab α n) {i j : Fin n} (x : α) (h : j ≠ i) : get (set v i x) j = get v j := by
  simp [get_set, h]

theorem get_upd (v : Tab α n) (i j : Fin n) (f : α → α) :
    get (upd v i f) j = if j = i then f (get v i) else get v j := by simp [upd, get_set]

@[simp] theorem get_upd_same (v : Tab α n) (i : Fin n) (f : α → α) : get (upd v i f) i = f (get v i) := by
  simp [upd]

theorem get_upd_ne (v : Tab α n) {i j : Fin n} (f : α → α) (h : j ≠ i) : get (upd v i f) j = get v j := by
  simp [get_upd, h]

@[simp] theorem upd_id (v : Tab α n) (i : Fin n) : upd v i (fun x => x) = v := by
  apply ext
  intro j
  rw [get_upd]
  split
  · next h => rw [h]
  · rfl

theorem list_eq (v : Tab α n) : list v = (List.finRange n).map (get v) := by
  apply List.ext_getElem
  · simp [list]
  · intro i h1 h2
    simp [list, get]

theorem mem_list {v : Tab α n} {x : α} : x ∈ list v ↔ ∃ i, get v i = x := by simp [list_eq]

theorem any_iff {p : α → Bool} {v : Tab α n} : any p v = true ↔ ∃ i, p (get v i) = true := by
  simp [any, list_eq]

theorem any_false_iff {p : α → Bool} {v : Tab α n} : any p v = false ↔ ∀ i, p (get v i) = false := by
  simp [any, list_eq]

end Sys2Proof.Tab
end

