-- ==== Sys2Proof/Laws/Readback.lean ====
section
/-! SUPPORT. What a read of a field just changed gives: the changed entry, and every other entry as before. -/

namespace Sys2Proof.Machine

variable (s : State)

@[simp] theorem ctx_modCtx_same (g : Index) (f : Context → Context) : (s.modCtx g f).ctx g = f (s.ctx g) :=
  Tab.get_upd_same _ _ _

theorem ctx_modCtx_ne {g h : Index} (f : Context → Context) (ne : h ≠ g) : (s.modCtx g f).ctx h = s.ctx h :=
  Tab.get_upd_ne _ _ ne

@[simp] theorem path_modPath_same (g : Index) (f : GroupPath → GroupPath) : (s.modPath g f).path g = f (s.path g) :=
  Tab.get_upd_same _ _ _

theorem path_modPath_ne {g h : Index} (f : GroupPath → GroupPath) (ne : h ≠ g) : (s.modPath g f).path h = s.path h :=
  Tab.get_upd_ne _ _ ne

@[simp] theorem buc_lockView_setLockView (l : Index) (v : LockView) :
    (s.setLockView l v).buc.lockView = Tab.set s.buc.lockView l v := rfl

theorem get_tx_modTx_same (d : Side) (l : Index) (f : TxLane → TxLane) :
    Tab.get ((s.modTx d l f).tx d) l = f (Tab.get (s.tx d) l) := by
  cases d <;> exact Tab.get_upd_same _ _ _

theorem get_tx_modTx_ne (d : Side) {l m : Index} (f : TxLane → TxLane) (ne : m ≠ l) :
    Tab.get ((s.modTx d l f).tx d) m = Tab.get (s.tx d) m := by
  cases d <;> exact Tab.get_upd_ne _ _ ne

theorem tx_modTx_other {d e : Side} (l : Index) (f : TxLane → TxLane) (ne : e ≠ d) : (s.modTx d l f).tx e = s.tx e := by
  cases d <;> cases e <;> first | rfl | exact absurd rfl ne

@[simp] theorem tx_modCtx (g : Index) (f : Context → Context) : (s.modCtx g f).tx = s.tx := by funext d; cases d <;> rfl

@[simp] theorem tx_modPath (g : Index) (f : GroupPath → GroupPath) : (s.modPath g f).tx = s.tx := by
  funext d; cases d <;> rfl

/-- The lane named by port and lane number has that port. -/
@[simp] theorem portOf_cell (p : Fin 16) (j : Fin 4) : portOf (cell p j) = p := by
  apply Fin.ext; simp only [portOf, cell]; omega

/-- The lane named by port and lane number has that lane number. -/
@[simp] theorem laneOf_cell (p : Fin 16) (j : Fin 4) : laneOf (cell p j) = j := by
  apply Fin.ext; simp only [laneOf, cell]; omega

/-- Every lane index is that of its port and lane number. -/
@[simp] theorem cell_portOf_laneOf (l : Index) : cell (portOf l) (laneOf l) = l := by
  apply Fin.ext; simp only [portOf, laneOf, cell]; omega

theorem mem_indices (g : Index) : g ∈ indices := List.mem_finRange g

theorem Width.one_le_lanes (w : Width) : 1 ≤ w.lanes := by cases w <;> decide

theorem Width.lanes_le_four (w : Width) : w.lanes ≤ 4 := by cases w <;> decide

theorem one_le_boundWidth (g : Index) : 1 ≤ boundWidth s g := Width.one_le_lanes _

theorem boundWidth_le_four (g : Index) : boundWidth s g ≤ 4 := Width.lanes_le_four _

/-- A counter at n more than a counter at m more. -/
theorem satAdd_add {w : Nat} (c : BitVec w) (m n : Nat) : satAdd (satAdd c m) n = satAdd c (m + n) := by
  induction n with
  | zero => rfl
  | succ n ih => exact congrArg satInc ih

/-- An event of a part that is not in reset has its effect. -/
theorem unlessReset_running {s : State} (f : State → State) (h : s.inReset = false) : s.unlessReset f = .next (f s) := by
  rw [State.unlessReset, h]; rfl

/-- An event of a part in reset changes nothing. -/
theorem unlessReset_inReset {s : State} (f : State → State) (h : s.inReset = true) : s.unlessReset f = .next s := by
  rw [State.unlessReset, h]; rfl

end Sys2Proof.Machine
end

