-- ==== Sys2Proof/Laws/Scheduler.lean ====
section
/-! SUPPORT. The Probe Scheduler's operations, each said once: posting, abandonment, what the arbiter grants, and what its grants leave alone. -/

namespace Sys2Proof.Machine

/-! ## The request queue -/

/-- What of a request no grant changes. -/
def ProbeRequest.terms (r : ProbeRequest) : Index × RequestKind × Nat := (r.group, r.kind, r.rounds)

theorem mem_freeSlots {p : Psc} {k : Fin 8} : k ∈ freeSlots p ↔ (Tab.get p.slots k).state = .free := by
  simp [freeSlots]

theorem hasRequest_iff {q : List ProbeRequest} {g : Index} : hasRequest q g = true ↔ ∃ r ∈ q, r.group = g := by
  simp [hasRequest]

theorem hasRequest_false_iff {q : List ProbeRequest} {g : Index} : hasRequest q g = false ↔ ∀ r ∈ q, r.group ≠ g := by
  simp [hasRequest]

theorem findRequest_some {q : List ProbeRequest} {g : Index} {r : ProbeRequest} (h : findRequest q g = some r) :
    r ∈ q ∧ r.group = g :=
  ⟨List.mem_of_find?_eq_some h, by simpa using List.find?_some h⟩

/-- With one request per group, the request found for a group is the one in the queue. -/
theorem findRequest_of_mem {q : List ProbeRequest} {r : ProbeRequest} (nodup : (q.map ProbeRequest.group).Nodup) (mem : r ∈ q) :
    findRequest q r.group = some r := by
  induction q with
  | nil => simp at mem
  | cons x rest ih =>
    rw [List.map_cons, List.nodup_cons] at nodup
    rcases List.mem_cons.1 mem with rfl | mem'
    · simp [findRequest]
    · have ne : (x.group == r.group) = false := by
        simpa using fun e : x.group = r.group => nodup.1 (e ▸ List.mem_map_of_mem mem')
      have := ih nodup.2 mem'
      unfold findRequest at this ⊢
      rw [List.find?_cons, ne]
      exact this

/-- A change in place that keeps the groups keeps whether a group has a request. -/
theorem hasRequest_modRequest (q : List ProbeRequest) (g h : Index) (f : ProbeRequest → ProbeRequest)
    (keep : ∀ r, (f r).group = r.group) : hasRequest (modRequest q g f) h = hasRequest q h := by
  simp only [hasRequest, modRequest, List.any_map]
  congr 1
  funext r
  simp only [Function.comp]
  split <;> simp [keep]

theorem hasRequest_dropRequest (q : List ProbeRequest) (g h : Index) :
    hasRequest (dropRequest q g) h = (hasRequest q h && (h != g)) := by
  rw [Bool.eq_iff_iff]
  simp only [hasRequest_iff, dropRequest, List.mem_filter, bne_iff_ne, Bool.and_eq_true]
  constructor
  · rintro ⟨r, ⟨mem, ne⟩, rfl⟩
    exact ⟨⟨r, mem, rfl⟩, ne⟩
  · rintro ⟨⟨r, mem, rfl⟩, ne⟩
    exact ⟨r, ⟨mem, ne⟩, rfl⟩

/-! ## Grants -/

/-- What any grants leave of the scheduler: counter and clock, every slot that is not FREE, and the queue but for which requests
are in flight; the lock can only pass from no one to a request in the queue. -/
structure GrantsOnly (p q : Psc) : Prop where
  now : q.now = p.now
  late : q.late = p.late
  slots : ∀ k, (Tab.get p.slots k).state ≠ .free → Tab.get q.slots k = Tab.get p.slots k
  terms : q.queue.map ProbeRequest.terms = p.queue.map ProbeRequest.terms
  holder : q.holder = p.holder ∨ p.holder = none ∧ ∃ h, q.holder = some h ∧ ∃ r ∈ p.queue, r.group = h ∧ r.kind = .burst
  taken : ∀ k g, (Tab.get q.slots k).state.group = some g → (Tab.get p.slots k).state.group = some g
    ∨ ∃ r ∈ p.queue, r.group = g ∧ r.inFlight = false
  idle : ∀ r ∈ q.queue, r.inFlight = false → r ∈ p.queue
  flying : ∀ g, (∀ r ∈ p.queue, r.group = g → r.inFlight = true) →
    q.queue.filter (fun r => r.group == g) = p.queue.filter (fun r => r.group == g)

theorem mem_of_terms {p q : List ProbeRequest} (h : q.map ProbeRequest.terms = p.map ProbeRequest.terms) {r : ProbeRequest}
    (mem : r ∈ p) : ∃ r' ∈ q, r'.group = r.group ∧ r'.kind = r.kind ∧ r'.rounds = r.rounds := by
  have : r.terms ∈ q.map ProbeRequest.terms := h ▸ List.mem_map_of_mem mem
  obtain ⟨r', mem', eq⟩ := List.mem_map.1 this
  simp only [ProbeRequest.terms, Prod.mk.injEq] at eq
  exact ⟨r', mem', eq.1, eq.2.1, eq.2.2⟩

theorem GrantsOnly.refl (p : Psc) : GrantsOnly p p :=
  ⟨rfl, rfl, fun _ _ => rfl, rfl, .inl rfl, fun _ _ h => .inl h, fun _ h _ => h, fun _ _ => rfl⟩

/-- A slot taken is one that was FREE, or it is unchanged. -/
theorem takeSlot_cases (g : Index) (i : Fin 4) (slots : Tab Slot 8) (k : Fin 8) :
    Tab.get (takeSlot g i slots) k = Tab.get slots k
      ∨ (Tab.get slots k).state = .free
        ∧ Tab.get (takeSlot g i slots) k = { generation := (Tab.get slots k).generation + 1, state := .granted g i } := by
  unfold takeSlot
  split
  · next k' h =>
    rw [Tab.get_upd]
    split
    · next e =>
      subst e
      have := List.find?_some h
      exact .inr ⟨by simpa using this, rfl⟩
    · exact .inl rfl
  · exact .inl rfl

/-- Slots taken in turn: each is one that was FREE, or it is unchanged. -/
theorem takeFold_cases (g : Index) (is : List (Fin 4)) (slots : Tab Slot 8) (k : Fin 8) :
    Tab.get (is.foldl (fun t i => takeSlot g i t) slots) k = Tab.get slots k
      ∨ (Tab.get slots k).state = .free
        ∧ ∃ i ∈ is, Tab.get (is.foldl (fun t i => takeSlot g i t) slots) k
            = { generation := (Tab.get slots k).generation + 1, state := .granted g i } := by
  induction is generalizing slots with
  | nil => exact .inl rfl
  | cons i rest ih =>
    simp only [List.foldl_cons]
    rcases ih (takeSlot g i slots) with h | ⟨free, j, mem, h⟩
    · rw [h]
      rcases takeSlot_cases g i slots k with h' | ⟨free, h'⟩
      · exact .inl h'
      · exact .inr ⟨free, i, List.mem_cons_self, h'⟩
    · rcases takeSlot_cases g i slots k with h' | ⟨_, h'⟩
      · rw [h'] at free h
        exact .inr ⟨free, j, List.mem_cons_of_mem _ mem, h⟩
      · rw [h'] at free
        exact absurd free (by simp)

/-- The slots a round takes were FREE and hold one of its lane offsets; every other slot is unchanged. -/
theorem takeSlots_cases (g : Index) (W : Nat) (slots : Tab Slot 8) (k : Fin 8) :
    Tab.get (takeSlots g W slots) k = Tab.get slots k
      ∨ (Tab.get slots k).state = .free
        ∧ ∃ i : Fin 4, i.val < W ∧ Tab.get (takeSlots g W slots) k
            = { generation := (Tab.get slots k).generation + 1, state := .granted g i } := by
  rcases takeFold_cases g ((List.finRange 4).filter fun i => decide (i.val < W)) slots k with h | ⟨free, i, mem, h⟩
  · exact .inl h
  · exact .inr ⟨free, i, by simpa using (List.mem_filter.1 mem).2, h⟩

theorem modRequest_terms (q : List ProbeRequest) (g : Index) (f : ProbeRequest → ProbeRequest)
    (keep : ∀ r, (f r).terms = r.terms) : (modRequest q g f).map ProbeRequest.terms = q.map ProbeRequest.terms := by
  simp only [modRequest, List.map_map]
  apply List.map_congr_left
  intro r _
  simp only [Function.comp]
  split
  · exact keep r
  · rfl

/-- A candidate stands in the queue and is not in flight (R113). -/
theorem candidate_mem {p : Psc} {c : ProbeRequest} (h : candidate p = some c) : c ∈ p.queue ∧ c.inFlight = false := by
  unfold candidate at h
  split at h
  · next r hr =>
    cases h
    have := List.find?_some hr
    exact ⟨List.mem_of_find?_eq_some hr, by simpa using (Bool.and_eq_true_iff.1 this).2⟩
  · split at h
    · next r hr =>
      cases h
      have := List.find?_some hr
      exact ⟨List.mem_of_find?_eq_some hr, by simpa using (Bool.and_eq_true_iff.1 this).2⟩
    · exact ⟨List.mem_of_find?_eq_some h, by simpa using List.find?_some h⟩

theorem filter_modRequest_ne (q : List ProbeRequest) {g h : Index} (f : ProbeRequest → ProbeRequest) (ne : h ≠ g)
    (keep : ∀ r, (f r).group = r.group) :
    (modRequest q g f).filter (fun r => r.group == h) = q.filter fun r => r.group == h := by
  induction q with
  | nil => rfl
  | cons x rest ih =>
    simp only [modRequest, List.map_cons] at ih ⊢
    by_cases e : x.group = g
    · have : (g == h) = false := by simpa using ne.symm
      simp [e, keep, this, ih]
    · simp only [e, if_false, List.filter_cons, ih]

/-- One grant (R116, R118). -/
theorem GrantsOnly.grantRound {p : Psc} {c : ProbeRequest} (mem : c ∈ p.queue) (idle : c.inFlight = false) (W : Nat) :
    GrantsOnly p (grantRound W c p) where
  now := rfl
  late := rfl
  slots k used := by
    rcases takeSlots_cases c.group W p.slots k with h | ⟨free, _⟩
    · exact h
    · exact absurd free used
  terms := modRequest_terms _ _ _ fun _ => rfl
  holder := by
    simp only [Machine.grantRound]
    split
    · next h => exact .inr ⟨h.2, c.group, rfl, c, mem, rfl, h.1⟩
    · exact .inl rfl
  taken k g h := by
    rcases takeSlots_cases c.group W p.slots k with e | ⟨_, i, _, e⟩
    · left
      rw [← e]
      exact h
    · right
      have : (Tab.get (Machine.grantRound W c p).slots k).state = .granted c.group i := congrArg Slot.state e
      rw [this] at h
      exact ⟨c, mem, by simpa [SlotState.group] using h, idle⟩
  idle r hr free := by
    simp only [Machine.grantRound, modRequest, List.mem_map] at hr
    obtain ⟨x, hx, rfl⟩ := hr
    split at free
    · simp at free
    · next ne => simpa [ne] using hx
  flying g all := by
    have ne : g ≠ c.group := fun e => by simpa [idle] using all c mem e.symm
    exact filter_modRequest_ne _ _ ne fun _ => rfl

theorem GrantsOnly.trans {p q r : Psc} (a : GrantsOnly p q) (b : GrantsOnly q r) : GrantsOnly p r where
  now := b.now.trans a.now
  late := b.late.trans a.late
  slots k used := by
    have e := a.slots k used
    rw [b.slots k (by rw [e]; exact used), e]
  terms := b.terms.trans a.terms
  holder := by
    rcases b.holder with e | ⟨none', h, e, x, mem, rfl, kind⟩
    · rw [e]
      exact a.holder
    · right
      obtain ⟨y, hy, g, k, _⟩ := mem_of_terms a.terms.symm mem
      refine ⟨?_, x.group, e, y, hy, g, k.trans kind⟩
      rcases a.holder with e' | ⟨_, _, e', _⟩
      · rw [← e', none']
      · rw [e'] at none'
        exact absurd none' (by simp)
  taken k g h := by
    rcases b.taken k g h with h' | ⟨x, mem, hg, free⟩
    · exact a.taken k g h'
    · exact .inr ⟨x, a.idle x mem free, hg, free⟩
  idle x mem free := a.idle x (b.idle x mem free) free
  flying g all := by
    have e := a.flying g all
    rw [b.flying g, e]
    intro x mem hg
    have : x ∈ q.queue.filter fun r => r.group == g := List.mem_filter.2 ⟨mem, by simpa using hg⟩
    rw [e] at this
    exact all x (List.mem_filter.1 this).1 hg

/-- The arbiter's grants (R112). -/
theorem GrantsOnly.grantLoop (width : Index → Nat) (n : Nat) (p : Psc) : GrantsOnly p (grantLoop width n p) := by
  induction n generalizing p with
  | zero => exact .refl p
  | succ n ih =>
    unfold Machine.grantLoop
    split
    · exact .refl p
    · next c hc =>
      split
      · exact (GrantsOnly.grantRound (candidate_mem hc).1 (candidate_mem hc).2 _).trans (ih _)
      · exact .refl p

theorem GrantsOnly.grant (s : State) : GrantsOnly s.psc s.grant.psc := .grantLoop _ _ _

/-- A settled arbiter grants nothing. -/
theorem grantLoop_settled (width : Index → Nat) (p : Psc) (settled : ∀ c, candidate p = some c → grantable width p c = false)
    (n : Nat) : grantLoop width n p = p := by
  cases n with
  | zero => rfl
  | succ n =>
    unfold grantLoop
    split
    · rfl
    · next c hc => simp [settled c hc]

/-- No requests of a group and none of its probes outstanding before the grants: none after them. -/
theorem GrantsOnly.noWork {p q : Psc} (h : GrantsOnly p q) {g : Index} (queue : hasRequest p.queue g = false)
    (slots : ∀ k, (Tab.get p.slots k).state.group ≠ some g) (holder : p.holder ≠ some g) :
    hasRequest q.queue g = false ∧ (∀ k, (Tab.get q.slots k).state.group ≠ some g) ∧ q.holder ≠ some g := by
  rw [hasRequest_false_iff] at queue ⊢
  refine ⟨fun r mem e => ?_, fun k e => ?_, fun e => ?_⟩
  · obtain ⟨x, mem', g', _⟩ := mem_of_terms h.terms.symm mem
    exact queue x mem' (g'.trans e)
  · rcases h.taken k g e with e' | ⟨r, mem, e', _⟩
    · exact slots k e'
    · exact queue r mem e'
  · rcases h.holder with e' | ⟨_, x, e', r, mem, rfl, _⟩
    · exact holder (e'.symm.trans e)
    · rw [e'] at e
      exact queue r mem (by simpa using e)

/-! ## What the arbiter does -/

theorem find?_eq_some_iff_earliest {q : List ProbeRequest} {test : ProbeRequest → Bool} {has : ProbeRequest → Prop} {c : ProbeRequest}
    (same : ∀ r, test r = true ↔ has r) : q.find? test = some c ↔ Earliest q has c := by
  rw [List.find?_eq_some_iff_append]
  constructor
  · rintro ⟨holds, ahead, behind, e, fails⟩
    exact ⟨ahead, behind, e, (same c).1 holds, fun r m yes => by simpa [(same r).2 yes] using fails r m⟩
  · rintro ⟨ahead, behind, e, holds, fails⟩
    exact ⟨(same c).2 holds, ahead, behind, e, fun r m => by simpa using fun yes => fails r m ((same r).1 yes)⟩

theorem find?_eq_none_iff_has {q : List ProbeRequest} {test : ProbeRequest → Bool} {has : ProbeRequest → Prop}
    (same : ∀ r, test r = true ↔ has r) : q.find? test = none ↔ ∀ r ∈ q, ¬has r := by
  simp [List.find?_eq_none, ← same]

theorem Earliest.not_none {q : List ProbeRequest} {has : ProbeRequest → Prop} {c : ProbeRequest} (h : Earliest q has c) :
    ¬∀ r ∈ q, ¬has r := by
  obtain ⟨ahead, behind, rfl, holds, _⟩ := h
  exact fun none => none c (by simp) holds

/-- The candidate is the one of R113. -/
theorem candidate_eq_some_iff {p : Psc} {c : ProbeRequest} : candidate p = some c ↔ IsCandidate p c := by
  have urgent : ∀ r : ProbeRequest, ((r.kind == .urgent) && !r.inFlight) = true ↔ r.kind = .urgent ∧ r.inFlight = false := by simp
  have holder : ∀ r : ProbeRequest, ((some r.group == p.holder) && !r.inFlight) = true
      ↔ p.holder = some r.group ∧ r.inFlight = false := fun r => by
    rw [Bool.and_eq_true, beq_iff_eq, Bool.not_eq_true']
    exact and_congr_left fun _ => eq_comm
  have waits : ∀ r : ProbeRequest, (!r.inFlight) = true ↔ r.inFlight = false := by simp
  unfold candidate IsCandidate
  split
  · next r hr =>
    have first := (find?_eq_some_iff_earliest urgent).1 hr
    rw [← hr, find?_eq_some_iff_earliest urgent]
    exact ⟨.inl, fun h => h.elim id fun no => absurd no.1 first.not_none⟩
  · next hr =>
    have none := (find?_eq_none_iff_has urgent).1 hr
    split
    · next r' hr' =>
      have first := (find?_eq_some_iff_earliest holder).1 hr'
      rw [← hr', find?_eq_some_iff_earliest holder]
      exact ⟨fun h => .inr ⟨none, .inl h⟩,
        fun h => h.elim (fun e => absurd none e.not_none) fun x => x.2.elim id fun no => absurd no.1 first.not_none⟩
    · next hr' =>
      have none' := (find?_eq_none_iff_has holder).1 hr'
      rw [find?_eq_some_iff_earliest waits]
      exact ⟨fun h => .inr ⟨none, .inr ⟨none', h⟩⟩,
        fun h => h.elim (fun e => absurd none e.not_none) fun x => x.2.elim (fun e => absurd none' e.not_none) And.right⟩

theorem flying_of_no_candidate {p : Psc} (h : candidate p = none) : ∀ r ∈ p.queue, r.inFlight = true := by
  unfold candidate at h
  split at h
  · cases h
  · split at h
    · cases h
    · intro r m
      simpa using List.find?_eq_none.1 h r m

/-- The grant test is the one of R114. -/
theorem grantable_iff (width : Index → Nat) (p : Psc) (c : ProbeRequest) : grantable width p c = true ↔ SlotsSuffice width p c := by
  unfold grantable SlotsSuffice reservation
  change decide (_ ≤ (freeSlots p).length) = true ↔ width c.group ≤ (freeSlots p).length ∧ _
  rw [decide_eq_true_iff]
  rcases p.holder with _ | h
  · simp
  · simp only [Option.some.injEq, forall_eq']
    by_cases reserved : h ≠ c.group ∧ c.kind ≠ .urgent ∧ p.queue.any (fun r => (r.group == h) && r.inFlight) = true
    · have flies : ∃ r ∈ p.queue, r.group = h ∧ r.inFlight = true := by simpa using reserved.2.2
      rw [if_pos reserved]
      exact ⟨fun le => ⟨by omega, fun _ _ _ => le⟩, fun le => le.2 flies reserved.1 reserved.2.1⟩
    · rw [if_neg reserved]
      refine ⟨fun le => ⟨by omega, fun flies ne kind => absurd ⟨ne, kind, ?_⟩ reserved⟩, fun le => by omega⟩
      simpa using flies

/-- A settled arbiter is one whose candidate, if there is one, is blocked (R115). -/
theorem grantsSettled_iff (s : State) : GrantsSettled s ↔ ∀ c, IsCandidate s.psc c → ¬SlotsSuffice (boundWidth s) s.psc c := by
  unfold GrantsSettled
  simp only [candidate_eq_some_iff, ← grantable_iff, Bool.not_eq_true]
/-- The slots left FREE once the lowest is taken. -/
theorem takeSlot_free {slots : Tab Slot 8} {k : Fin 8} {rest : List (Fin 8)} (g : Index) (i : Fin 4)
    (free : (List.finRange 8).filter (fun k => (Tab.get slots k).state == .free) = k :: rest) :
    takeSlot g i slots = Tab.upd slots k (fun sl => { generation := sl.generation + 1, state := .granted g i })
      ∧ (List.finRange 8).filter (fun k => (Tab.get (takeSlot g i slots) k).state == .free) = rest := by
  have first : (List.finRange 8).find? (fun k => (Tab.get slots k).state == .free) = some k := by
    rw [← List.head?_filter, free]
    rfl
  have taken : takeSlot g i slots
      = Tab.upd slots k (fun sl => { generation := sl.generation + 1, state := .granted g i }) := by
    unfold takeSlot
    rw [first]
  refine ⟨taken, ?_⟩
  have distinct : (k :: rest).Nodup := free ▸ (List.nodup_finRange 8).filter _
  have left : (fun x => (Tab.get (takeSlot g i slots) x).state == SlotState.free)
      = fun x => decide (x ≠ k) && ((Tab.get slots x).state == .free) := by
    funext x
    rw [taken, Tab.get_upd]
    by_cases e : x = k
    · subst e; simp
    · simp [e]
  rw [left, ← List.filter_filter, free, List.filter_cons]
  simp only [ne_eq, not_true_eq_false, decide_false, Bool.false_eq_true, if_false]
  exact List.filter_eq_self.2 fun x m => by simpa using fun e : x = k => (List.nodup_cons.1 distinct).1 (e ▸ m)

/-- Slots taken in turn are the lowest FREE ones, in order. -/
theorem takeFold_lowest (g : Index) (is : List (Fin 4)) (slots : Tab Slot 8)
    (enough : is.length ≤ ((List.finRange 8).filter fun k => (Tab.get slots k).state == .free).length) :
    let free := (List.finRange 8).filter fun k => (Tab.get slots k).state == .free
    let after := is.foldl (fun t i => takeSlot g i t) slots
    (∀ (n : Nat) i k, is[n]? = some i → free[n]? = some k →
      Tab.get after k = { generation := (Tab.get slots k).generation + 1, state := .granted g i })
    ∧ ∀ k, k ∉ free.take is.length → Tab.get after k = Tab.get slots k := by
  induction is generalizing slots with
  | nil => exact ⟨fun n i k h => by simp at h, fun k _ => rfl⟩
  | cons j js ih =>
    simp only
    cases fr : (List.finRange 8).filter fun k => (Tab.get slots k).state == .free with
    | nil => rw [fr] at enough; simp at enough
    | cons k0 rest =>
      obtain ⟨taken, left⟩ := takeSlot_free g j fr
      have := ih (takeSlot g j slots) (by rw [left]; rw [fr] at enough; simpa using enough)
      rw [left] at this
      obtain ⟨inTurn, others⟩ := this
      have distinct : (k0 :: rest).Nodup := fr ▸ (List.nodup_finRange 8).filter _
      have k0rest := (List.nodup_cons.1 distinct).1
      simp only [List.foldl_cons]
      constructor
      · intro n i k hi hk
        cases n with
        | zero =>
          simp only [List.getElem?_cons_zero, Option.some.injEq] at hi hk
          subst hi; subst hk
          rw [others _ fun m => k0rest (List.mem_of_mem_take m), taken, Tab.get_upd, if_pos rfl]
        | succ n =>
          simp only [List.getElem?_cons_succ] at hi hk
          have ne : k0 ≠ k := fun e => k0rest (e ▸ List.mem_of_getElem? hk)
          rw [inTurn n i k hi hk, taken, Tab.get_upd]
          simp [ne.symm]
      · intro k out
        rw [List.length_cons, List.take_succ_cons, List.mem_cons, not_or] at out
        rw [others k out.2, taken, Tab.get_upd]
        simp [out.1]

/-- A grant is the one of R116 and R118, for a width of at most four lanes that the FREE slots hold. -/
theorem roundGranted_grantRound {W : Nat} {p : Psc} (c : ProbeRequest) (lanes : W ≤ 4) (enough : W ≤ (freeSlots p).length) :
    RoundGranted W c p (grantRound W c p) := by
  have offsets : (List.finRange 4).filter (fun i => decide (i.val < W)) = (List.finRange 4).take W := by
    interval_cases W <;> decide
  have length : ((List.finRange 4).take W).length = W := by simp [lanes]
  obtain ⟨inTurn, others⟩ := takeFold_lowest c.group ((List.finRange 4).take W) p.slots (by rw [length]; exact enough)
  have slots : (grantRound W c p).slots = ((List.finRange 4).take W).foldl (fun t i => takeSlot c.group i t) p.slots := by
    rw [← offsets]
    rfl
  refine ⟨rfl, rfl, rfl, rfl, fun i k small free => ?_, fun k out => ?_⟩
  · rw [slots]
    exact inTurn i.val i k (by rw [List.getElem?_take_of_lt small]; simp) free
  · rw [slots]
    exact others k (by rw [length]; exact out)

theorem boundWidth_lanes (s : State) (g : Index) : 1 ≤ boundWidth s g ∧ boundWidth s g ≤ 4 := by
  unfold boundWidth
  cases (s.ctx g).bound.elim Width.one PlanFields.width <;> decide

/-- A grant takes as many FREE slots as the round has lanes. -/
theorem freeSlots_grantRound {W : Nat} {p : Psc} (c : ProbeRequest) (lanes : 1 ≤ W ∧ W ≤ 4) (enough : W ≤ (freeSlots p).length) :
    (freeSlots (grantRound W c p)).length < (freeSlots p).length := by
  have round := roundGranted_grantRound c lanes.2 enough
  obtain ⟨k, rest, e⟩ := List.exists_cons_of_length_pos (l := freeSlots p) (by omega)
  have free : k ∈ freeSlots p := by rw [e]; exact List.mem_cons_self
  have taken : (Tab.get (grantRound W c p).slots k).state = .granted c.group 0 := by
    rw [round.taken 0 k (Nat.lt_of_lt_of_le Nat.one_pos lanes.1) (show (freeSlots p)[0]? = some k by rw [e]; rfl)]
  have sub : freeSlots (grantRound W c p) ⊆ rest := by
    intro x m
    rw [mem_freeSlots] at m
    rcases takeSlots_cases c.group W p.slots x with same | ⟨_, i, _, granted⟩
    · have before : x ∈ freeSlots p := mem_freeSlots.2 (by rw [← same]; exact m)
      rw [e] at before
      rcases List.mem_cons.1 before with rfl | later
      · rw [taken] at m; cases m
      · exact later
    · have : (Tab.get (grantRound W c p).slots x).state = .granted c.group i := congrArg Slot.state granted
      rw [this] at m; cases m
  have distinct : (freeSlots (grantRound W c p)).Nodup := (List.nodup_finRange 8).filter _
  rw [e]
  exact Nat.lt_succ_of_le (distinct.subperm sub).length_le

/-- The arbiter makes the grant attempts of R112 to R116, for widths of one to four lanes. -/
theorem grantsMade_grantLoop {width : Index → Nat} (lanes : ∀ g, 1 ≤ width g ∧ width g ≤ 4) (n : Nat) (p : Psc)
    (fuel : (freeSlots p).length ≤ n) : GrantsMade width p (grantLoop width n p) := by
  induction n generalizing p with
  | zero =>
    cases h : candidate p with
    | none => exact .none (flying_of_no_candidate h)
    | some c =>
      refine .blocked (candidate_eq_some_iff.1 h) fun passes => ?_
      have enough : width c.group ≤ (freeSlots p).length := passes.1
      have := (lanes c.group).1
      omega
  | succ n ih =>
    unfold grantLoop
    split
    · next h => exact .none (flying_of_no_candidate h)
    · next c h =>
      have is := candidate_eq_some_iff.1 h
      split
      · next test =>
        have passes := (grantable_iff width p c).1 test
        have enough : width c.group ≤ (freeSlots p).length := passes.1
        have := freeSlots_grantRound c (lanes c.group) enough
        exact .granted is passes (roundGranted_grantRound c (lanes c.group).2 enough) (ih _ (by omega))
      · next test => exact .blocked is fun passes => test ((grantable_iff width p c).2 passes)

/-- What the arbiter does at the end of an event (R112 to R116, R118). -/
theorem grantsMade_grant (s : State) : GrantsMade (boundWidth s) s.psc s.grant.psc :=
  grantsMade_grantLoop (boundWidth_lanes s) 8 s.psc
    ((List.length_filter_le _ _).trans (by simp))

/-! ## Abandonment -/

/-- After abandonment a group has no probe work (R126). -/
theorem abandonProbes_noWork (g : Index) (p : Psc) :
    hasRequest (abandonProbes g p).queue g = false ∧ (∀ k, (Tab.get (abandonProbes g p).slots k).state.group ≠ some g)
      ∧ (abandonProbes g p).holder ≠ some g := by
  refine ⟨?_, fun k => ?_, ?_⟩
  · simp [abandonProbes, hasRequest_dropRequest]
  · simp only [abandonProbes, Tab.get_map, Slot.freeIf]
    split
    · simp [SlotState.group]
    · assumption
  · simp only [abandonProbes, releaseHolder]
    split <;> simp_all

/-- Abandonment leaves every probe of another group. -/
theorem abandonProbes_slots {g h : Index} (ne : h ≠ g) {p : Psc} {k : Fin 8} (e : (Tab.get p.slots k).state.group = some h) :
    Tab.get (abandonProbes g p).slots k = Tab.get p.slots k := by
  simp only [abandonProbes, Tab.get_map, Slot.freeIf, e]
  simp [ne]

/-- Abandonment leaves every request of another group. -/
theorem abandonProbes_queue (g : Index) (p : Psc) :
    (abandonProbes g p).queue.filter (fun r => r.group != g) = p.queue.filter fun r => r.group != g := by
  simp [abandonProbes, dropRequest, List.filter_filter]

/-! ## Posting -/

/-- A posting leaves every request of another group. -/
theorem postRequest_queue (g : Index) (kind : RequestKind) (n : Nat) (p : Psc) :
    (postRequest g kind n p).queue.filter (fun r => r.group != g) = p.queue.filter fun r => r.group != g := by
  have keep : ∀ q : List ProbeRequest, (modRequest q g ProbeRequest.upgrade).filter (fun r => r.group != g)
      = q.filter fun r => r.group != g := by
    intro q
    induction q with
    | nil => rfl
    | cons x rest ih =>
      simp only [modRequest, List.map_cons] at ih ⊢
      by_cases e : x.group = g
      · have : (ProbeRequest.upgrade x).group = x.group := by unfold ProbeRequest.upgrade; split <;> rfl
        simp [e, this, ih]
      · simp [e, ih]
  unfold postRequest
  split
  · cases kind
    · rfl
    · rfl
    · exact keep _
  · simp [newRequest]

theorem postRequest_slots (g : Index) (kind : RequestKind) (n : Nat) (p : Psc) :
    (postRequest g kind n p).slots = p.slots := by
  unfold postRequest
  split
  · cases kind <;> rfl
  · rfl

theorem postRequest_rest (g : Index) (kind : RequestKind) (n : Nat) (p : Psc) :
    (postRequest g kind n p).now = p.now ∧ (postRequest g kind n p).late = p.late
      ∧ (postRequest g kind n p).holder = p.holder := by
  unfold postRequest
  split
  · cases kind <;> exact ⟨rfl, rfl, rfl⟩
  · exact ⟨rfl, rfl, rfl⟩

/-- A posting for a group with no request places it at the tail (R110). -/
theorem postRequest_new {g : Index} {kind : RequestKind} {n : Nat} {p : Psc} (h : hasRequest p.queue g = false) :
    postRequest g kind n p = { p with queue := p.queue ++ [newRequest g kind n] } := by
  simp [postRequest, h]

end Sys2Proof.Machine
end

