-- ==== Sys2Proof/Laws/Frames.lean ====
section
/-! SUPPORT. What the shared operations on the Frame Steering Unit, the scheduler and the notices leave alone: each keeps the blocks and the
receiving side, and touches one group. -/

namespace Sys2Proof.Machine

/-! ## The frames compose -/

theorem BlocksKept.refl (s : State) : BlocksKept s s := ⟨rfl, rfl, rfl, rfl, rfl, rfl, rfl, rfl, rfl, rfl⟩

theorem BlocksKept.trans {s t u : State} (a : BlocksKept s t) (b : BlocksKept t u) : BlocksKept s u :=
  ⟨b.1.trans a.1, b.2.trans a.2, b.3.trans a.3, b.4.trans a.4, b.5.trans a.5, b.6.trans a.6, b.7.trans a.7, b.8.trans a.8,
    b.9.trans a.9, b.10.trans a.10⟩

theorem ReceiveKept.refl (s : State) : ReceiveKept s s := ⟨rfl, rfl, rfl, rfl, rfl⟩

theorem ReceiveKept.trans {s t u : State} (a : ReceiveKept s t) (b : ReceiveKept t u) : ReceiveKept s u :=
  ⟨b.1.trans a.1, b.2.trans a.2, b.3.trans a.3, b.4.trans a.4, b.5.trans a.5⟩

theorem OthersKept.refl (g : Index) (s : State) : OthersKept g s s :=
  ⟨fun _ _ => rfl, fun _ _ => rfl, fun _ _ => rfl, fun _ => rfl, fun _ _ _ _ => rfl, rfl, rfl⟩

theorem OthersKept.trans {g : Index} {s t u : State} (a : OthersKept g s t) (b : OthersKept g t u) : OthersKept g s u where
  contexts h ne := (b.contexts h ne).trans (a.contexts h ne)
  paths h ne := (b.paths h ne).trans (a.paths h ne)
  content d l := (b.content d l).trans (a.content d l)
  holds l := (b.holds l).trans (a.holds l)
  probes k h ne e := by
    have e' := a.probes k h ne e
    rw [b.probes k h ne (by rw [e']; exact e), e']
  requests := b.requests.trans a.requests
  notices := b.notices.trans a.notices

/-- What an operation at group g alone keeps. -/
structure EventAt (g : Index) (s t : State) : Prop where
  blocks : BlocksKept s t
  receive : ReceiveKept s t
  others : OthersKept g s t

theorem EventAt.refl (g : Index) (s : State) : EventAt g s s := ⟨.refl s, .refl s, .refl g s⟩

theorem EventAt.trans {g : Index} {s t u : State} (a : EventAt g s t) (b : EventAt g t u) : EventAt g s u :=
  ⟨a.1.trans b.1, a.2.trans b.2, a.3.trans b.3⟩

/-! ## Contexts and FSU parts -/

theorem EventAt.modCtx (s : State) (g : Index) (f : Context → Context) : EventAt g s (s.modCtx g f) where
  blocks := ⟨rfl, rfl, rfl, rfl, rfl, rfl, rfl, rfl, rfl, rfl⟩
  receive := ⟨rfl, rfl, rfl, rfl, rfl⟩
  others :=
    { contexts := fun _ ne => ctx_modCtx_ne s f ne
      paths := fun _ _ => rfl
      content := fun d l => by rw [tx_modCtx]
      holds := fun _ => rfl
      probes := fun _ _ _ _ => rfl
      requests := rfl
      notices := rfl }

theorem EventAt.modPath (s : State) (g : Index) (f : GroupPath → GroupPath) : EventAt g s (s.modPath g f) where
  blocks := ⟨rfl, rfl, rfl, rfl, rfl, rfl, rfl, rfl, rfl, rfl⟩
  receive := ⟨rfl, rfl, rfl, rfl, rfl⟩
  others :=
    { contexts := fun _ _ => rfl
      paths := fun _ ne => path_modPath_ne s f ne
      content := fun d l => by rw [tx_modPath]
      holds := fun _ => rfl
      probes := fun _ _ _ _ => rfl
      requests := rfl
      notices := rfl }

/-! ## The gate -/

/-- A cut takes the frames not kept out of a transmit lane and leaves the others in their order (R15). -/
theorem TxLane.content_cut (keep : DataFrame → Bool) (x : TxLane) :
    (x.cut keep).content = x.content.filter (TxFrame.kept keep) := by
  have h : (x.buffer.filter keep).map TxFrame.data = (x.buffer.map TxFrame.data).filter (TxFrame.kept keep) := by
    rw [List.filter_map]
    congr 1
  unfold TxLane.content TxLane.cut
  rw [List.filter_append, ← h]
  congr 1
  cases hu : x.underWay with
  | none => rfl
  | some f =>
    cases f with
    | data f => cases hk : keep f <;> simp [TxFrame.kept, hk]
    | probe b => rfl
    | echo b => rfl
    | response b => rfl

/-- The data frames of group g that a gate admits, and every frame of another group. -/
def gateKeeps (s : State) (g : Index) (gate : GateState) (profile : Option (Fin 8)) (f : DataFrame) : Bool :=
  (f.group != g) || admits s.cpt gate (profile.getD (s.path g).profile) (trafficClass f.lead)

theorem writeGate_eq (s : State) (g : Index) (gate : GateState) (profile : Option (Fin 8)) :
    s.writeGate g gate profile
      = ({ s.modPath g (fun p => { p with gate := gate, profile := profile.getD p.profile }) with
          fsu := (s.modPath g fun p => { p with gate := gate, profile := profile.getD p.profile }).fsu.cut
            (gateKeeps s g gate profile) }).countFenced g (cutTotal (gateKeeps s g gate profile) s.fsu) := by
  unfold State.writeGate gateKeeps
  simp only [path_modPath_same, cpt_modPath]
  rfl

@[simp] theorem notices_writeGate (s : State) (g : Index) (gate : GateState) (profile : Option (Fin 8)) :
    (s.writeGate g gate profile).notices = s.notices := by
  rw [writeGate_eq]
  simp

/-- After a gate write each lane carries what the gate keeps (R15). -/
theorem content_writeGate (s : State) (g : Index) (gate : GateState) (profile : Option (Fin 8)) (d : Side) (l : Index) :
    (Tab.get ((s.writeGate g gate profile).tx d) l).content
      = (Tab.get (s.tx d) l).content.filter (TxFrame.kept (gateKeeps s g gate profile)) := by
  rw [writeGate_eq]
  cases d with
  | line =>
    simp only [State.tx, fsu_lineTx_countFenced, Fsu.cut, Tab.get_map, fsu_lineTx_modPath]
    exact TxLane.content_cut _ _
  | system =>
    simp only [State.tx, fsu_systemTx_countFenced, Fsu.cut, Tab.get_build, fsu_systemTx_modPath]
    exact TxLane.content_cut _ _

theorem holds_writeGate (s : State) (g : Index) (gate : GateState) (profile : Option (Fin 8)) (l : Index) :
    Tab.get (s.writeGate g gate profile).fsu.holds l
      = (Tab.get s.fsu.holds l).filter fun h => gateKeeps s g gate profile h.frame := by
  rw [writeGate_eq]
  simp [Fsu.cut]

theorem path_countFenced (s : State) (g : Index) (n : Nat) :
    (s.countFenced g n).path g = { s.path g with fenced := satAdd (s.path g).fenced n } := path_modPath_same _ _ _

theorem path_countFenced_ne (s : State) {g h : Index} (n : Nat) (ne : h ≠ g) : (s.countFenced g n).path h = s.path h :=
  path_modPath_ne _ _ ne

/-- A cut changes no gate, map, compensation or counter. -/
theorem path_cut (s : State) (keep : DataFrame → Bool) (h : Index) :
    ({ s with fsu := s.fsu.cut keep } : State).path h = s.path h := by
  unfold State.path Fsu.cut
  rfl

theorem path_writeGate (s : State) (g : Index) (gate : GateState) (profile : Option (Fin 8)) :
    (s.writeGate g gate profile).path g
      = { s.path g with
          gate := gate
          profile := profile.getD (s.path g).profile
          fenced := satAdd (s.path g).fenced (cutTotal (gateKeeps s g gate profile) s.fsu) } := by
  rw [writeGate_eq, path_countFenced, path_cut, path_modPath_same]

theorem path_writeGate_ne (s : State) {g h : Index} (gate : GateState) (profile : Option (Fin 8)) (ne : h ≠ g) :
    (s.writeGate g gate profile).path h = s.path h := by
  rw [writeGate_eq, path_countFenced_ne _ _ ne, path_cut, path_modPath_ne _ _ ne]

theorem filter_notOf_kept (s : State) (g : Index) (gate : GateState) (profile : Option (Fin 8)) (l : List TxFrame) :
    (l.filter (TxFrame.kept (gateKeeps s g gate profile))).filter (TxFrame.notOf g) = l.filter (TxFrame.notOf g) := by
  rw [List.filter_filter]
  congr 1
  funext f
  cases f <;> simp [TxFrame.notOf, TxFrame.kept, gateKeeps]
  exact fun ne => .inl ne

/-- Each field of the state a gate write does not touch. -/
theorem writeGate_rest (s : State) (g : Index) (gate : GateState) (profile : Option (Fin 8)) :
    (s.writeGate g gate profile).buc = s.buc ∧ (s.writeGate g gate profile).psc = s.psc
      ∧ (s.writeGate g gate profile).ers = s.ers ∧ (s.writeGate g gate profile).notices = s.notices
      ∧ BlocksKept s (s.writeGate g gate profile) ∧ ReceiveKept s (s.writeGate g gate profile) := by
  rw [writeGate_eq]
  exact ⟨rfl, rfl, rfl, rfl, ⟨rfl, rfl, rfl, rfl, rfl, rfl, rfl, rfl, rfl, rfl⟩, ⟨rfl, rfl, rfl, rfl, rfl⟩⟩

theorem EventAt.writeGate (s : State) (g : Index) (gate : GateState) (profile : Option (Fin 8)) :
    EventAt g s (s.writeGate g gate profile) := by
  obtain ⟨buc, psc, ers, notices, blocks, receive⟩ := writeGate_rest s g gate profile
  refine ⟨blocks, receive, ?_⟩
  exact
    { contexts := fun h _ => by unfold State.ctx; rw [buc]
      paths := fun h ne => path_writeGate_ne s gate profile ne
      content := fun d l => by rw [content_writeGate, filter_notOf_kept]
      holds := fun l => by
        rw [holds_writeGate, List.filter_filter]
        congr 1
        funext x
        by_cases e : x.frame.group = g <;> simp [gateKeeps, e]
      probes := fun k h _ _ => by rw [psc]
      requests := by rw [psc]
      notices := by rw [notices] }

/-! ## The cut -/

theorem TxLane.cutCount_eq (keep : DataFrame → Bool) (x : TxLane) :
    x.cutCount keep = (x.content.filter fun f => !f.kept keep).length := by
  have h : (x.buffer.map TxFrame.data).filter (fun f => !f.kept keep) = (x.buffer.filter fun f => !keep f).map TxFrame.data := by
    rw [List.filter_map]
    rfl
  unfold TxLane.cutCount TxLane.content
  rw [List.filter_append, List.length_append, h, List.length_map, Nat.add_comm]
  congr 1
  cases x.underWay with
  | none => rfl
  | some f =>
    cases f with
    | data f => cases hk : keep f <;> simp [TxFrame.kept, hk]
    | probe b => rfl
    | echo b => rfl
    | response b => rfl

/-- The cut record of a lane: its cut frames, newest first, each with an abort mark (R15). -/
theorem TxLane.sent_cut (keep : DataFrame → Bool) (x : TxLane) :
    (x.cut keep).sent = ((x.content.filter fun f => !f.kept keep).reverse.map fun f => (f, FrameEnd.aborted)) ++ x.sent := by
  have h : (x.buffer.map TxFrame.data).filter (fun f => !f.kept keep) = (x.buffer.filter fun f => !keep f).map TxFrame.data := by
    rw [List.filter_map]
    rfl
  unfold TxLane.cut TxLane.content
  simp only [List.filter_append, List.reverse_append, List.map_append, h]
  congr 2
  · rw [← List.map_reverse, List.map_map]
    rfl
  · cases x.underWay with
    | none => rfl
    | some f =>
      cases f with
      | data f => cases hk : keep f <;> simp [TxFrame.kept, hk]
      | probe b => rfl
      | echo b => rfl
      | response b => rfl

theorem cutTotal_eq (keep : DataFrame → Bool) (fsu : Fsu) :
    cutTotal keep fsu = (indices.map fun l =>
        ((Tab.get fsu.lineTx l).content.filter fun f => !f.kept keep).length
          + ((Tab.get fsu.systemTx l).content.filter fun f => !f.kept keep).length
          + ((Tab.get fsu.holds l).filter fun h => !keep h.frame).length).sum := by
  have held : (heldCutFrames keep fsu).length = (indices.map fun l => ((Tab.get fsu.holds l).filter fun h => !keep h.frame).length).sum := by
    simp [heldCutFrames, cutHeld, Tab.list_eq, indices, List.flatMap_map, List.length_flatMap]
  have lanes : ∀ t : Tab TxLane 64, ((Tab.list t).map (TxLane.cutCount keep)).sum
      = (indices.map fun l => ((Tab.get t l).content.filter fun f => !f.kept keep).length).sum := fun t => by
    simp [Tab.list_eq, indices, Function.comp_def, TxLane.cutCount_eq]
  rw [List.sum_map_add, List.sum_map_add, ← held, ← lanes, ← lanes]
  rfl

/-- A gate write cuts the frames under way that the gate does not keep (R15). -/
theorem framesCut_writeGate (s : State) (g : Index) (gate : GateState) (profile : Option (Fin 8)) :
    FramesCut g (gateKeeps s g gate profile) s (s.writeGate g gate profile) where
  content := content_writeGate s g gate profile
  holds := holds_writeGate s g gate profile
  aborted side l := by
    rw [writeGate_eq]
    cases side with
    | line =>
      refine ⟨_, ?_, (List.reverse_perm _).trans (by rw [List.append_nil])⟩
      simp only [State.tx, fsu_lineTx_countFenced, Fsu.cut, Tab.get_map, fsu_lineTx_modPath]
      exact TxLane.sent_cut _ _
    | system =>
      refine ⟨(((heldCutFrames (gateKeeps s g gate profile) s.fsu).filter fun f => f.out == l).map TxFrame.data).reverse
        ++ ((Tab.get s.fsu.systemTx l).content.filter fun f => !f.kept (gateKeeps s g gate profile)).reverse, ?_, ?_⟩
      · simp only [State.tx, fsu_systemTx_countFenced, Fsu.cut, Tab.get_build, fsu_systemTx_modPath]
        rw [TxLane.sent_cut, List.map_append, List.append_assoc, ← List.map_reverse, List.map_map]
        rfl
      · refine (List.perm_append_comm).trans (((List.reverse_perm _).append (List.reverse_perm _)).trans ?_)
        simp [heldCutFrames, cutHeld, Tab.list_eq, indices, State.tx, List.flatMap_map]
  counted := by rw [path_writeGate, cutTotal_eq]

/-! ## The transmit arbiters -/

/-- A lane that takes its next data frame carries the same frames in the same order. -/
theorem TxLane.content_takeData (inserted : Bool) (x : TxLane) : (x.takeData inserted).content = x.content := by
  unfold TxLane.takeData TxLane.content
  cases hu : x.underWay <;> cases inserted <;> cases hb : x.buffer <;> simp [hu, hb]

theorem tx_arbitrate (s : State) (d : Side) (l : Index) :
    Tab.get (s.arbitrate.tx d) l = (Tab.get (s.tx d) l).takeData (insertedWaits s d l) := by
  cases d <;> simp [State.arbitrate, State.tx]

theorem EventAt.arbitrate (g : Index) (s : State) : EventAt g s s.arbitrate where
  blocks := by constructor <;> simp
  receive := by constructor <;> simp
  others :=
    { contexts := fun h _ => ctx_arbitrate s h
      paths := fun h _ => path_arbitrate s h
      content := fun d l => by rw [tx_arbitrate, TxLane.content_takeData]
      holds := fun l => by simp
      probes := fun k h _ _ => by simp
      requests := by simp
      notices := by simp }

/-- After arbitration no lane is free while a data frame waits for it alone (R5). -/
theorem lanesSettled_arbitrate (s : State) : LanesSettled s.arbitrate := by
  intro d l free
  have same : insertedWaits s.arbitrate d l = insertedWaits s d l := by cases d <;> simp [insertedWaits]
  rw [same]
  rw [tx_arbitrate] at free ⊢
  unfold TxLane.takeData at free ⊢
  cases hu : (Tab.get (s.tx d) l).underWay <;> cases hi : insertedWaits s d l <;> cases hb : (Tab.get (s.tx d) l).buffer
    <;> simp_all

/-- Arbitration of settled lanes changes nothing. -/
theorem arbitrate_settled {s : State} (h : LanesSettled s) : s.arbitrate = s := by
  have key : ∀ d l, (Tab.get (s.tx d) l).takeData (insertedWaits s d l) = Tab.get (s.tx d) l := by
    intro d l
    have := h d l
    unfold TxLane.takeData
    cases hu : (Tab.get (s.tx d) l).underWay <;> cases hi : insertedWaits s d l <;> cases hb : (Tab.get (s.tx d) l).buffer
      <;> simp_all
  have hl : (Tab.build fun l => (Tab.get s.fsu.lineTx l).takeData (insertedWaits s .line l)) = s.fsu.lineTx :=
    Tab.ext fun l => by rw [Tab.get_build]; exact key .line l
  have hs : (Tab.build fun l => (Tab.get s.fsu.systemTx l).takeData (insertedWaits s .system l)) = s.fsu.systemTx :=
    Tab.ext fun l => by rw [Tab.get_build]; exact key .system l
  unfold State.arbitrate
  rw [hl, hs]

/-! ## The scheduler -/

/-- A change of the scheduler alone that keeps counter, clock, other groups' probes and other groups' requests. -/
theorem EventAt.psc (g : Index) (s : State) (p : Psc) (now : p.now = s.psc.now) (late : p.late = s.psc.late)
    (slots : ∀ k h, h ≠ g → (Tab.get s.psc.slots k).state.group = some h → Tab.get p.slots k = Tab.get s.psc.slots k)
    (queue : (p.queue.filter fun r => r.group != g).map ProbeRequest.terms
      = (s.psc.queue.filter fun r => r.group != g).map ProbeRequest.terms) : EventAt g s { s with psc := p } where
  blocks := ⟨rfl, rfl, rfl, rfl, rfl, now, rfl, rfl, rfl, rfl⟩
  receive := ⟨rfl, rfl, rfl, rfl, late⟩
  others :=
    { contexts := fun _ _ => rfl
      paths := fun _ _ => rfl
      content := fun d _ => by cases d <;> rfl
      holds := fun _ => rfl
      probes := slots
      requests := queue
      notices := rfl }

theorem filter_of_terms {p q : List ProbeRequest} (h : q.map ProbeRequest.terms = p.map ProbeRequest.terms) (f : Index → Bool) :
    (q.filter fun r => f r.group).map ProbeRequest.terms = (p.filter fun r => f r.group).map ProbeRequest.terms := by
  have key : ∀ l : List ProbeRequest, (l.filter fun r => f r.group).map ProbeRequest.terms
      = (l.map ProbeRequest.terms).filter fun x => f x.1 := by
    intro l
    rw [List.filter_map]
    rfl
  rw [key, key, h]

/-- Grants keep every group's requests and outstanding probes. -/
theorem EventAt.grants (g : Index) (s : State) {p : Psc} (h : GrantsOnly s.psc p) : EventAt g s { s with psc := p } :=
  .psc g s p h.now h.late
    (fun k x _ e => h.slots k fun free => by rw [free] at e; simp [SlotState.group] at e)
    (filter_of_terms h.terms fun x => x != g)

theorem EventAt.grant (g : Index) (s : State) : EventAt g s s.grant := .grants g s (.grant s)

theorem EventAt.abandonProbes (g : Index) (s : State) : EventAt g s { s with psc := abandonProbes g s.psc } :=
  .psc g s _ rfl rfl (fun _ _ ne e => abandonProbes_slots ne e) (by rw [abandonProbes_queue])

theorem EventAt.postRequest (g : Index) (kind : RequestKind) (n : Nat) (s : State) :
    EventAt g s { s with psc := postRequest g kind n s.psc } :=
  .psc g s _ (postRequest_rest g kind n s.psc).1 (postRequest_rest g kind n s.psc).2.1
    (fun k _ _ _ => by rw [postRequest_slots]) (by rw [postRequest_queue])

/-! ## Notices -/

/-- A posting changes no notice of another subject (R193). -/
theorem postNotice_others (q : List Notice) (subject : Nat) (content : NoticeContent) (time : Time) :
    (postNotice q subject content time).filter (fun n => n.subject != subject) = q.filter fun n => n.subject != subject := by
  induction q with
  | nil => simp [postNotice]
  | cons n rest ih =>
    unfold postNotice
    split
    · next e => simp [e]
    · next e => simp [e, ih]

theorem EventAt.postGroup (s : State) (g : Index) : EventAt g s (s.postGroup g) where
  blocks := ⟨rfl, rfl, rfl, rfl, rfl, rfl, rfl, rfl, rfl, rfl⟩
  receive := ⟨rfl, rfl, rfl, rfl, rfl⟩
  others :=
    { contexts := fun _ _ => rfl
      paths := fun _ _ => rfl
      content := fun d _ => by cases d <;> rfl
      holds := fun _ => rfl
      probes := fun _ _ _ _ => rfl
      requests := rfl
      notices := postNotice_others _ _ _ _ }

/-- The posting of group notices changes the Notice Queue alone. -/
theorem postChangedGroups_only (before s : State) :
    ∃ q, postChangedGroups before s = { s with notices := q } := by
  have key : ∀ (is : List Index) (t : State), (∃ q, t = { s with notices := q }) →
      ∃ q, is.foldl (fun t g => if groupChanged (before.ctx g) (s.ctx g) then t.postGroup g else t) t = { s with notices := q } := by
    intro is
    induction is with
    | nil => exact fun t h => h
    | cons g rest ih =>
      rintro t ⟨q, rfl⟩
      simp only [List.foldl_cons]
      apply ih
      split
      · exact ⟨_, rfl⟩
      · exact ⟨q, rfl⟩
  exact key indices s ⟨s.notices, rfl⟩

/-- With no context changed but g, the end of an event posts at most g's notice. -/
theorem EventAt.postChangedGroups (g : Index) {before s : State}
    (same : ∀ h, h ≠ g → groupChanged (before.ctx h) (s.ctx h) = false) : EventAt g s (postChangedGroups before s) := by
  have key : ∀ (is : List Index) (t : State), EventAt g s t →
      EventAt g s (is.foldl (fun t h => if groupChanged (before.ctx h) (s.ctx h) then t.postGroup h else t) t) := by
    intro is
    induction is with
    | nil => exact fun t h => h
    | cons h rest ih =>
      intro t e
      simp only [List.foldl_cons]
      apply ih
      split
      · next ch =>
        by_cases eq : h = g
        · subst eq
          exact e.trans (.postGroup t h)
        · rw [same h eq] at ch
          exact absurd ch (by simp)
      · exact e
  exact key indices s (.refl g s)

theorem groupChanged_self (c : Context) : groupChanged c c = false := by simp [groupChanged]

/-- With no context changed, the end of an event posts nothing. -/
theorem postChangedGroups_same {before s : State} (same : ∀ h, groupChanged (before.ctx h) (s.ctx h) = false) :
    postChangedGroups before s = s := by
  unfold postChangedGroups
  have : ∀ (is : List Index) (t : State),
      is.foldl (fun t h => if groupChanged (before.ctx h) (s.ctx h) then t.postGroup h else t) t = t := by
    intro is
    induction is with
    | nil => exact fun t => rfl
    | cons h rest ih =>
      intro t
      simp only [List.foldl_cons, same h, Bool.false_eq_true, if_false]
      exact ih t
  exact this indices s

/-! ## The end of an event -/

/-- The group notices of an event, each by the difference between the context before and after it (R57). -/
theorem groupNoticed_eq (before t : State) (q : List Notice) (g : Index) :
    groupNoticed before t q g
      = if groupChanged (before.ctx g) (t.ctx g) then
          postNotice q g.val (.group (t.ctx g).state (t.ctx g).reason (t.ctx g).origin) before.psc.now
        else q := by
  have same : groupChanged (before.ctx g) (t.ctx g) = false
      ↔ (t.ctx g).state = (before.ctx g).state ∧ (t.ctx g).reason = (before.ctx g).reason
        ∧ (t.ctx g).origin = (before.ctx g).origin := by
    simp only [groupChanged, Bool.or_eq_false_iff, bne_eq_false_iff_eq, and_assoc]
    exact ⟨fun h => ⟨h.1.symm, h.2.1.symm, h.2.2.symm⟩, fun h => ⟨h.1.symm, h.2.1.symm, h.2.2.symm⟩⟩
  unfold groupNoticed
  by_cases c : groupChanged (before.ctx g) (t.ctx g) = false
  · rw [if_pos (same.mp c), if_neg (by rw [c]; decide)]
  · rw [if_neg fun x => c (same.mpr x), if_pos (by simpa using c)]

/-- The Notice Queue after the end of an event at the time it began (R57). -/
theorem notices_endEvent (t before : State) (now : t.psc.now = before.psc.now) :
    (t.endEvent before).notices = indices.foldl (groupNoticed before t) t.notices := by
  have key : ∀ (is : List Index) (u : State) (q : List Notice), u.notices = q → u.buc = t.buc → u.psc.now = t.psc.now →
      (is.foldl (fun u g => if groupChanged (before.ctx g) (t.ctx g) then u.postGroup g else u) u).notices
        = is.foldl (groupNoticed before t) q := by
    intro is
    induction is with
    | nil => intro u q n _ _; exact n
    | cons g rest ih =>
      intro u q n b w
      simp only [List.foldl_cons]
      refine ih _ _ ?_ (by split <;> exact b) (by split <;> exact w)
      rw [groupNoticed_eq]
      have c : u.ctx g = t.ctx g := by unfold State.ctx; rw [b]
      split
      · show postNotice u.notices g.val (.group (u.ctx g).state (u.ctx g).reason (u.ctx g).origin) u.psc.now = _
        rw [n, c, w, now]
      · exact n
  have grant : t.grant.psc.now = t.psc.now := (GrantsOnly.grant t).now
  have ctx : ∀ g, t.grant.ctx g = t.ctx g := fun _ => rfl
  have e : (t.endEvent before).notices = (postChangedGroups before t.grant).notices := by
    simp only [State.endEvent, State.arbitrate]
  rw [e]
  unfold postChangedGroups
  simp only [ctx]
  exact key indices t.grant t.notices rfl rfl grant

/-- An event that leaves every context but g alone posts at most the notice of g (R57). -/
theorem groupNoticed_only {before t : State} {g : Index} (same : ∀ h, h ≠ g → t.ctx h = before.ctx h) (q : List Notice) :
    indices.foldl (groupNoticed before t) q = groupNoticed before t q g := by
  have skip : ∀ (h : Index) (q : List Notice), h ≠ g → groupNoticed before t q h = q := by
    intro h q ne
    unfold groupNoticed
    rw [same h ne, if_pos ⟨rfl, rfl, rfl⟩]
  have none : ∀ (is : List Index) (q : List Notice), g ∉ is → is.foldl (groupNoticed before t) q = q := by
    intro is
    induction is with
    | nil => exact fun _ _ => rfl
    | cons h rest ih =>
      intro q m
      rw [List.foldl_cons, skip h q fun e => m (e ▸ .head _)]
      exact ih q fun x => m (.tail _ x)
  have one : ∀ (is : List Index) (q : List Notice), is.Nodup → g ∈ is → is.foldl (groupNoticed before t) q = groupNoticed before t q g := by
    intro is
    induction is with
    | nil => intro q _ m; cases m
    | cons h rest ih =>
      intro q d m
      rw [List.foldl_cons]
      by_cases e : h = g
      · rw [e]
        exact none rest _ (by rw [← e]; exact (List.nodup_cons.mp d).1)
      · rw [skip h q e]
        exact ih q (List.nodup_cons.mp d).2 ((List.mem_cons.mp m).resolve_left fun x => e x.symm)
  exact one indices q (List.nodup_finRange 64) (List.mem_finRange g)

/-- What the end of an event gives of the state before it: the scheduler by grants alone, the notices, and the transmit lanes taking
frames that waited there. -/
theorem endEvent_rest (s before : State) :
    (s.endEvent before).buc = s.buc ∧ (s.endEvent before).fsu.paths = s.fsu.paths ∧ (s.endEvent before).ers = s.ers
      ∧ (s.endEvent before).fsu.holds = s.fsu.holds ∧ (s.endEvent before).fsu.systemRx = s.fsu.systemRx
      ∧ (s.endEvent before).psc = s.grant.psc
      ∧ (∀ d l, (Tab.get ((s.endEvent before).tx d) l).content = (Tab.get (s.tx d) l).content)
      ∧ BlocksKept s (s.endEvent before) ∧ ReceiveKept s (s.endEvent before) := by
  unfold State.endEvent
  obtain ⟨q, e⟩ := postChangedGroups_only before s.grant
  rw [e]
  have h := GrantsOnly.grant s
  refine ⟨by simp [State.grant], by simp [State.grant], by simp [State.grant], by simp [State.grant], by simp [State.grant],
    by simp, fun d l => ?_, ?_, ?_⟩
  · rw [tx_arbitrate, TxLane.content_takeData]
    cases d <;> rfl
  · constructor <;> simp [State.grant]
    exact h.now
  · constructor <;> simp [State.grant]
    exact h.late

@[simp] theorem ctx_endEvent (s before : State) (h : Index) : (s.endEvent before).ctx h = s.ctx h := by
  unfold State.ctx
  rw [(endEvent_rest s before).1]

@[simp] theorem path_endEvent (s before : State) (h : Index) : (s.endEvent before).path h = s.path h := by
  unfold State.path
  rw [(endEvent_rest s before).2.1]

/-- The end of an event keeps what is not of group g, when no other context changed. -/
theorem EventAt.ofEndEvent {g : Index} {before t : State} (same : ∀ h, h ≠ g → t.ctx h = before.ctx h) :
    EventAt g t (t.endEvent before) := by
  have post : EventAt g t.grant (Machine.postChangedGroups before t.grant) := by
    apply EventAt.postChangedGroups
    intro x ne
    have : t.grant.ctx x = before.ctx x := same x ne
    rw [this]
    exact groupChanged_self _
  exact ((EventAt.grant g t).trans post).trans (.arbitrate g _)

/-- The end of an event that changed only group g keeps the others. -/
theorem EventAt.endEvent {g : Index} {before s : State} (h : EventAt g before s) : EventAt g before (s.endEvent before) :=
  h.trans (.ofEndEvent h.others.contexts)

/-- Where no context changed and the arbiters are settled, the end of an event changes nothing. -/
theorem endEvent_settled {before t : State} (same : ∀ h, groupChanged (before.ctx h) (t.ctx h) = false) (lanes : LanesSettled t)
    (grants : GrantsSettled t) : t.endEvent before = t := by
  have e : t.grant = t := by
    unfold State.grant
    rw [grantLoop_settled _ _ grants]
  unfold State.endEvent
  rw [e, postChangedGroups_same same, arbitrate_settled lanes]

end Sys2Proof.Machine
end

