-- ==== Sys2Proof/Laws/Contexts.lean ====
section
/-! SUPPORT. What each change of state of a context does, in the terms of Safety.lean, and that it stays so to the end of the event. -/

namespace Sys2Proof.Machine

/-! ## One change of state -/

/-- The scheduler after a change of state (R56 step 2, R63). -/
def enterPsc (s : State) (g : Index) (st : GroupState) : Psc :=
  let p := if keepsRound st then s.psc else abandonProbes g s.psc
  if st = .discovering then postRequest g .burst s.mga.settings.discoveryRounds p else p

/-- A change of state in one expression. -/
theorem enter_eq (s : State) (g : Index) (st : GroupState) (r : Reason) (o : Option HoldOrigin) :
    s.enter g st r o
      = { (((s.modCtx g (enterContext s g st r o)).writeGate g (gateOf st) ((s.ctx g).bound.map PlanFields.profile))) with
          psc := enterPsc s g st } := by
  have hb : (s.enter g st r o)
      = (let s1 := if keepsRound st then s else { s with psc := abandonProbes g s.psc }
         let s2 := s1.modCtx g (enterContext s1 g st r o)
         let s3 := s2.writeGate g (gateOf st) ((s2.ctx g).bound.map PlanFields.profile)
         if st = .discovering then { s3 with psc := postRequest g .burst s3.mga.settings.discoveryRounds s3.psc } else s3) := rfl
  rw [hb]
  have key : ∀ p : Psc,
      ((({ s with psc := p } : State).modCtx g (enterContext { s with psc := p } g st r o)).writeGate g (gateOf st)
          (((({ s with psc := p } : State).modCtx g (enterContext { s with psc := p } g st r o)).ctx g).bound.map PlanFields.profile))
        = { ((s.modCtx g (enterContext s g st r o)).writeGate g (gateOf st) ((s.ctx g).bound.map PlanFields.profile)) with psc := p } := by
    intro p
    rw [ctx_modCtx_same]
    rfl
  have fin : ∀ p : Psc,
      (let s2 := ({ s with psc := p } : State).modCtx g (enterContext { s with psc := p } g st r o)
       let s3 := s2.writeGate g (gateOf st) ((s2.ctx g).bound.map PlanFields.profile)
       if st = .discovering then { s3 with psc := postRequest g .burst s3.mga.settings.discoveryRounds s3.psc } else s3)
        = { ((s.modCtx g (enterContext s g st r o)).writeGate g (gateOf st) ((s.ctx g).bound.map PlanFields.profile)) with
            psc := if st = .discovering then postRequest g .burst s.mga.settings.discoveryRounds p else p } := by
    intro p
    simp only [key]
    split
    · have := (writeGate_rest (s.modCtx g (enterContext s g st r o)) g (gateOf st) ((s.ctx g).bound.map PlanFields.profile)).2.2.2.2.1.mga
      simp only [mga_modCtx] at this
      simp only [this]
    · rfl
  unfold enterPsc
  by_cases hk : keepsRound st = true
  · simp only [hk, if_true]
    exact fin s.psc
  · simp only [hk]
    exact fin (abandonProbes g s.psc)

theorem psc_enter (s : State) (g : Index) (st : GroupState) (r : Reason) (o : Option HoldOrigin) :
    (s.enter g st r o).psc = enterPsc s g st := by rw [enter_eq]

theorem ctx_setPsc (t : State) (p : Psc) (h : Index) : ({ t with psc := p } : State).ctx h = t.ctx h := rfl

theorem ers_setPsc (t : State) (p : Psc) : ({ t with psc := p } : State).ers = t.ers := rfl

theorem ctx_writeGate (s : State) (g : Index) (gate : GateState) (profile : Option (Fin 8)) (h : Index) :
    (s.writeGate g gate profile).ctx h = s.ctx h := by
  unfold State.ctx
  rw [(writeGate_rest s g gate profile).1]

@[simp] theorem ctx_enter_same (s : State) (g : Index) (st : GroupState) (r : Reason) (o : Option HoldOrigin) :
    (s.enter g st r o).ctx g = enterContext s g st r o (s.ctx g) := by
  rw [enter_eq, ctx_setPsc, ctx_writeGate]
  exact ctx_modCtx_same _ _ _

theorem path_setPsc (t : State) (p : Psc) (h : Index) : ({ t with psc := p } : State).path h = t.path h := rfl

theorem path_enter_same (s : State) (g : Index) (st : GroupState) (r : Reason) (o : Option HoldOrigin) :
    (s.enter g st r o).path g
      = ((s.modCtx g (enterContext s g st r o)).writeGate g (gateOf st) ((s.ctx g).bound.map PlanFields.profile)).path g := by
  rw [enter_eq]
  exact path_setPsc _ _ _

theorem gate_enter (s : State) (g : Index) (st : GroupState) (r : Reason) (o : Option HoldOrigin) :
    ((s.enter g st r o).path g).gate = gateOf st := by
  rw [path_enter_same, path_writeGate]

theorem profile_enter (s : State) (g : Index) (st : GroupState) (r : Reason) (o : Option HoldOrigin) :
    ((s.enter g st r o).path g).profile = ((s.ctx g).bound.map PlanFields.profile).getD (s.path g).profile := by
  rw [path_enter_same, path_writeGate, path_modCtx]

theorem map_enter (s : State) (g : Index) (st : GroupState) (r : Reason) (o : Option HoldOrigin) :
    ((s.enter g st r o).path g).map = (s.path g).map := by
  rw [path_enter_same, path_writeGate, path_modCtx]

theorem comps_enter (s : State) (g : Index) (st : GroupState) (r : Reason) (o : Option HoldOrigin) :
    ((s.enter g st r o).path g).comps = (s.path g).comps := by
  rw [path_enter_same, path_writeGate, path_modCtx]

/-- A change of state of context g keeps the blocks, the receiving side and the other groups. -/
theorem EventAt.enter (s : State) (g : Index) (st : GroupState) (r : Reason) (o : Option HoldOrigin) :
    EventAt g s (s.enter g st r o) := by
  have kept : EventAt g s (if keepsRound st then s else { s with psc := Machine.abandonProbes g s.psc }) := by
    split
    · exact .refl g s
    · exact .abandonProbes g s
  have step : ∀ t : State, EventAt g s t →
      EventAt g s
        (let t2 := t.modCtx g (enterContext t g st r o)
         let t3 := t2.writeGate g (gateOf st) ((t2.ctx g).bound.map PlanFields.profile)
         if st = .discovering then
           { t3 with psc := Machine.postRequest g .burst t3.mga.settings.discoveryRounds t3.psc }
         else t3) := by
    intro t e
    have e3 := (e.trans (.modCtx t g (enterContext t g st r o))).trans
      (.writeGate _ g (gateOf st) (((t.modCtx g (enterContext t g st r o)).ctx g).bound.map PlanFields.profile))
    dsimp only
    split
    · exact e3.trans (.postRequest g _ _ _)
    · exact e3
  exact step _ kept

theorem ers_enter (s : State) (g : Index) (st : GroupState) (r : Reason) (o : Option HoldOrigin) :
    (s.enter g st r o).ers = s.ers := by
  rw [enter_eq, ers_setPsc, (writeGate_rest _ _ _ _).2.2.1, ers_modCtx]

/-- A change to a state whose gate is CLOSED leaves no data frame of the group on a lane (R15). -/
theorem content_enter_closed (s : State) (g : Index) {st : GroupState} (r : Reason) (o : Option HoldOrigin)
    (closed : gateOf st = .closed) (side : Side) (l : Index) (f : DataFrame) (own : f.group = g) :
    TxFrame.data f ∉ (Tab.get ((s.enter g st r o).tx side) l).content := by
  rw [enter_eq]
  have e : ∀ (t : State) (p : Psc), ({ t with psc := p } : State).tx side = t.tx side := by
    intro t p; cases side <;> rfl
  rw [e, content_writeGate]
  intro m
  have := (List.mem_filter.1 m).2
  simp [TxFrame.kept, gateKeeps, own, closed, admits] at this

/-- A change to a state that keeps no round leaves no probe work, but for the burst of DISCOVERING (R56, R126). -/
theorem noProbeWork_enter (s : State) (g : Index) {st : GroupState} (r : Reason) (o : Option HoldOrigin)
    (drops : keepsRound st = false) (ne : st ≠ .discovering) : NoProbeWork (s.enter g st r o) g := by
  have e : (s.enter g st r o).psc = abandonProbes g s.psc := by rw [psc_enter]; simp [enterPsc, drops, ne]
  obtain ⟨q, sl, h⟩ := abandonProbes_noWork g s.psc
  exact ⟨by rw [e]; exact sl, by rw [e]; exact q, by rw [e]; exact h⟩

theorem inState_enter (s : State) (g : Index) (st : GroupState) (r : Reason) (o : Option HoldOrigin) :
    InState (s.enter g st r o) g st r o where
  state := by simp [enterContext]
  reason := by simp [enterContext]
  origin := by simp [enterContext]
  gate := gate_enter s g st r o

theorem boundWidth_enter (s : State) (g : Index) (st : GroupState) (r : Reason) (o : Option HoldOrigin) (h : Index) :
    boundWidth (s.enter g st r o) h = boundWidth s h := by
  unfold boundWidth
  by_cases e : h = g
  · subst e
    simp [enterContext]
  · rw [(EventAt.enter s g st r o).others.contexts h e]

theorem allLocked_congr {s t : State} {g : Index} (width : boundWidth t g = boundWidth s g)
    (view : t.buc.lockView = s.buc.lockView) : allLocked t g = allLocked s g := by
  unfold allLocked
  rw [width, view]

/-! ## The states a context enters -/

/-- Entry to DISCOVERING (R63). -/
theorem startsDiscovery_enter (s : State) (g : Index) :
    StartsDiscovery (s.enter g .discovering .none none) g s.mga.settings.discoveryRounds where
  inState := inState_enter _ _ _ _ _
  timer := by simp [enterContext, entryTimer]
  poll := by simp [enterContext]
  goodCount := by simp [enterContext, entryGoodCount]
  lanes i := by
    rw [ctx_enter_same]
    unfold freshLane
    rw [boundWidth_enter, (EventAt.enter s g .discovering .none none).receive.lockView]
    simp only [enterContext, entryRecord, DiscoveryRecord.mapLanes, Tab.get_build, DiscoveryRecord.cleared, Tab.get_fill]
    rfl
  lastView := by rw [ctx_enter_same]; rfl
  laneMap := by rw [ctx_enter_same]; rfl
  skew := by rw [ctx_enter_same]; rfl
  burst := by
    rw [psc_enter]
    have : enterPsc s g .discovering = postRequest g .burst s.mga.settings.discoveryRounds (abandonProbes g s.psc) := rfl
    rw [this, postRequest_new (abandonProbes_noWork g s.psc).1]
    exact ⟨_, List.mem_append_right _ (List.mem_singleton_self _), rfl, rfl, rfl⟩

/-- Entry to WAITING (R60). -/
theorem waits_enter (s : State) (g : Index) (r : Reason) : Waits (s.enter g .waiting r none) g r where
  inState := inState_enter _ _ _ _ _
  record := by simp [enterContext, entryRecord]
  timer := by simp [enterContext, entryTimer]
  poll := by simp [enterContext]
  goodCount := by simp [enterContext, entryGoodCount]
  probes := noProbeWork_enter _ _ _ _ rfl (by decide)

/-- Entry to QUARANTINED (R78). -/
theorem quarantined_quarantine (s : State) (g : Index) (r : Reason) : Quarantined s (s.quarantine g r) g r := by
  unfold State.quarantine
  exact
    { inState := inState_enter _ _ _ _ _
      record := by simp [enterContext, entryRecord]
      bound := by simp [enterContext]
      timer := by
        simp only [ctx_enter_same, enterContext, entryTimer, msToNs]
        cases (s.ctx g).bound with
        | none => rfl
        | some b =>
          simp only
          split
          · rfl
          · rw [← Nat.mul_assoc]
      poll := by simp [enterContext]
      probes := noProbeWork_enter _ _ _ _ rfl (by decide) }

/-- Entry to HELD (R74, R77). -/
theorem held_enter (s : State) (g : Index) (r : Reason) (o : HoldOrigin) : Held s (s.enter g .held r (some o)) g r o where
  inState := inState_enter _ _ _ _ _
  record := by simp [enterContext, entryRecord]
  bound := by simp [enterContext]
  timer := by simp [enterContext, entryTimer]
  poll := by simp [enterContext]
  probes := noProbeWork_enter _ _ _ _ rfl (by decide)

/-- Entry to AGREEING on a view (R103). -/
theorem startsAgreeing_enter (s : State) (g : Index) : StartsAgreeing s (s.enter g .agreeing .none none) g where
  inState := inState_enter _ _ _ _ _
  record := by simp [enterContext, entryRecord]
  bound := by simp [enterContext]
  goodCount := by simp [enterContext, entryGoodCount]
  timer := by simp [enterContext, entryTimer]
  poll := by simp [enterContext, Config.pollInterval]

/-- Entry to VERIFIED on a view (R102). -/
theorem opens_enter (s : State) (g : Index) : Opens s (s.enter g .verified .none none) g where
  inState := inState_enter _ _ _ _ _
  record := by simp [enterContext, entryRecord]
  bound := by simp [enterContext]
  timer := by simp [enterContext, entryTimer]
  poll := by simp [enterContext]
  profile := profile_enter _ _ _ _ _

/-- Entry to ACQUIRING alone (R61). -/
theorem acquires_enter (s : State) (g : Index) : Acquires s (s.enter g .acquiring .none none) g where
  inState := inState_enter _ _ _ _ _
  timer := by simp [enterContext, entryTimer]
  poll := by simp [enterContext]
  record := by simp [enterContext, entryRecord]
  probes := noProbeWork_enter _ _ _ _ rfl (by decide)

theorem allLocked_enter (s : State) (g : Index) (st : GroupState) (r : Reason) (o : Option HoldOrigin) :
    allLocked (s.enter g st r o) g = allLocked s g :=
  allLocked_congr (boundWidth_enter ..) (EventAt.enter ..).receive.lockView

/-- Entry to ACQUIRING, and on to DISCOVERING with all lanes locked (R61). -/
theorem acquiresOrDiscovers_enterAcquiring (s : State) (g : Index) : AcquiresOrDiscovers s (s.enterAcquiring g) g := by
  unfold AcquiresOrDiscovers State.enterAcquiring
  simp only [allLocked_enter]
  split
  · have := startsDiscovery_enter (s.enter g .acquiring .none none) g
    rwa [(EventAt.enter s g .acquiring .none none).blocks.mga] at this
  · exact acquires_enter s g

theorem EventAt.enterAcquiring (s : State) (g : Index) : EventAt g s (s.enterAcquiring g) := by
  unfold State.enterAcquiring
  dsimp only
  split
  · exact (EventAt.enter ..).trans (.enter ..)
  · exact .enter ..

theorem bound_enterAcquiring (s : State) (g : Index) : ((s.enterAcquiring g).ctx g).bound = (s.ctx g).bound := by
  unfold State.enterAcquiring
  dsimp only
  split <;> simp [enterContext]

/-- The start test of a context that is not WAITING (R59). -/
theorem startTested_applyStart (s : State) (g : Index) (ne : (s.ctx g).state ≠ .waiting) : StartTested s (s.applyStart g) g := by
  unfold StartTested State.applyStart
  cases startTest s g with
  | none => exact acquiresOrDiscovers_enterAcquiring s g
  | some r => simpa [ne] using waits_enter s g r

/-- The start test of a WAITING context that fails it rewrites the reason alone (R60). -/
theorem applyStart_waiting {s : State} {g : Index} {r : Reason} (st : (s.ctx g).state = .waiting) (h : startTest s g = some r) :
    s.applyStart g = s.modCtx g fun c => { c with reason := r } := by simp [State.applyStart, h, st]

theorem EventAt.applyStart (s : State) (g : Index) : EventAt g s (s.applyStart g) := by
  unfold State.applyStart
  split
  · exact .enterAcquiring s g
  · split
    · exact .modCtx s g _
    · exact .enter ..

theorem bound_applyStart (s : State) (g : Index) : ((s.applyStart g).ctx g).bound = (s.ctx g).bound := by
  unfold State.applyStart
  split
  · exact bound_enterAcquiring s g
  · split
    · simp
    · simp [enterContext]

/-! ## The scheduler within an event -/

/-- What an operation at group g does to the scheduler before the event's grants: slots are freed, the lock is released, and other
groups' requests stay. -/
structure PscAt (g : Index) (p q : Psc) : Prop where
  slots : ∀ k, Tab.get q.slots k = Tab.get p.slots k ∨ (Tab.get q.slots k).state = .free
  holder : q.holder = p.holder ∨ q.holder = none
  queue : q.queue.filter (fun r => r.group != g) = p.queue.filter fun r => r.group != g

theorem PscAt.refl (g : Index) (p : Psc) : PscAt g p p := ⟨fun _ => .inl rfl, .inl rfl, rfl⟩

theorem PscAt.trans {g : Index} {p q r : Psc} (a : PscAt g p q) (b : PscAt g q r) : PscAt g p r where
  slots k := by
    rcases b.slots k with e | e
    · rw [e]
      exact a.slots k
    · exact .inr e
  holder := by
    rcases b.holder with e | e
    · rw [e]
      exact a.holder
    · exact .inr e
  queue := b.queue.trans a.queue

theorem PscAt.enter (s : State) (g : Index) (st : GroupState) (r : Reason) (o : Option HoldOrigin) :
    PscAt g s.psc (s.enter g st r o).psc := by
  rw [psc_enter]
  unfold enterPsc
  have a : PscAt g s.psc (if keepsRound st then s.psc else abandonProbes g s.psc) := by
    split
    · exact .refl ..
    · refine ⟨fun k => ?_, ?_, abandonProbes_queue g s.psc⟩
      · simp only [abandonProbes, Tab.get_map, Slot.freeIf]
        split
        · exact .inr rfl
        · exact .inl rfl
      · simp only [abandonProbes, releaseHolder]
        split
        · exact .inr rfl
        · exact .inl rfl
  dsimp only
  split
  · exact a.trans ⟨fun k => .inl (by rw [postRequest_slots]), .inl (postRequest_rest ..).2.2, postRequest_queue ..⟩
  · exact a

theorem PscAt.enterAcquiring (s : State) (g : Index) : PscAt g s.psc (s.enterAcquiring g).psc := by
  unfold State.enterAcquiring
  dsimp only
  split
  · exact (PscAt.enter ..).trans (.enter ..)
  · exact .enter ..

theorem PscAt.applyStart (s : State) (g : Index) : PscAt g s.psc (s.applyStart g).psc := by
  unfold State.applyStart
  split
  · exact .enterAcquiring s g
  · split
    · exact .refl ..
    · exact .enter ..

/-- A group with no probe work has none after an operation at another group. -/
theorem PscAt.noProbeWork {g h : Index} {s t : State} (a : PscAt g s.psc t.psc) (ne : h ≠ g) (n : NoProbeWork s h) :
    NoProbeWork t h where
  slots k e := by
    rcases a.slots k with e' | e'
    · rw [e'] at e
      exact n.slots k e
    · rw [e'] at e
      simp [SlotState.group] at e
  queue := by
    have q := n.queue
    rw [hasRequest_false_iff] at q ⊢
    intro r mem e
    have : r ∈ t.psc.queue.filter fun r => r.group != g := List.mem_filter.2 ⟨mem, by simpa [e] using ne⟩
    rw [a.queue] at this
    exact q r (List.mem_filter.1 this).1 e
  holder e := by
    rcases a.holder with e' | e'
    · exact n.holder (e'.symm.trans e)
    · rw [e'] at e
      simp at e

/-! ## Lane events -/

theorem EventAt.contextLock (s : State) (g : Index) : EventAt g s (s.contextLock g) := by
  unfold State.contextLock
  cases (s.ctx g).state <;> dsimp only
  all_goals
    first
    | exact .refl g s
    | split
      · exact .enter ..
      · exact .refl g s

theorem EventAt.contextLoss (s : State) (g : Index) : EventAt g s (s.contextLoss g) := by
  unfold State.contextLoss
  cases (s.ctx g).state
  all_goals first | exact .refl g s | exact .enter ..

/-- A LOSS event records the loss in the lock view, and touches no front and no frame in reception (R54). -/
theorem lossEvent_receive (s : State) (l : Index) :
    (s.lossEvent l).lfr = s.lfr ∧ (s.lossEvent l).fsu.lineRx = s.fsu.lineRx
      ∧ (s.lossEvent l).buc.lockView
        = Tab.set s.buc.lockView l { locked := false, polarity := (Tab.get s.buc.lockView l).polarity } := by
  unfold State.lossEvent
  dsimp only
  split
  · next g _ =>
    have e := (EventAt.contextLoss (s.setLockView l { locked := false, polarity := (Tab.get s.buc.lockView l).polarity }) g).receive
    exact ⟨e.lfr, e.lineRx, e.lockView⟩
  · exact ⟨rfl, rfl, rfl⟩

/-- A LOCK event records the lock in the lock view, and touches no front and no frame in reception (R54). -/
theorem lockEvent_receive (s : State) (l : Index) (polarity : Bool) :
    (s.lockEvent l polarity).lfr = s.lfr ∧ (s.lockEvent l polarity).fsu.lineRx = s.fsu.lineRx
      ∧ (s.lockEvent l polarity).buc.lockView = Tab.set s.buc.lockView l { locked := true, polarity := polarity } := by
  unfold State.lockEvent
  dsimp only
  split
  · next g _ =>
    have e := (EventAt.contextLock (s.setLockView l { locked := true, polarity := polarity }) g).receive
    exact ⟨e.lfr, e.lineRx, e.lockView⟩
  · exact ⟨rfl, rfl, rfl⟩

/-! ## To the end of the event -/

/-- What the end of an event leaves of contexts, gates, lock view and scheduler. -/
structure Granted (t u : State) : Prop where
  ctx : ∀ h, u.ctx h = t.ctx h
  path : ∀ h, u.path h = t.path h
  lockView : u.buc.lockView = t.buc.lockView
  psc : GrantsOnly t.psc u.psc

theorem Granted.endEvent (t before : State) : Granted t (t.endEvent before) where
  ctx := ctx_endEvent t before
  path := path_endEvent t before
  lockView := by rw [(endEvent_rest t before).1]
  psc := by
    rw [(endEvent_rest t before).2.2.2.2.2.1]
    exact GrantsOnly.grant t

theorem Granted.inState {t u : State} (h : Granted t u) {g : Index} {st : GroupState} {r : Reason} {o : Option HoldOrigin}
    (a : InState t g st r o) : InState u g st r o :=
  ⟨by rw [h.ctx]; exact a.1, by rw [h.ctx]; exact a.2, by rw [h.ctx]; exact a.3, by rw [h.path]; exact a.4⟩

theorem Granted.noProbeWork {t u : State} (h : Granted t u) {g : Index} (a : NoProbeWork t g) : NoProbeWork u g := by
  obtain ⟨q, sl, ho⟩ := h.psc.noWork a.queue a.slots a.holder
  exact ⟨sl, q, ho⟩

theorem Granted.startsDiscovery {t u : State} (h : Granted t u) {g : Index} {n : Nat} (a : StartsDiscovery t g n) :
    StartsDiscovery u g n where
  inState := h.inState a.inState
  timer := by rw [h.ctx]; exact a.timer
  poll := by rw [h.ctx]; exact a.poll
  goodCount := by rw [h.ctx]; exact a.goodCount
  lanes i := by
    rw [h.ctx, a.lanes i]
    unfold freshLane boundWidth
    rw [h.ctx, h.lockView]
  lastView := by rw [h.ctx]; exact a.lastView
  laneMap := by rw [h.ctx]; exact a.laneMap
  skew := by rw [h.ctx]; exact a.skew
  burst := by
    obtain ⟨r, mem, e1, e2, e3⟩ := a.burst
    obtain ⟨r', mem', e1', e2', e3'⟩ := mem_of_terms h.psc.terms mem
    exact ⟨r', mem', e1'.trans e1, e2'.trans e2, e3'.trans e3⟩

theorem Granted.waits {t u : State} (h : Granted t u) {g : Index} {r : Reason} (a : Waits t g r) : Waits u g r where
  inState := h.inState a.inState
  record := by rw [h.ctx]; exact a.record
  timer := by rw [h.ctx]; exact a.timer
  poll := by rw [h.ctx]; exact a.poll
  goodCount := by rw [h.ctx]; exact a.goodCount
  probes := h.noProbeWork a.probes

theorem Granted.acquires {s t u : State} (h : Granted t u) {g : Index} (a : Acquires s t g) : Acquires s u g where
  inState := h.inState a.inState
  timer := by rw [h.ctx]; exact a.timer
  poll := by rw [h.ctx]; exact a.poll
  record := by rw [h.ctx]; exact a.record
  probes := h.noProbeWork a.probes

theorem Granted.acquiresOrDiscovers {s t u : State} (h : Granted t u) {g : Index} (a : AcquiresOrDiscovers s t g) :
    AcquiresOrDiscovers s u g := by
  unfold AcquiresOrDiscovers at a ⊢
  split_ifs at a ⊢
  · exact h.startsDiscovery a
  · exact h.acquires a

theorem Granted.startTested {s t u : State} (h : Granted t u) {g : Index} (a : StartTested s t g) : StartTested s u g := by
  unfold StartTested at a ⊢
  cases e : startTest s g with
  | none => rw [e] at a; exact h.acquiresOrDiscovers a
  | some r => rw [e] at a; exact h.waits a

theorem Granted.quarantined {s t u : State} (h : Granted t u) {g : Index} {r : Reason} (a : Quarantined s t g r) :
    Quarantined s u g r where
  inState := h.inState a.inState
  record := by rw [h.ctx]; exact a.record
  bound := by rw [h.ctx]; exact a.bound
  timer := by rw [h.ctx]; exact a.timer
  poll := by rw [h.ctx]; exact a.poll
  probes := h.noProbeWork a.probes

theorem Granted.held {s t u : State} (h : Granted t u) {g : Index} {r : Reason} {o : HoldOrigin} (a : Held s t g r o) :
    Held s u g r o where
  inState := h.inState a.inState
  record := by rw [h.ctx]; exact a.record
  bound := by rw [h.ctx]; exact a.bound
  timer := by rw [h.ctx]; exact a.timer
  poll := by rw [h.ctx]; exact a.poll
  probes := h.noProbeWork a.probes

theorem Granted.startsAgreeing {s t u : State} (h : Granted t u) {g : Index} (a : StartsAgreeing s t g) : StartsAgreeing s u g where
  inState := h.inState a.inState
  record := by rw [h.ctx]; exact a.record
  bound := by rw [h.ctx]; exact a.bound
  goodCount := by rw [h.ctx]; exact a.goodCount
  timer := by rw [h.ctx]; exact a.timer
  poll := by rw [h.ctx]; exact a.poll

theorem Granted.opens {s t u : State} (h : Granted t u) {g : Index} (a : Opens s t g) : Opens s u g where
  inState := h.inState a.inState
  record := by rw [h.ctx]; exact a.record
  bound := by rw [h.ctx]; exact a.bound
  timer := by rw [h.ctx]; exact a.timer
  poll := by rw [h.ctx]; exact a.poll
  profile := by rw [h.path]; exact a.profile

/-! ## Views -/

/-- An applied view acts as the table of 05 section 5.6 says (R101 to R106). -/
theorem viewActed_applyView (s : State) (g : Index) (v : View) : ViewActed s (s.applyView g v) g v := by
  unfold ViewActed State.applyView State.holdRemote
  cases hs : (s.ctx g).state <;> cases v
  all_goals
    first
    | exact ctx_modCtx_same s g _
    | rfl
    | exact opens_enter s g
    | exact startsAgreeing_enter s g
    | exact quarantined_quarantine s g _
    | exact held_enter s g _ _
    | skip
  all_goals
    rcases ho : (s.ctx g).origin with _ | o
    · simp
    · cases o <;> simp [startTested_applyStart, hs]

theorem EventAt.quarantine (s : State) (g : Index) (r : Reason) : EventAt g s (s.quarantine g r) := .enter ..

theorem EventAt.holdRemote (s : State) (g : Index) : EventAt g s (s.holdRemote g) := .enter ..

theorem EventAt.applyView (s : State) (g : Index) (v : View) : EventAt g s (s.applyView g v) := by
  unfold State.applyView
  cases hs : (s.ctx g).state <;> cases v
  all_goals
    first
    | exact .refl g s
    | exact .modCtx s g _
    | exact .enter ..
    | skip
  all_goals
    rcases ho : (s.ctx g).origin with _ | o
    · exact .refl g s
    · cases o
      · exact .refl g s
      · first
        | exact .applyStart s g
        | exact .refl g s

theorem Granted.viewActed {s t u : State} (h : Granted t u) {g : Index} {v : View} (a : ViewActed s t g v) :
    ViewActed s u g v := by
  unfold ViewActed at a ⊢
  cases hs : (s.ctx g).state <;> cases v <;> simp only [hs] at a ⊢
  all_goals
    first
    | exact (h.ctx g).trans a
    | exact h.opens a
    | exact h.startsAgreeing a
    | exact h.quarantined a
    | exact h.held a
    | skip
  all_goals
    split at a
    · next c => rw [if_pos c]; exact h.startTested a
    · next c => rw [if_neg c]; exact (h.ctx g).trans a

/-! ## The state an event starts from -/

/-- Two states that an event at group g cannot tell apart: context, FSU part, lock view, inventory and Management Agent agree. -/
structure SameAt (g : Index) (s s' : State) : Prop where
  ctx : s'.ctx g = s.ctx g
  path : s'.path g = s.path g
  lockView : s'.buc.lockView = s.buc.lockView
  ciu : s'.ciu = s.ciu
  mga : s'.mga = s.mga

theorem SameAt.startTest {g : Index} {s s' : State} (h : SameAt g s s') : Machine.startTest s' g = Machine.startTest s g := by
  unfold Machine.startTest State.record
  rw [h.mga, h.ciu]

theorem SameAt.allLocked {g : Index} {s s' : State} (h : SameAt g s s') : Machine.allLocked s' g = Machine.allLocked s g :=
  allLocked_congr (by unfold boundWidth; rw [h.ctx]) h.lockView

theorem SameAt.acquiresOrDiscovers {g : Index} {s s' t : State} (h : SameAt g s s') (a : AcquiresOrDiscovers s' t g) :
    AcquiresOrDiscovers s t g := by
  unfold AcquiresOrDiscovers at a ⊢
  rw [h.allLocked, h.mga] at a
  split_ifs at a ⊢
  · exact a
  · exact ⟨a.inState, by rw [a.timer, h.mga], a.poll, by rw [a.record, h.ctx], a.probes⟩

theorem SameAt.startTested {g : Index} {s s' t : State} (h : SameAt g s s') (a : StartTested s' t g) : StartTested s t g := by
  unfold StartTested at a ⊢
  rw [h.startTest] at a
  cases e : Machine.startTest s g with
  | none => rw [e] at a; exact h.acquiresOrDiscovers a
  | some r => rw [e] at a; exact a

theorem SameAt.quarantined {g : Index} {s s' t : State} {r : Reason} (h : SameAt g s s') (a : Quarantined s' t g r) :
    Quarantined s t g r :=
  ⟨a.inState, by rw [a.record, h.ctx], by rw [a.bound, h.ctx], by rw [a.timer, h.ctx], a.poll, a.probes⟩

theorem SameAt.held {g : Index} {s s' t : State} {r : Reason} {o : HoldOrigin} (h : SameAt g s s') (a : Held s' t g r o) :
    Held s t g r o :=
  ⟨a.inState, by rw [a.record, h.ctx], by rw [a.bound, h.ctx], a.timer, a.poll, a.probes⟩

theorem SameAt.startsAgreeing {g : Index} {s s' t : State} (h : SameAt g s s') (a : StartsAgreeing s' t g) :
    StartsAgreeing s t g :=
  ⟨a.inState, by rw [a.record, h.ctx], by rw [a.bound, h.ctx], by rw [a.goodCount, h.ctx], by rw [a.timer, h.mga], a.poll⟩

theorem SameAt.opens {g : Index} {s s' t : State} (h : SameAt g s s') (a : Opens s' t g) : Opens s t g :=
  ⟨a.inState, by rw [a.record, h.ctx], by rw [a.bound, h.ctx], a.timer, a.poll, by rw [a.profile, h.ctx, h.path]⟩

theorem SameAt.viewActed {g : Index} {s s' t : State} {v : View} (h : SameAt g s s') (a : ViewActed s' t g v) :
    ViewActed s t g v := by
  unfold ViewActed at a ⊢
  rw [h.ctx] at a
  cases hs : (s.ctx g).state <;> cases v <;> simp only [hs] at a ⊢
  all_goals
    first
    | exact a
    | exact h.opens a
    | exact h.startsAgreeing a
    | exact h.quarantined a
    | exact h.held a
    | skip
  all_goals
    split_ifs at a ⊢
    · exact h.startTested a
    · exact a

end Sys2Proof.Machine
end

