-- ==== Sys2Proof/Laws/Rounds.lean ====
section
/-! SUPPORT. Settling a probe, completing a round, the verdict and the recheck: each touches one group, and says what it answers. -/

namespace Sys2Proof.Machine

/-! ## The verdict -/

theorem EventAt.refresh (s : State) (g : Index) : EventAt g s (s.refresh g) := .modCtx ..

theorem EventAt.loadFsu (s : State) (g : Index) : EventAt g s (s.loadFsu g) := .modPath ..

theorem EventAt.takeOutcome (s : State) (g : Index) (o : Outcome) : EventAt g s (s.takeOutcome g o) := by
  cases o with
  | quarantined r => exact .quarantine s g r
  | agreeing => exact (EventAt.loadFsu s g).trans (.enter (s.loadFsu g) g .agreeing .none none)
  | verified => exact (EventAt.loadFsu s g).trans (.enter (s.loadFsu g) g .verified .none none)
  | heldRemote => exact (EventAt.loadFsu s g).trans (.holdRemote (s.loadFsu g) g)

theorem EventAt.verdict (s : State) (g : Index) : EventAt g s (s.verdict g) :=
  ((EventAt.refresh s g).trans (.modCtx ..)).trans (.takeOutcome ..)

/-- The record a passing judgement writes holds a lane map. -/
theorem judgeRecord_laneMap (b : PlanFields) (D : Nat) (inv : InventoryRecord) (id : Identity) (g : Index) (dr : DiscoveryRecord)
    (h : ∀ r, (judgeRecord b D inv id g dr).2 ≠ .quarantined r) : ∃ m, (judgeRecord b D inv id g dr).1.laneMap = some m := by
  unfold judgeRecord at h ⊢
  cases hc : checks b dr inv id g with
  | error r => rw [hc] at h; exact absurd rfl (h r)
  | ok m =>
    rw [hc] at h
    dsimp only at h ⊢
    split at h
    · next r _ => exact absurd rfl (h r)
    · split at h
      · next r _ => exact absurd rfl (h r)
      · exact ⟨m, rfl⟩

/-! ## Rounds -/

theorem EventAt.burstRound (s : State) (r : RoundResult) : EventAt r.group s (s.burstRound r) := by
  unfold State.burstRound
  dsimp only
  have e1 := EventAt.modCtx s r.group fun c =>
    { c with record := mergeRound s.mga.settings (boundWidth s r.group) r.outcomes c.record }
  have view : ∀ (t : State) (v : Option View), EventAt r.group t
      (match v with
       | some v => t.applyView r.group v
       | none => t) := by
    intro t v
    cases v
    · exact .refl ..
    · exact .applyView ..
  split
  · exact (e1.trans (view _ _)).trans (.verdict ..)
  · exact e1.trans (view _ _)

theorem EventAt.windowStep (s : State) (g : Index) : EventAt g s (s.windowStep g) := by
  unfold State.windowStep
  split
  · dsimp only
    split
    · exact ((EventAt.modCtx s g _).trans (.enter ..)).trans (.modCtx ..)
    · exact .modCtx ..
  · dsimp only
    split
    · exact (EventAt.modCtx s g _).trans (.modCtx ..)
    · split
      · exact ((EventAt.modCtx s g _).trans (.enter ..)).trans (.modCtx ..)
      · exact (EventAt.modCtx s g _).trans (.modCtx ..)
  · exact .refl ..

theorem EventAt.syncGate (s : State) (g : Index) : EventAt g s (s.syncGate g) := by
  unfold State.syncGate
  split
  · split
    · exact .refl ..
    · exact .writeGate ..
  · exact .refl ..

theorem EventAt.staleStep (s : State) (g : Index) : EventAt g s (s.staleStep g).1 := by
  unfold State.staleStep
  split
  · dsimp only
    split
    · exact (EventAt.refresh s g).trans (.quarantine ..)
    · exact .refresh ..
  · exact .refl ..

theorem EventAt.applyRoundView (s : State) (g : Index) (v : Option View) : EventAt g s (s.applyRoundView g v) := by
  cases v
  · exact .refl ..
  · exact .applyView ..

theorem EventAt.openRecheck (s : State) (r : RoundResult) (v : Option View) : EventAt r.group s (s.openRecheck r v) := by
  unfold State.openRecheck
  dsimp only
  have e1 := EventAt.modCtx s r.group fun c =>
    { c with
      record := (s.ctx r.group).record.mapLanes (boundWidth s r.group) fun i x =>
        recheckLane s.mga.settings (Tab.get r.outcomes i) x }
  split
  · exact (e1.trans (.enter ..)).trans (.applyRoundView ..)
  · have e2 := e1.trans (.staleStep _ r.group)
    split
    · next h =>
      rw [h] at e2
      exact e2.trans (.applyRoundView ..)
    · next h =>
      rw [h] at e2
      split
      · exact ((e2.trans (.windowStep ..)).trans (.applyRoundView ..)).trans (.syncGate ..)
      · exact (e2.trans (.windowStep ..)).trans (.applyRoundView ..)

theorem EventAt.recheckRound (s : State) (r : RoundResult) : EventAt r.group s (s.recheckRound r) := by
  unfold State.recheckRound
  cases (s.ctx r.group).state
  all_goals first | exact .refl .. | exact .applyRoundView .. | exact .openRecheck ..

theorem EventAt.roundResult (s : State) (r : RoundResult) : EventAt r.group s (s.roundResult r) := by
  unfold State.roundResult
  split
  · split
    · exact .burstRound ..
    · exact .refl ..
  · exact .recheckRound ..
  · exact .recheckRound ..

/-! ## Settling -/

theorem filter_modRequest_group (q : List ProbeRequest) (g : Index) (f : ProbeRequest → ProbeRequest)
    (keep : ∀ r, (f r).group = r.group) :
    (modRequest q g f).filter (fun r => r.group != g) = q.filter fun r => r.group != g := by
  induction q with
  | nil => rfl
  | cons x rest ih =>
    simp only [modRequest, List.map_cons] at ih ⊢
    by_cases e : x.group = g
    · simp [e, keep, ih]
    · simp [e, ih]

/-- Freeing a slot of group g and storing an outcome of g's round. -/
theorem EventAt.settleSlot (s : State) {k : Fin 8} {g : Index} (i : Fin 4) (o : LaneOutcome)
    (own : (Tab.get s.psc.slots k).state.group = some g) :
    EventAt g s { s with psc := storeOutcome g i o (freeSlot k s.psc) } :=
  .psc g s _ rfl rfl
    (fun k' h ne e => by
      have : k' ≠ k := fun eq => ne (by rw [eq, own] at e; exact (Option.some.inj e).symm)
      exact Tab.get_upd_ne _ _ this)
    (by
      exact congrArg _ (filter_modRequest_group s.psc.queue g _ fun _ => rfl))

theorem EventAt.endRound (s : State) {g : Index} {r : ProbeRequest} (e : r.group = g) :
    EventAt g s { s with psc := (endRound r s.psc).1 } := by
  subst e
  unfold Machine.endRound
  dsimp only
  split
  · exact .psc _ s _ rfl rfl (fun _ _ _ _ => rfl)
      (by
        show ((dropRequest s.psc.queue r.group).filter _).map _ = _
        simp [dropRequest, List.filter_filter])
  · exact .psc _ s _ rfl rfl (fun _ _ _ _ => rfl)
      (by
        exact congrArg _ (filter_modRequest_group s.psc.queue r.group _ fun _ => rfl))

theorem endRound_group (r : ProbeRequest) (p : Psc) : (endRound r p).2.group = r.group := by
  unfold endRound
  dsimp only
  split <;> rfl

/-- Settling a probe of group g touches g alone (R120, R121, R124). -/
theorem EventAt.settle (s : State) {k : Fin 8} {g : Index} (i : Fin 4) (o : LaneOutcome)
    (own : (Tab.get s.psc.slots k).state.group = some g) : EventAt g s (s.settle k g i o) := by
  unfold State.settle
  dsimp only
  have e1 := EventAt.settleSlot s i o own
  split
  · split
    · next r hr =>
      have eg := (findRequest_some hr).2
      refine (e1.trans (.endRound _ eg)).trans ?_
      have := EventAt.roundResult
        { s with psc := (Machine.endRound r (storeOutcome g i o (freeSlot k s.psc))).1 }
        (Machine.endRound r (storeOutcome g i o (freeSlot k s.psc))).2
      rw [endRound_group, eg] at this
      exact this
    · exact e1
  · exact e1

/-! ## What settling does to the scheduler at other groups -/

theorem PscAt.quarantine (s : State) (g : Index) (r : Reason) : PscAt g s.psc (s.quarantine g r).psc := .enter ..

theorem PscAt.holdRemote (s : State) (g : Index) : PscAt g s.psc (s.holdRemote g).psc := .enter ..

theorem PscAt.applyView (s : State) (g : Index) (v : View) : PscAt g s.psc (s.applyView g v).psc := by
  unfold State.applyView
  cases (s.ctx g).state <;> cases v <;> dsimp only
  all_goals
    first
    | exact .refl ..
    | exact .enter ..
    | exact .quarantine ..
    | exact .holdRemote ..
    | (split <;> first | exact .refl .. | exact .applyStart ..)

theorem PscAt.takeOutcome (s : State) (g : Index) (o : Outcome) : PscAt g s.psc (s.takeOutcome g o).psc := by
  cases o with
  | quarantined r => exact .quarantine ..
  | agreeing => exact PscAt.enter (s.loadFsu g) ..
  | verified => exact PscAt.enter (s.loadFsu g) ..
  | heldRemote => exact PscAt.holdRemote (s.loadFsu g) g

theorem PscAt.verdict (s : State) (g : Index) : PscAt g s.psc (s.verdict g).psc := by
  unfold State.verdict
  exact PscAt.takeOutcome ((s.refresh g).modCtx g _) g _

theorem PscAt.burstRound (s : State) (r : RoundResult) : PscAt r.group s.psc (s.burstRound r).psc := by
  unfold State.burstRound
  dsimp only
  generalize hu : (s.modCtx r.group fun c =>
    { c with record := mergeRound s.mga.settings (boundWidth s r.group) r.outcomes c.record }) = u
  have start : u.psc = s.psc := by rw [← hu]; rfl
  rw [← start]
  have view : ∀ v : Option View, PscAt r.group u.psc
      (match v with
       | some v => u.applyView r.group v
       | none => u).psc := by
    intro v
    cases v
    · exact .refl ..
    · exact .applyView ..
  split
  · exact (view _).trans (.verdict ..)
  · exact view _

theorem PscAt.windowStep (s : State) (g : Index) : PscAt g s.psc (s.windowStep g).psc := by
  unfold State.windowStep
  split
  · dsimp only
    split
    · exact PscAt.enter (s.modCtx g _) ..
    · exact .refl ..
  · dsimp only
    split
    · exact .refl ..
    · split
      · exact PscAt.enter (s.modCtx g _) ..
      · exact .refl ..
  · exact .refl ..

theorem PscAt.staleStep (s : State) (g : Index) : PscAt g s.psc (s.staleStep g).1.psc := by
  unfold State.staleStep
  split
  · dsimp only
    split
    · exact PscAt.quarantine (s.refresh g) ..
    · exact .refl ..
  · exact .refl ..

theorem psc_syncGate (s : State) (g : Index) : (s.syncGate g).psc = s.psc := by
  unfold State.syncGate
  split
  · split
    · rfl
    · exact (writeGate_rest ..).2.1
  · rfl

theorem PscAt.applyRoundView (s : State) (g : Index) (v : Option View) : PscAt g s.psc (s.applyRoundView g v).psc := by
  cases v
  · exact .refl ..
  · exact .applyView ..

theorem PscAt.openRecheck (s : State) (r : RoundResult) (v : Option View) :
    PscAt r.group s.psc (s.openRecheck r v).psc := by
  unfold State.openRecheck
  dsimp only
  generalize hu : (s.modCtx r.group fun c =>
    { c with
      record := (s.ctx r.group).record.mapLanes (boundWidth s r.group) fun i x =>
        recheckLane s.mga.settings (Tab.get r.outcomes i) x }) = u
  have start : u.psc = s.psc := by rw [← hu]; rfl
  rw [← start]
  split
  · exact (PscAt.enter ..).trans (.applyRoundView ..)
  · have e := PscAt.staleStep u r.group
    split
    · next h =>
      rw [h] at e
      exact e.trans (.applyRoundView ..)
    · next h =>
      rw [h] at e
      split
      · rw [psc_syncGate]
        exact (e.trans (.windowStep ..)).trans (.applyRoundView ..)
      · exact (e.trans (.windowStep ..)).trans (.applyRoundView ..)

theorem PscAt.roundResult (s : State) (r : RoundResult) : PscAt r.group s.psc (s.roundResult r).psc := by
  have recheck : PscAt r.group s.psc (s.recheckRound r).psc := by
    unfold State.recheckRound
    cases (s.ctx r.group).state
    all_goals first | exact .refl .. | exact .applyRoundView .. | exact .openRecheck ..
  unfold State.roundResult
  split
  · split
    · exact .burstRound ..
    · exact .refl ..
  · exact recheck
  · exact recheck

/-- Settling a probe frees slots, releases the lock and changes requests of its group alone. -/
theorem PscAt.settle (s : State) (k : Fin 8) (g : Index) (i : Fin 4) (o : LaneOutcome) :
    PscAt g s.psc (s.settle k g i o).psc := by
  have stored : PscAt g s.psc (storeOutcome g i o (freeSlot k s.psc)) := by
    refine ⟨fun k' => ?_, .inl rfl, filter_modRequest_group s.psc.queue g _ fun _ => rfl⟩
    by_cases e : k' = k
    · subst e
      exact .inr (by simp [storeOutcome, freeSlot])
    · exact .inl (Tab.get_upd_ne _ _ e)
  unfold State.settle
  dsimp only
  split
  · split
    · next r hr =>
      have eg := (findRequest_some hr).2
      have ended : PscAt g (storeOutcome g i o (freeSlot k s.psc)) (Machine.endRound r (storeOutcome g i o (freeSlot k s.psc))).1 := by
        subst eg
        unfold Machine.endRound
        dsimp only
        split
        · refine ⟨fun _ => .inl rfl, ?_, ?_⟩
          · simp only [releaseHolder]
            split
            · exact .inr rfl
            · exact .inl rfl
          · simp [dropRequest, List.filter_filter]
        · exact ⟨fun _ => .inl rfl, .inl rfl, filter_modRequest_group _ r.group _ fun _ => rfl⟩
      refine (stored.trans ended).trans ?_
      have := PscAt.roundResult
        { s with psc := (Machine.endRound r (storeOutcome g i o (freeSlot k s.psc))).1 }
        (Machine.endRound r (storeOutcome g i o (freeSlot k s.psc))).2
      rw [endRound_group, eg] at this
      exact this
    · exact stored
  · exact stored

/-- An echo that meets the four conditions of R120 matches the slot its tag names. -/
theorem matchEcho_some {s : State} {k : Fin 8} {g : Index} {i : Fin 4} {a : Time} {e : EchoFields} (h : EchoMatches s k g i a e) :
    matchEcho s.psc (tagSlot e.tag) (tagGeneration e.tag) e.sendTime a = some (g, i, (a - e.sendTime).toNat) := by
  obtain ⟨t, d, hs, hk, hg, ht⟩ := h
  unfold matchEcho
  rw [← hk, hs]
  exact if_pos ⟨hg, rfl, ht⟩

/-- An echo that meets them for no slot matches none. -/
theorem matchEcho_none {s : State} {a : Time} {e : EchoFields} (h : ∀ k g i, ¬EchoMatches s k g i a e) :
    matchEcho s.psc (tagSlot e.tag) (tagGeneration e.tag) e.sendTime a = none := by
  unfold matchEcho
  split
  · next g i t timeout d hs =>
    rw [if_neg]
    rintro ⟨h1, rfl, h3⟩
    exact h _ g i ⟨timeout, d, hs, rfl, h1, h3⟩
  · rfl

/-- Settling the last unsettled probe of a round completes the round of its request (R124). -/
theorem settle_last {s : State} (S : SchedulerConsistent s) {k : Fin 8} {g : Index} (i : Fin 4) (o : LaneOutcome)
    {r : ProbeRequest} (own : (Tab.get s.psc.slots k).state.group = some g)
    (last : ∀ k', k' ≠ k → (Tab.get s.psc.slots k').state.group ≠ some g) (mem : r ∈ s.psc.queue) (hg : r.group = g) :
    s.settle k g i o
      = ({ s with psc := (endRound { r with outcomes := Tab.set r.outcomes i (some o) }
            (storeOutcome g i o (freeSlot k s.psc))).1 }).roundResult
          (endRound { r with outcomes := Tab.set r.outcomes i (some o) } (storeOutcome g i o (freeSlot k s.psc))).2 := by
  unfold State.settle
  have h1 : roundSettled g (storeOutcome g i o (freeSlot k s.psc)) = true := by
    simp only [roundSettled, Bool.not_eq_true', Tab.any_false_iff]
    intro k'
    by_cases e : k' = k
    · subst e
      simp [storeOutcome, freeSlot, SlotState.group]
    · simp only [storeOutcome, freeSlot, Tab.get_upd_ne _ _ e]
      simpa using last k' e
  have h2 : findRequest (storeOutcome g i o (freeSlot k s.psc)).queue g
      = some { r with outcomes := Tab.set r.outcomes i (some o) } := by
    have nodup : ((storeOutcome g i o (freeSlot k s.psc)).queue.map ProbeRequest.group).Nodup := by
      have : (storeOutcome g i o (freeSlot k s.psc)).queue.map ProbeRequest.group = s.psc.queue.map ProbeRequest.group := by
        simp only [storeOutcome, freeSlot, modRequest, List.map_map]
        apply List.map_congr_left
        intro x _
        simp only [Function.comp]
        split <;> rfl
      rw [this]
      exact S.oneRequest
    have mem' : { r with outcomes := Tab.set r.outcomes i (some o) } ∈ (storeOutcome g i o (freeSlot k s.psc)).queue := by
      simp only [storeOutcome, modRequest, List.mem_map, freeSlot]
      exact ⟨r, mem, by simp [hg]⟩
    have := findRequest_of_mem nodup mem'
    subst hg
    exact this
  simp only [h1, h2, if_true]

end Sys2Proof.Machine
end

