-- ==== Sys2Proof/Laws/Chain.lean ====
section
/-! SUPPORT. The presence chain: what judging one byte does, and what a whole read does port by port. -/

namespace Sys2Proof.Machine

/-! ## Port change events -/

theorem EventAt.portChange (s : State) (g : Index) (e : PortChange) : EventAt g s (s.portChange g e) := by
  unfold State.portChange
  cases (s.ctx g).state <;> cases e
  all_goals
    first
    | exact .refl g s
    | exact .applyStart s g
    | exact .enter ..
    | (rename_i b; cases b <;> first | exact .refl g s | exact .enter ..)

theorem PscAt.portChange (s : State) (g : Index) (e : PortChange) : PscAt g s.psc (s.portChange g e).psc := by
  unfold State.portChange
  cases (s.ctx g).state <;> cases e
  all_goals
    first
    | exact .refl ..
    | exact .applyStart s g
    | exact .enter ..
    | (rename_i b; cases b <;> first | exact .refl .. | exact .enter ..)

theorem notices_enter (s : State) (g : Index) (st : GroupState) (r : Reason) (o : Option HoldOrigin) :
    (s.enter g st r o).notices = s.notices := by
  unfold State.enter
  dsimp only
  split <;> split <;> simp

theorem notices_applyStart (s : State) (g : Index) : (s.applyStart g).notices = s.notices := by
  unfold State.applyStart State.enterAcquiring
  dsimp only
  split
  · split <;> simp only [notices_enter]
  · split
    · rfl
    · exact notices_enter ..

theorem notices_portChange (s : State) (g : Index) (e : PortChange) : (s.portChange g e).notices = s.notices := by
  unfold State.portChange
  cases (s.ctx g).state <;> cases e
  all_goals
    first
    | rfl
    | exact notices_applyStart s g
    | exact notices_enter ..
    | (rename_i b; cases b <;> first | exact notices_enter .. | rfl)

/-! ## A context's taking of its event -/

/-- It touches that context alone. -/
theorem EventAt.takePortChange (s : State) (e : HandedEvent) : EventAt e.group s (s.takePortChange e) :=
  (EventAt.portChange ..).endEvent

@[simp] theorem ctx_takePortChange (s : State) (e : HandedEvent) (g : Index) :
    (s.takePortChange e).ctx g = (s.portChange e.group e.change).ctx g := ctx_endEvent ..

@[simp] theorem path_takePortChange (s : State) (e : HandedEvent) (g : Index) :
    (s.takePortChange e).path g = (s.portChange e.group e.change).path g := path_endEvent ..

theorem noProbeWork_takePortChange {s : State} {e : HandedEvent} {g : Index} (ne : g ≠ e.group) (h : NoProbeWork s g) :
    NoProbeWork (s.takePortChange e) g :=
  (Granted.endEvent _ _).noProbeWork ((PscAt.portChange ..).noProbeWork ne h)

/-- It posts the group notice of that context alone, if it has changed (R57). -/
theorem notices_takePortChange (s : State) (e : HandedEvent) :
    (s.takePortChange e).notices = groupNoticed s (s.takePortChange e) s.notices e.group := by
  have ev := EventAt.portChange s e.group e.change
  unfold State.takePortChange
  rw [notices_endEvent _ _ ev.blocks.now, groupNoticed_only ev.others.contexts, notices_portChange]
  unfold groupNoticed
  simp only [ctx_endEvent]

/-- What judging a byte keeps: the blocks, but for the inventory's records, and the receiving side. -/
structure ReadKept (s t : State) : Prop where
  inReset : t.inReset = s.inReset
  classTable : t.fsu.classTable = s.fsu.classTable
  malformed : t.fsu.malformed = s.fsu.malformed
  cpt : t.cpt = s.cpt
  ciu : ∃ r, t.ciu = { s.ciu with records := r }
  now : t.psc.now = s.psc.now
  sws : t.sws = s.sws
  mga : t.mga = s.mga
  turn : t.turn = s.turn
  pending : t.pending = s.pending
  receive : ReceiveKept s t

theorem ReadKept.refl (s : State) : ReadKept s s := ⟨rfl, rfl, rfl, rfl, ⟨_, rfl⟩, rfl, rfl, rfl, rfl, rfl, .refl s⟩

theorem ReadKept.trans {s t u : State} (a : ReadKept s t) (b : ReadKept t u) : ReadKept s u where
  inReset := b.1.trans a.1
  classTable := b.2.trans a.2
  malformed := b.3.trans a.3
  cpt := b.4.trans a.4
  ciu := by
    obtain ⟨r, e⟩ := a.ciu
    obtain ⟨r', e'⟩ := b.ciu
    exact ⟨r', by rw [e', e]⟩
  now := b.now.trans a.now
  sws := b.sws.trans a.sws
  mga := b.mga.trans a.mga
  turn := b.turn.trans a.turn
  pending := b.pending.trans a.pending
  receive := a.receive.trans b.receive

theorem ReadKept.ofEventAt {g : Index} {s t : State} (h : EventAt g s t) : ReadKept s t where
  inReset := h.blocks.inReset
  classTable := h.blocks.classTable
  malformed := h.blocks.malformed
  cpt := h.blocks.cpt
  ciu := ⟨s.ciu.records, h.blocks.ciu⟩
  now := h.blocks.now
  sws := h.blocks.sws
  mga := h.blocks.mga
  turn := h.blocks.turn
  pending := h.blocks.pending
  receive := h.receive

/-- An index stands once among those of its range. -/
theorem finRange_split {n : Nat} (j : Fin n) : ∃ l m, List.finRange n = l ++ j :: m ∧ j ∉ l ∧ j ∉ m := by
  obtain ⟨l, m, e⟩ := List.append_of_mem (List.mem_finRange j)
  have nodup := List.nodup_finRange n
  rw [e, List.nodup_append] at nodup
  refine ⟨l, m, e, fun h => ?_, ?_⟩
  · exact nodup.2.2 j h j List.mem_cons_self rfl
  · exact (List.nodup_cons.1 nodup.2.1).1

/-- Contexts that take events one after another: a context none of the events is for is untouched. -/
theorem takeEvents_kept (es : List HandedEvent) (s : State) :
    ReadKept s (es.foldl State.takePortChange s) ∧ (es.foldl State.takePortChange s).ciu = s.ciu
      ∧ ∀ g, (∀ e ∈ es, e.group ≠ g) → (es.foldl State.takePortChange s).ctx g = s.ctx g
        ∧ (es.foldl State.takePortChange s).path g = s.path g
        ∧ (NoProbeWork s g → NoProbeWork (es.foldl State.takePortChange s) g) := by
  induction es generalizing s with
  | nil => exact ⟨.refl s, rfl, fun _ _ => ⟨rfl, rfl, id⟩⟩
  | cons e rest ih =>
    have ev := EventAt.takePortChange s e
    obtain ⟨a, b, c⟩ := ih (s.takePortChange e)
    refine ⟨(ReadKept.ofEventAt ev).trans a, b.trans ev.blocks.ciu, fun g h => ?_⟩
    have ne : g ≠ e.group := (h e (.head _)).symm
    obtain ⟨d, f, w⟩ := c g fun x m => h x (.tail _ m)
    exact ⟨d.trans (ev.others.contexts g ne), f.trans (ev.others.paths g ne), fun n => w (noProbeWork_takePortChange ne n)⟩

/-- A context that one event of the list is for takes it as it would alone (R49): its context, its path, and the probe work it no longer has. -/
theorem takeEvents_at (l m : List HandedEvent) (e : HandedEvent) (s : State) (n1 : ∀ x ∈ l, x.group ≠ e.group)
    (n2 : ∀ x ∈ m, x.group ≠ e.group) :
    ∃ t, ReadKept s t ∧ t.ciu = s.ciu ∧ t.ctx e.group = s.ctx e.group ∧ t.path e.group = s.path e.group
      ∧ ((l ++ e :: m).foldl State.takePortChange s).ctx e.group = (t.takePortChange e).ctx e.group
      ∧ ((l ++ e :: m).foldl State.takePortChange s).path e.group = (t.takePortChange e).path e.group
      ∧ (NoProbeWork (t.takePortChange e) e.group → NoProbeWork ((l ++ e :: m).foldl State.takePortChange s) e.group) := by
  obtain ⟨a1, b1, c1⟩ := takeEvents_kept l s
  obtain ⟨c, d, _⟩ := c1 _ n1
  refine ⟨_, a1, b1, c, d, ?_⟩
  rw [List.foldl_append, List.foldl_cons]
  exact (takeEvents_kept m _).2.2 _ n2

/-- The events handed on are taken, but for those of contexts whose last round is in flight, which wait (R50). -/
theorem takeHanded_eq (s : State) :
    s.takeHanded = (s.ciu.handed.filter fun e => !lastRoundFlies s e.group).foldl State.takePortChange
      { s with ciu := { s.ciu with handed := s.ciu.handed.filter fun e => lastRoundFlies s e.group } } := rfl

theorem ciu_takeHanded (s : State) :
    s.takeHanded.ciu = { s.ciu with handed := s.ciu.handed.filter fun e => lastRoundFlies s e.group } :=
  (takeEvents_kept _ _).2.1

/-- A context whose last round is in flight takes no event of the read. -/
theorem takeHanded_waits {s : State} {g : Index} (h : lastRoundFlies s g = true) :
    s.takeHanded.ctx g = s.ctx g ∧ s.takeHanded.path g = s.path g := by
  obtain ⟨a, b, _⟩ := (takeEvents_kept (s.ciu.handed.filter fun e => !lastRoundFlies s e.group)
    { s with ciu := { s.ciu with handed := s.ciu.handed.filter fun e => lastRoundFlies s e.group } }).2.2 g fun e m eq => by
      rw [List.mem_filter, eq, h] at m
      cases m.2
  exact ⟨a, b⟩

/-- Where no event waits, a read's end has none to take first. -/
theorem takeAllWaiting_nil {s : State} (h : s.ciu.handed = []) : s.takeAllWaiting = s := by
  obtain ⟨_, _, _, _, ⟨_, _, _, _, _, handed⟩, _⟩ := s
  cases (show handed = [] from h)
  rfl

/-- After it no event waits, and the records are as they were. -/
theorem ciu_takeAllWaiting (s : State) : s.takeAllWaiting.ciu = { s.ciu with handed := [] } := (takeEvents_kept _ _).2.1

/-- The end of a read takes the events that wait before it judges (log 32). -/
theorem execChainReadEnd_takeAllWaiting (bits : List Bool) (s : State) (run : s.inReset = false) (read : s.ciu.inProgress = true) :
    execChainReadEnd bits s = execChainReadEnd bits s.takeAllWaiting := by
  have kept : s.takeAllWaiting.inReset = s.inReset := (takeEvents_kept s.ciu.handed _).1.inReset
  have none : s.takeAllWaiting.ciu.handed = [] := by rw [ciu_takeAllWaiting]
  have mark : s.takeAllWaiting.ciu.inProgress = true := by rw [ciu_takeAllWaiting]; exact read
  unfold execChainReadEnd State.unlessReset
  simp [kept, run, read, mark, takeAllWaiting_nil none]

/-- The earliest event that waits, taken (R49, R50). -/
theorem takeWaiting_cons {s : State} {e : HandedEvent} {rest : List HandedEvent} (h : s.ciu.handed = e :: rest) :
    s.takeWaiting = ({ s with ciu := { s.ciu with handed := rest } }).takePortChange e := by
  unfold State.takeWaiting
  rw [h]

/-! ## Bytes -/

/-- A good byte gives the fields of R42, its fault clear and its unplanned field as computed; a bad one holds the record. -/
theorem recordAfterByte_eq (plan : Tab PlanEntry 64) (p : Fin 16) (old : InventoryRecord) (b : Byte) :
    recordAfterByte plan p old b
      = match readChainByte b with
        | none => { old with fault := true }
        | some r => { r with unplanned := unplannedField plan p r.present } := by
  have hu : uncoveredLane plan p = decide (∃ j : Fin 4, covering plan (cell p j) = none) := by
    rw [Bool.eq_iff_iff]
    simp [uncoveredLane]
  have parity : onesCount b % 2 = 0 ∨ onesCount b % 2 = 1 := by omega
  have field : (b.extractLsb' 2 2).toNat < 4 := (b.extractLsb' 2 2).isLt
  unfold recordAfterByte readChainByte shapeOf
  generalize (b.extractLsb' 2 2).toNat = x at field
  have cases4 : x = 0 ∨ x = 1 ∨ x = 2 ∨ x = 3 := by omega
  rcases parity with h | h <;> rcases cases4 with rfl | rfl | rfl | rfl <;> cases hb : b.getLsbD 7 <;>
    simp [h, unplannedField, hu, InventoryRecord.absent]

/-- The events a change of port p's record hands on (R49). -/
def handedFor (p : Fin 16) (old new : InventoryRecord) : List HandedEvent :=
  (portChangeOf old new).toList.flatMap fun e => (List.finRange 4).map fun j => { group := cell p j, change := e }

/-- A record that keeps present, class, shape and ready hands nothing on (R45, R49). -/
theorem portChangeOf_same {old new : InventoryRecord} (h1 : new.present = old.present) (h2 : new.cls = old.cls)
    (h3 : new.shape = old.shape) (h4 : new.ready = old.ready) : portChangeOf old new = none := by
  unfold portChangeOf
  simp [h1, h2, h3, h4]

/-- Judging a port's byte changes its record, hands its event on and posts its notice, and nothing else (R45, R46, R49). -/
theorem judgeByte_eq (s : State) (p : Fin 16) (b : Byte) :
    let old := Tab.get s.ciu.records p
    let new := recordAfterByte s.cpt.plan p old b
    s.judgeByte p b =
      { s with
        ciu := { s.ciu with records := Tab.set s.ciu.records p new, handed := s.ciu.handed ++ handedFor p old new }
        notices :=
          if readChainByte b = none ∨ new ≠ old then postNotice s.notices (64 + p.val) (.port new) s.psc.now else s.notices } := by
  dsimp only
  rw [recordAfterByte_eq]
  unfold State.judgeByte
  cases h : readChainByte b with
  | none =>
    have e : handedFor p (Tab.get s.ciu.records p) { Tab.get s.ciu.records p with fault := true } = [] := by
      have none : portChangeOf (Tab.get s.ciu.records p) { Tab.get s.ciu.records p with fault := true } = none :=
        portChangeOf_same rfl rfl rfl rfl
      unfold handedFor
      rw [none]
      rfl
    dsimp only
    rw [e, List.append_nil, if_pos (.inl rfl)]
    simp [State.postPort, State.setRecord]
  | some r =>
    have key : ∀ new : InventoryRecord,
        (if new = Tab.get s.ciu.records p then s
          else
            match portChangeOf (Tab.get s.ciu.records p) new with
            | some e => ((s.setRecord p new).postPort p).handOn p e
            | none => (s.setRecord p new).postPort p)
        = { s with
            ciu := { s.ciu with
              records := Tab.set s.ciu.records p new
              handed := s.ciu.handed ++ handedFor p (Tab.get s.ciu.records p) new }
            notices :=
              if some r = none ∨ new ≠ Tab.get s.ciu.records p then postNotice s.notices (64 + p.val) (.port new) s.psc.now
              else s.notices } := by
      intro new
      unfold handedFor
      split
      · next same =>
        have t : Tab.set s.ciu.records p new = s.ciu.records := Tab.ext fun i => by
          rw [Tab.get_set]
          split
          · next eq => rw [eq, same]
          · rfl
        have e : portChangeOf (Tab.get s.ciu.records p) new = none := by
          rw [same]
          exact portChangeOf_same rfl rfl rfl rfl
        rw [e, t]
        simp [same]
      · next ne =>
        rw [if_pos (.inr ne)]
        cases portChangeOf (Tab.get s.ciu.records p) new with
        | none => simp [State.postPort, State.setRecord]
        | some e => simp [State.postPort, State.setRecord, State.handOn]
    exact key _

/-! ## The whole read -/

/-- Part of a read: the bytes of some ports judged in turn. -/
def judgePorts (bits : List Bool) (ps : List (Fin 16)) (s : State) : State :=
  ps.foldl (fun t p => t.judgeByte p (portByte bits p)) s

/-- The record of a port after a read of these bits (R41). -/
def recordAfterRead (s : State) (bits : List Bool) (p : Fin 16) : InventoryRecord :=
  recordAfterByte s.cpt.plan p (Tab.get s.ciu.records p) (portByte bits p)

/-- The notice of a port that a read posts (R45, R46). -/
def noticedByRead (s : State) (bits : List Bool) (q : List Notice) (p : Fin 16) : List Notice :=
  if readChainByte (portByte bits p) = none ∨ recordAfterRead s bits p ≠ Tab.get s.ciu.records p then
    postNotice q (64 + p.val) (.port (recordAfterRead s bits p)) s.psc.now
  else q

/-- Some ports judged, each once: their records, the events handed on and the port notices, in their order (R45, R46, R48, R49). -/
theorem judgePorts_eq (bits : List Bool) (ps : List (Fin 16)) (s : State) (d : ps.Nodup) :
    judgePorts bits ps s =
      { s with
        ciu := { s.ciu with
          records := Tab.build fun p => if p ∈ ps then recordAfterRead s bits p else Tab.get s.ciu.records p
          handed := s.ciu.handed ++ ps.flatMap fun p => handedFor p (Tab.get s.ciu.records p) (recordAfterRead s bits p) }
        notices := ps.foldl (noticedByRead s bits) s.notices } := by
  induction ps generalizing s with
  | nil =>
    have t : (Tab.build fun p => Tab.get s.ciu.records p) = s.ciu.records := Tab.ext fun i => by simp
    simp [judgePorts, t]
  | cons p rest ih =>
    obtain ⟨nm, d⟩ := List.nodup_cons.1 d
    have first := judgeByte_eq s p (portByte bits p)
    dsimp only at first
    have other : ∀ q ∈ rest, Tab.get (s.judgeByte p (portByte bits p)).ciu.records q = Tab.get s.ciu.records q := fun q m => by
      rw [first]
      exact Tab.get_set_ne _ _ fun e => nm (e ▸ m)
    have after : ∀ q ∈ rest, recordAfterRead (s.judgeByte p (portByte bits p)) bits q = recordAfterRead s bits q := fun q m => by
      unfold recordAfterRead
      rw [other q m, first]
    have posts : ∀ (ps : List (Fin 16)) (n : List Notice), (∀ q ∈ ps, q ∈ rest) →
        ps.foldl (noticedByRead (s.judgeByte p (portByte bits p)) bits) n = ps.foldl (noticedByRead s bits) n := by
      intro ps
      induction ps with
      | nil => exact fun _ _ => rfl
      | cons q more ih =>
        intro n sub
        have e : noticedByRead (s.judgeByte p (portByte bits p)) bits n q = noticedByRead s bits n q := by
          unfold noticedByRead
          rw [after q (sub q (.head _)), other q (sub q (.head _)), first]
        rw [List.foldl_cons, List.foldl_cons, e]
        exact ih _ fun x m => sub x (.tail _ m)
    have events : (rest.flatMap fun q => handedFor q (Tab.get (s.judgeByte p (portByte bits p)).ciu.records q)
          (recordAfterRead (s.judgeByte p (portByte bits p)) bits q))
        = rest.flatMap fun q => handedFor q (Tab.get s.ciu.records q) (recordAfterRead s bits q) :=
      List.flatMap_congr fun q m => by rw [other q m, after q m]
    have records : (Tab.build fun q => if q ∈ rest then recordAfterRead (s.judgeByte p (portByte bits p)) bits q
          else Tab.get (s.judgeByte p (portByte bits p)).ciu.records q)
        = Tab.build fun q => if q ∈ p :: rest then recordAfterRead s bits q else Tab.get s.ciu.records q := Tab.ext fun q => by
      rw [Tab.get_build, Tab.get_build]
      by_cases m : q ∈ rest
      · rw [if_pos m, if_pos (.tail _ m), after q m]
      · rw [if_neg m]
        by_cases e : q = p
        · rw [if_pos (by rw [e]; exact List.mem_cons_self), first, e]
          exact Tab.get_set_same ..
        · rw [if_neg fun x => (List.mem_cons.1 x).elim e m, first]
          exact Tab.get_set_ne _ _ e
    have step : judgePorts bits (p :: rest) s = judgePorts bits rest (s.judgeByte p (portByte bits p)) := rfl
    rw [step, ih _ d, records, events, posts rest _ fun _ m => m, first]
    simp only [recordAfterRead, noticedByRead, List.append_assoc, List.flatMap_cons, List.foldl_cons]
    rfl

/-- A whole read (R45): every port's record, and from port 15 down the events handed on and the port notices. -/
theorem judgeRead_eq (s : State) (bits : List Bool) :
    s.judgeRead bits =
      { s with
        ciu := { s.ciu with
          records := Tab.build (recordAfterRead s bits)
          handed := s.ciu.handed ++ (List.finRange 16).reverse.flatMap fun p =>
            handedFor p (Tab.get s.ciu.records p) (recordAfterRead s bits p) }
        notices := (List.finRange 16).reverse.foldl (noticedByRead s bits) s.notices } := by
  have order : s.judgeRead bits = judgePorts bits ((List.finRange 16).map Fin.rev) s := by
    unfold State.judgeRead judgePorts
    rw [List.foldl_map]
  rw [order, ← List.finRange_reverse, judgePorts_eq _ _ _ (List.nodup_reverse.2 (List.nodup_finRange 16))]
  simp

/-- After a read every port's record is the one its byte gives (R42, R45 to R47). -/
theorem records_judgeRead (s : State) (bits : List Bool) (p : Fin 16) :
    Tab.get (s.judgeRead bits).ciu.records p
      = recordAfterByte s.cpt.plan p (Tab.get s.ciu.records p) (portByte bits p) := by
  rw [judgeRead_eq]
  exact Tab.get_build ..

end Sys2Proof.Machine
end

