-- ==== Sys2Proof/Laws/Plan.lean ====
section
/-! SUPPORT. Plan writes and identity: what recomputing the unplanned field, binding, disabling and a new identity can do. -/

namespace Sys2Proof.Machine

/-- Recomputing a port's unplanned field: that field alone of that record, with the port's notice (R47). -/
theorem recomputeUnplanned_kept (s : State) (p : Fin 16) :
    ReadKept s (s.recomputeUnplanned p)
      ∧ (∀ g, (s.recomputeUnplanned p).ctx g = s.ctx g ∧ (s.recomputeUnplanned p).path g = s.path g)
      ∧ (s.recomputeUnplanned p).psc = s.psc ∧ (s.recomputeUnplanned p).fsu = s.fsu
      ∧ (∀ q, q ≠ p → Tab.get (s.recomputeUnplanned p).ciu.records q = Tab.get s.ciu.records q)
      ∧ Tab.get (s.recomputeUnplanned p).ciu.records p
        = { Tab.get s.ciu.records p with unplanned := unplannedField s.cpt.plan p (Tab.get s.ciu.records p).present } := by
  unfold State.recomputeUnplanned
  dsimp only
  split
  · next h => exact ⟨.refl s, fun _ => ⟨rfl, rfl⟩, rfl, rfl, fun _ _ => rfl, by rw [h]⟩
  · exact ⟨⟨rfl, rfl, rfl, rfl, ⟨_, rfl⟩, rfl, rfl, rfl, rfl, rfl, ⟨rfl, rfl, rfl, rfl, rfl⟩⟩, fun _ => ⟨rfl, rfl⟩, rfl, rfl,
      fun q ne => Tab.get_set_ne _ _ ne, Tab.get_set_same _ _ _⟩

theorem EventAt.bindAndStart (s : State) (g : Index) (b : PlanFields) : EventAt g s (s.bindAndStart g b) :=
  ((EventAt.modCtx ..).trans (.enter ..)).trans (.applyStart ..)

theorem EventAt.disableContext (s : State) (g : Index) : EventAt g s (s.disableContext g) :=
  ((EventAt.modCtx ..).trans (.enter ..)).trans (.modPath ..)

theorem stale_enter (s : State) (g : Index) (st : GroupState) (r : Reason) (o : Option HoldOrigin) :
    ((s.enter g st r o).ctx g).stale = (s.ctx g).stale := by simp [enterContext]

theorem stale_applyStart (s : State) (g : Index) : ((s.applyStart g).ctx g).stale = (s.ctx g).stale := by
  unfold State.applyStart State.enterAcquiring
  split
  · dsimp only
    split
    · rw [stale_enter, stale_enter]
    · rw [stale_enter]
  · split
    · simp
    · rw [stale_enter]

/-- A WAITING context whose probe work is abandoned, after the start test: it waits with the reason, or has gone on to ACQUIRING or
DISCOVERING (R59, R60, R61). -/
theorem waits_or_starts {s : State} {g : Index} {r : Reason} (w : Waits s g r) :
    match startTest s g with
    | some x => Waits (s.applyStart g) g x
    | none => AcquiresOrDiscovers s (s.applyStart g) g := by
  cases e : startTest s g with
  | some x =>
    rw [applyStart_waiting w.inState.state e]
    exact
      { inState := ⟨by simp [w.inState.state], by simp, by simp [w.inState.origin], by simp [w.inState.gate]⟩
        record := by simp [w.record]
        timer := by simp [w.timer]
        poll := by simp [w.poll]
        goodCount := by simp [w.goodCount]
        probes := ⟨w.probes.1, w.probes.2, w.probes.3⟩ }
  | none =>
    have : s.applyStart g = s.enterAcquiring g := by simp [State.applyStart, e]
    rw [this]
    exact acquiresOrDiscovers_enterAcquiring s g

/-- A context bound afresh and taken through WAITING: its binding, and the outcome of the start test (R26, R58). -/
theorem bindAndStart_outcome (s : State) (g : Index) (b : PlanFields) :
    ((s.bindAndStart g b).ctx g).bound = some b ∧ ((s.bindAndStart g b).ctx g).stale = false
      ∧ ∃ w, EventAt g s w ∧ boundWidth w g = b.width.lanes ∧ Waits w g .none ∧ startTest w g = startTest s g
        ∧ w.buc.lockView = s.buc.lockView ∧ s.bindAndStart g b = w.applyStart g := by
  unfold State.bindAndStart
  have ev : EventAt g s ((s.modCtx g fun c => { c with bound := some b, stale := false }).enter g .waiting .none none) :=
    (EventAt.modCtx ..).trans (.enter ..)
  refine ⟨?_, ?_, _, ev, ?_, waits_enter .., ?_, ev.receive.lockView, rfl⟩
  · rw [bound_applyStart]; simp [enterContext]
  · rw [stale_applyStart, stale_enter]; simp
  · rw [boundWidth_enter]; simp [boundWidth]
  · unfold startTest State.record
    rw [ev.blocks.mga, ev.blocks.ciu]

end Sys2Proof.Machine
end

