-- ==== Sys2Proof/Laws/Folds.lean ====
section
/-! SUPPORT. An operation applied to the groups one after another: what the whole leaves at each group. -/

namespace Sys2Proof.Machine

/-- What an operation at other groups leaves of group g: its context, its FSU part, the lock view, its requests and its freedom from
probe work. -/
structure KeptAt (g : Index) (t u : State) : Prop where
  ctx : u.ctx g = t.ctx g
  path : u.path g = t.path g
  lockView : u.buc.lockView = t.buc.lockView
  requests : ∀ r ∈ t.psc.queue, r.group = g → r ∈ u.psc.queue
  probes : NoProbeWork t g → NoProbeWork u g

theorem KeptAt.refl (g : Index) (s : State) : KeptAt g s s := ⟨rfl, rfl, rfl, fun _ m _ => m, id⟩

theorem KeptAt.trans {g : Index} {s t u : State} (a : KeptAt g s t) (b : KeptAt g t u) : KeptAt g s u :=
  ⟨b.1.trans a.1, b.2.trans a.2, b.3.trans a.3, fun r m e => b.4 r (a.4 r m e) e, fun n => b.5 (a.5 n)⟩

/-- An operation at group h leaves every other group as it was. -/
theorem KeptAt.ofEventAt {g h : Index} {s t : State} (ne : g ≠ h) (e : EventAt h s t) (p : PscAt h s.psc t.psc) : KeptAt g s t where
  ctx := e.others.contexts g ne
  path := e.others.paths g ne
  lockView := e.receive.lockView
  requests r m own := by
    have : r ∈ s.psc.queue.filter fun r => r.group != h := List.mem_filter.2 ⟨m, by simpa [own] using ne⟩
    rw [← p.queue] at this
    exact (List.mem_filter.1 this).1
  probes := p.noProbeWork ne

theorem KeptAt.inState {t u : State} {g : Index} (h : KeptAt g t u) {st : GroupState} {r : Reason} {o : Option HoldOrigin}
    (a : InState t g st r o) : InState u g st r o :=
  ⟨by rw [h.ctx]; exact a.1, by rw [h.ctx]; exact a.2, by rw [h.ctx]; exact a.3, by rw [h.path]; exact a.4⟩

theorem KeptAt.startsDiscovery {t u : State} {g : Index} (h : KeptAt g t u) {n : Nat} (a : StartsDiscovery t g n) :
    StartsDiscovery u g n where
  inState := h.inState a.inState
  timer := by rw [h.ctx]; exact a.timer
  poll := by rw [h.ctx]; exact a.poll
  goodCount := by rw [h.ctx]; exact a.goodCount
  lanes i := by
    rw [h.ctx, a.lanes i]
    unfold freshLane boundWidth
    rw [h.ctx, h.lockView]
  lastView := by rw [h.ctx]; exact a.lastView
  laneMap := by rw [h.ctx]; exact a.laneMap
  skew := by rw [h.ctx]; exact a.skew
  burst := by
    obtain ⟨r, mem, e1, e2, e3⟩ := a.burst
    exact ⟨r, h.requests r mem e1, e1, e2, e3⟩

theorem KeptAt.waits {t u : State} {g : Index} (h : KeptAt g t u) {r : Reason} (a : Waits t g r) : Waits u g r where
  inState := h.inState a.inState
  record := by rw [h.ctx]; exact a.record
  timer := by rw [h.ctx]; exact a.timer
  poll := by rw [h.ctx]; exact a.poll
  goodCount := by rw [h.ctx]; exact a.goodCount
  probes := h.probes a.probes

theorem KeptAt.acquires {s t u : State} {g : Index} (h : KeptAt g t u) (a : Acquires s t g) : Acquires s u g where
  inState := h.inState a.inState
  timer := by rw [h.ctx]; exact a.timer
  poll := by rw [h.ctx]; exact a.poll
  record := by rw [h.ctx]; exact a.record
  probes := h.probes a.probes

theorem KeptAt.acquiresOrDiscovers {s t u : State} {g : Index} (h : KeptAt g t u) (a : AcquiresOrDiscovers s t g) :
    AcquiresOrDiscovers s u g := by
  unfold AcquiresOrDiscovers at a ⊢
  split_ifs at a ⊢
  · exact h.startsDiscovery a
  · exact h.acquires a

/-- The groups of a list but g, each given the operation, leave group g as it was; and the whole keeps what each operation keeps. -/
theorem fold_others {f : State → Index → State} (ev : ∀ s h, EventAt h s (f s h)) (ps : ∀ s h, PscAt h s.psc (f s h).psc)
    {g : Index} (is : List Index) (nm : g ∉ is) (s : State) : KeptAt g s (is.foldl f s) := by
  induction is generalizing s with
  | nil => exact .refl g s
  | cons h rest ih =>
    have ne : g ≠ h := fun e => nm (e ▸ List.mem_cons_self)
    exact (KeptAt.ofEventAt ne (ev s h) (ps s h)).trans (ih (fun m => nm (List.mem_cons_of_mem _ m)) _)

theorem fold_blocks {f : State → Index → State} (ev : ∀ s h, EventAt h s (f s h)) (is : List Index) (s : State) :
    BlocksKept s (is.foldl f s) ∧ ReceiveKept s (is.foldl f s) := by
  induction is generalizing s with
  | nil => exact ⟨.refl s, .refl s⟩
  | cons h rest ih =>
    obtain ⟨a, b⟩ := ih (f s h)
    exact ⟨(ev s h).blocks.trans a, (ev s h).receive.trans b⟩

/-- The operation given to every group: group g has it once, on a state that agrees with the first at g, and keeps its outcome. -/
theorem fold_at {f : State → Index → State} (ev : ∀ s h, EventAt h s (f s h)) (ps : ∀ s h, PscAt h s.psc (f s h).psc)
    (s : State) (g : Index) :
    ∃ t, SameAt g s t ∧ KeptAt g s t ∧ KeptAt g (f t g) (indices.foldl f s) := by
  obtain ⟨l, m, split, n1, n2⟩ := finRange_split g
  have a := fold_others ev ps l n1 s
  have b := fold_blocks ev l s
  refine ⟨l.foldl f s, ⟨a.ctx, a.path, a.lockView, b.1.ciu, b.1.mga⟩, a, ?_⟩
  unfold indices
  rw [split, List.foldl_append, List.foldl_cons]
  exact fold_others ev ps m n2 _

end Sys2Proof.Machine
end

