-- ==== Sys2Proof/Laws/Lanes.lean ====
section
/-! SUPPORT. A data frame offered to a settled transmit lane, and the end of the frame under way on one. -/

namespace Sys2Proof.Machine

/-- Two states that agree on all but the transmit lanes, and there lane by lane, are one. -/
theorem eq_of_tx {s t : State} (rest : s = { t with fsu := { t.fsu with lineTx := s.fsu.lineTx, systemTx := s.fsu.systemTx } })
    (tx : ∀ d l, Tab.get (s.tx d) l = Tab.get (t.tx d) l) : s = t := by
  have k1 : s.fsu.lineTx = t.fsu.lineTx := Tab.ext fun l => tx .line l
  have k2 : s.fsu.systemTx = t.fsu.systemTx := Tab.ext fun l => tx .system l
  rw [rest, k1, k2]

theorem arbitrate_rest (s : State) :
    s.arbitrate = { s with fsu := { s.fsu with lineTx := s.arbitrate.fsu.lineTx, systemTx := s.arbitrate.fsu.systemTx } } := by
  unfold State.arbitrate
  rfl

/-- A settled lane takes nothing. -/
theorem takeData_settled {s : State} (h : LanesSettled s) (d : Side) (l : Index) :
    (Tab.get (s.tx d) l).takeData (insertedWaits s d l) = Tab.get (s.tx d) l := by
  have := h d l
  unfold TxLane.takeData
  cases hu : (Tab.get (s.tx d) l).underWay <;> cases hw : insertedWaits s d l <;> cases hb : (Tab.get (s.tx d) l).buffer <;> simp_all

/-- One transmit lane changed while the others are settled: arbitration touches that lane alone. -/
theorem modTx_arbitrate {s : State} (h : LanesSettled s) (d : Side) (l : Index) (f : TxLane → TxLane) :
    (s.modTx d l f).arbitrate = s.modTx d l fun x => (f x).takeData (insertedWaits s d l) := by
  have hi : ∀ e m, insertedWaits (s.modTx d l f) e m = insertedWaits s e m := by
    intro e m
    cases d <;> cases e <;> rfl
  apply eq_of_tx
  · rw [arbitrate_rest]
    cases d <;> rfl
  · intro e m
    rw [tx_arbitrate, hi]
    by_cases hde : e = d
    · subst hde
      by_cases hll : m = l
      · subst hll
        rw [get_tx_modTx_same, get_tx_modTx_same]
      · rw [get_tx_modTx_ne _ _ _ hll, get_tx_modTx_ne _ _ _ hll, takeData_settled h]
    · rw [tx_modTx_other _ _ _ hde, tx_modTx_other _ _ _ hde, takeData_settled h]

theorem modTx_congr {s : State} {d : Side} {l : Index} {f g : TxLane → TxLane} (h : f (Tab.get (s.tx d) l) = g (Tab.get (s.tx d) l)) :
    s.modTx d l f = s.modTx d l g := by
  cases d <;> simp only [State.modTx, Tab.upd] <;> simp only [State.tx] at h <;> rw [h]

/-- A data frame buffered on settled lanes is a data frame offered to its lane (R5). -/
theorem buffer_arbitrate {s : State} (h : LanesSettled s) (d : Side) (f : DataFrame) :
    (s.buffer d f).arbitrate = s.offerFrame d f := by
  unfold State.buffer State.offerFrame
  rw [modTx_arbitrate h]
  apply modTx_congr
  have := h d f.out
  unfold TxLane.takeData TxLane.offer
  cases hu : (Tab.get (s.tx d) f.out).underWay <;> cases hw : insertedWaits s d f.out
    <;> cases hb : (Tab.get (s.tx d) f.out).buffer <;> simp_all

/-- The frame under way on a lane ends among settled lanes (R5). -/
theorem finish_arbitrate {s : State} (h : LanesSettled s) (d : Side) (l : Index) {f : TxFrame} (abortMark : Bool)
    (hu : (Tab.get (s.tx d) l).underWay = some f) :
    (s.modTx d l (TxLane.finish abortMark)).arbitrate
      = s.modTx d l (TxLane.next (insertedWaits s d l) f (endOf f abortMark)) := by
  rw [modTx_arbitrate h]
  apply modTx_congr
  unfold TxLane.takeData TxLane.finish TxLane.next
  cases hw : insertedWaits s d l <;> cases hb : (Tab.get (s.tx d) l).buffer <;> simp_all

end Sys2Proof.Machine
end

