-- ==== Sys2Proof/Laws/Management.lean ====
section
/-! SUPPORT. The frame of a management command: which request is executed, and what an answer changes. -/

namespace Sys2Proof.Machine

/-- An execution whose earliest waiting request is the row's own: the command's outcome, answered. -/
theorem execute_mine {s : State} {r : ControlRequest} {mine : ControlRequest → Bool} (c : Command) (out : s.inReset = false)
    (first : earliestWaiting s.mga.queue = some r) (own : mine r = true) :
    s.execute mine c = .next ((c.run r s).1.respond r (c.run r s).2) := by
  simp only [State.execute, State.unlessReset, out, first, own, if_true, Bool.false_eq_true, if_false]

/-- The same with the request's argument length accepted: the command's body decides. -/
theorem execute_body {s : State} {r : ControlRequest} {mine : ControlRequest → Bool} (c : Command) (out : s.inReset = false)
    (first : earliestWaiting s.mga.queue = some r) (own : mine r = true) (fits : c.lengths.contains r.args.length = true) :
    s.execute mine c = .next ((c.body r.args s).1.respond r (c.body r.args s).2) := by
  rw [execute_mine c out first own, Command.run, if_pos fits]

/-- The same with a length the command does not take: refused with LENGTH (R185). -/
theorem execute_length {s : State} {r : ControlRequest} {mine : ControlRequest → Bool} (c : Command) (out : s.inReset = false)
    (first : earliestWaiting s.mga.queue = some r) (own : mine r = true) (bad : r.args.length ∉ c.lengths) :
    s.execute mine c = .next (s.respond r (.refuse .length)) := by
  rw [execute_mine c out first own, Command.run, if_neg fun h => bad (List.contains_iff_mem.mp h)]

theorem indexArg_of_lt {n bound : Nat} (h : n < bound) : indexArg n bound = some ⟨n, h⟩ := dif_pos h

theorem indexArg_of_le {n bound : Nat} (h : bound ≤ n) : indexArg n bound = none := dif_neg (Nat.not_lt.mpr h)

theorem clamp_eq (lo hi x : Nat) (h : lo ≤ hi) : clamp lo hi x = max lo (min hi x) := by
  unfold clamp; split
  · omega
  · split <;> omega

/-- An answer changes the request queue alone. -/
theorem respond_eq (s : State) (r : ControlRequest) (a : Reply) :
    s.respond r a = { s with mga := { s.mga with queue := (s.respond r a).mga.queue } } := rfl

@[simp] theorem tx_respond (s : State) (r : ControlRequest) (a : Reply) : (s.respond r a).tx = s.tx := by
  funext d; cases d <;> rfl

/-- What is answered first is the earliest waiting entry. -/
theorem answerFirst_append (response : Option (List Byte)) (pre post : List Entry) (r : ControlRequest)
    (ne : ∀ e ∈ pre, e.state ≠ .waiting) :
    answerFirst response (pre ++ { request := r, state := .waiting } :: post)
      = pre ++ (match response with
        | some bytes => { request := r, state := .answering bytes } :: post
        | none => post) := by
  induction pre with
  | nil => cases response <;> rfl
  | cons e rest ih =>
    have h := ne e (.head _)
    have k := ih fun x m => ne x (.tail _ m)
    cases hs : e.state with
    | waiting => exact absurd hs h
    | answering b => simp only [List.cons_append, answerFirst, hs, k]

theorem earliestWaiting_append (pre post : List Entry) (r : ControlRequest) (ne : ∀ e ∈ pre, e.state ≠ .waiting) :
    earliestWaiting (pre ++ { request := r, state := .waiting } :: post) = some r := by
  induction pre with
  | nil => rfl
  | cons e rest ih =>
    have h := ne e (.head _)
    have k := ih fun x m => ne x (.tail _ m)
    unfold earliestWaiting at k ⊢
    simpa [List.find?_cons, h] using k

/-- Answers never lengthen the request queue. -/
theorem length_answerFirst (response : Option (List Byte)) (q : List Entry) : (answerFirst response q).length ≤ q.length := by
  induction q with
  | nil => exact Nat.le_refl 0
  | cons e rest ih =>
    cases h : e.state with
    | waiting => cases response <;> simp [answerFirst, h]
    | answering b => simp only [answerFirst, h, List.length_cons]; omega

end Sys2Proof.Machine
end

