-- ==== Sys2Proof/Tests/Slice0.lean ====
section
/-! SUPPORT. The model's own tests: the well-formedness smoke, worked examples of the spec, and one witness for the hypotheses of each statement
of Certificates/Slice0/Obligations.lean. -/

namespace Sys2Proof.Tests

open Sys2Proof Sys2Proof.Machine

/-! ## Small states -/

/-- Bytes from numbers. -/
def bytesOf (l : List Nat) : List Byte := l.map byte

/-- The state a command answers, or the state before it. -/
def after (c : Instr) (s : State) : State :=
  match exec c s with
  | .next t => t
  | .fault _ | .refused _ => s

/-- The plan fields of the group in the tests: width 2 on lanes 0 and 1 of port 0, far end chassis 9, unit 0, port 5, far first lane 2. -/
def fields2 : PlanFields :=
  { PlanFields.reset with
    width := .two, farChassis := 9, farPort := 5, farFirstLane := 2, lengthMin := 800, lengthMax := 1100, skewLimit := 2, retry := 5 }

/-- A lane record merged with the planned far end. -/
def mergedLane (i : Nat) (E : Nat) : LaneRecord :=
  { LaneRecord.cleared with
    merged := some { far := { chassis := 9, unit := 0, port := 5, lane := 2 + i }, back := laneAt 0 i }
    estimate := some E, comp := some 0 }

/-- A whole record of the group. -/
def record2 (E0 E1 : Nat) : DiscoveryRecord :=
  { DiscoveryRecord.cleared with
    lanes := Tab.build fun i => if i.val = 0 then mergedLane 0 E0 else if i.val = 1 then mergedLane 1 E1 else LaneRecord.cleared
    laneMap := some .straight }

/-- The part with identity 7/2 and group 0 planned, cabled, locked and in a given context, its gate that of the context's state. -/
def groupState (c : Context) : State :=
  let s := State.reset
  { s with
    mga := { s.mga with identity := { chassis := 7, unit := 2, assigned := true } }
    cpt := { s.cpt with plan := Tab.set s.cpt.plan 0 { enabled := true, fields := fields2 } }
    ciu := { s.ciu with records := Tab.set s.ciu.records 0 { InventoryRecord.absent with present := true, shape := .pair, ready := true } }
    lfr := Tab.build fun l => { state := if l.val < 4 then .locked else .dark, polarity := false }
    buc :=
      { contexts := Tab.set s.buc.contexts 0 c
        lockView := Tab.build fun l => { locked := decide (l.val < 4), polarity := false } }
    fsu := { s.fsu with paths := Tab.upd s.fsu.paths 0 fun p => { p with gate := gateOf c.state } } }

/-- A context of the group in a state, with its binding and a whole record. -/
def context2 (st : GroupState) : Context :=
  { Context.reset with state := st, bound := some fields2, record := record2 716 720 }

/-- The group in a state. -/
def inGroup (st : GroupState) : State := groupState (context2 st)

/-- A request of a command code with arguments, from system lane 0. -/
def requestOf (code : Nat) (args : List Nat) : ControlRequest :=
  { lead := 0xE000, target := 0x0072, tag := 7, code := code, args := bytesOf args, lane := 0 }

/-- A state with one WAITING request. -/
def asking (code : Nat) (args : List Nat) (s : State) : State :=
  { s with mga := { s.mga with queue := [{ request := requestOf code args, state := .waiting }] } }

/-- The bytes of the response that a command leaves in the first entry of the request queue. -/
def responseOf (c : Instr) (s : State) : List Nat :=
  match (after c s).mga.queue with
  | { request := _, state := .answering bytes } :: _ => bytes.map BitVec.toNat
  | _ => []

/-! ## Well-formedness and decoding -/

theorem test_wellFormed_chainReadEnd : (Instr.chainReadEnd (List.replicate 128 false)).wellFormed = true := by decide +kernel

theorem test_illFormed_chainReadEnd_short : (Instr.chainReadEnd (List.replicate 127 false)).wellFormed = false := by decide +kernel

theorem test_illFormed_chainReadEnd_long : (Instr.chainReadEnd (List.replicate 129 false)).wellFormed = false := by decide +kernel

theorem test_illFormed_chainReadEnd_faults (s : State) : exec (.chainReadEnd []) s = .fault .illFormedCommand := rfl

theorem test_no_word_spells_a_command (nbits w : Nat) : decodeTableWord nbits w = none := rfl

/-! ## Worked examples of the spec -/

/-- R42: the byte of an absent cage, and of a class-4 breakout of two that is ready. -/
theorem test_chainByte_absent : readChainByte 0x01 = some InventoryRecord.absent := by decide

theorem test_chainByte_pair_ready :
    readChainByte 0xC7 = some { InventoryRecord.absent with present := true, cls := 4, shape := .pair, ready := true } := by decide

theorem test_chainByte_even_ones_is_bad : readChainByte 0x81 = none := by decide

theorem test_chainByte_shape_three_is_bad : readChainByte 0x8C = none := by decide

/-- Section 8.8, four samples of one lane. -/
theorem test_rawRoundTrip_across_the_wrap : rawRoundTrip 4294967200 104 = 200 := by decide

theorem test_samples_of_section_8_8 :
    oneWaySample (netRoundTrip 200 62 48) = 720 ∧ smooth 3 720 768 = 726 ∧ smooth 3 726 640 = 716 ∧ smooth 3 716 720 = 716 := by decide

/-- Section 8.8, the stages at their limits. -/
theorem test_sample_limits_of_section_8_8 :
    netRoundTrip 100 62 48 = 0 ∧ sampleSuspect 100 62 48 = true ∧ sampleSuspect 70000 65535 48 = true
      ∧ sampleSuspect 110 62 48 = false ∧ oneWaySample (netRoundTrip 70000 65535 48) = 35336 ∧ smooth 3 716 0 = 627
      ∧ smooth 0 716 0 = 0 ∧ smooth 7 716 1000 = 718 ∧ smooth 7 716 600 = 716 := by decide

theorem test_lengths_of_section_8_8 :
    lengthCm 716 4900 = 913 ∧ lengthCm 730 4900 = 931 ∧ lengthCm 100000 4900 = 65535 ∧ lengthCm 31457 3000 = 65535
      ∧ lengthCm 31458 3000 = 65535 ∧ lengthCm 0 4900 = 0 := by decide

theorem test_compensations_of_section_8_8 :
    compensation 730 716 = 1 ∧ compensation 730 700 = 2 ∧ compensation 730 712 = 1 ∧ compensation 1008 0 = 63
      ∧ compensation 7 0 = 0 ∧ compensation 8 0 = 1 ∧ compensation 23 0 = 1 ∧ compensation 24 0 = 2 := by decide

/-- The table of far lanes under R141. -/
theorem test_far_lanes_of_R141 :
    let at4 := fun l => laneOrderCheck { PlanFields.reset with width := .four } l
    let at2 := fun l => laneOrderCheck { PlanFields.reset with width := .two, farFirstLane := 2 } l
    at4 [(0, 0), (1, 1), (2, 2), (3, 3)] = .ok .straight ∧ at4 [(0, 3), (1, 2), (2, 1), (3, 0)] = .error .laneOrder
      ∧ at4 [(0, 1), (1, 0), (2, 3), (3, 2)] = .error .laneOrder ∧ at2 [(0, 2), (1, 3)] = .ok .straight
      ∧ at2 [(0, 3), (1, 2)] = .error .laneOrder ∧ at2 [(0, 0), (1, 1)] = .error .wrongLane
      ∧ at2 [(0, 1), (1, 0)] = .error .wrongLane
      ∧ laneOrderCheck { PlanFields.reset with width := .four, reversal := true } [(0, 3), (1, 2), (2, 1), (3, 0)] = .ok .reversed
      ∧ laneOrderCheck { PlanFields.reset with farFirstLane := 1 } [(0, 3)] = .error .wrongLane := ⟨rfl, rfl, rfl, rfl, rfl, rfl, rfl, rfl, rfl⟩

/-- R186: READ IDENTITY after hardware reset answers chassis 4095, unit 15, not assigned, revision 1; ten header bytes before them. -/
theorem test_readIdentity_after_reset :
    responseOf .readIdentity (asking 1 [] State.reset) = [0xE0, 0, 0xFF, 0xFF, 0, 7, 0, 0, 0, 4, 0xFF, 0xFF, 0, 1] := by decide

/-- R186: SET IDENTITY of chassis 7, unit 2. -/
theorem test_setIdentity :
    responseOf .setIdentity (asking 2 [0x00, 0x72] State.reset) = [0xE0, 0, 0x00, 0x72, 0, 7, 0, 0, 0, 4, 0, 0x72, 1, 1] := by decide +kernel

/-- R188: the reset settings as READ SETTINGS returns them. -/
theorem test_readSettings_after_reset :
    (responseOf .readSettings (asking 33 [] State.reset)).drop 10
      = [0, 100, 8, 3, 0, 48, 0, 200, 1, 0xF4, 0, 0, 3, 0xE8, 4, 0, 100] := by decide

/-- R187: the refusals of a plan write, width before align. -/
theorem test_planWrite_refused_width :
    ((responseOf .writePlanEntry (asking 16 [1, 1, 3, 0, 9, 0, 5, 4, 1, 0, 0, 0, 0, 0, 0, 0, 0] State.reset)).drop 6).take 2
      = [2, 1] := by decide

theorem test_planWrite_refused_align :
    ((responseOf .writePlanEntry (asking 16 [1, 1, 2, 0, 9, 0, 5, 0, 1, 0, 0, 0, 0, 0, 0, 0, 0] State.reset)).drop 6).take 2
      = [2, 2] := by decide

/-- R26 and R59: an enabling write while the identity is unassigned leaves the group WAITING with NO_IDENTITY. -/
theorem test_planWrite_waits_for_identity :
    let t := after .writePlanEntry (asking 16 [0, 1, 2, 0, 9, 0, 5, 2, 1, 0, 3, 0x20, 4, 0x4C, 2, 0, 5] State.reset)
    (t.ctx 0).state = .waiting ∧ (t.ctx 0).reason = .noIdentity ∧ (t.path 0).gate = .closed ∧ t.notices.length = 1 := by decide

/-- R33: D above 8,000 is stored as 8,000. -/
theorem test_writeClassEntry_clamps :
    (responseOf .writeClassEntry (asking 18 [3, 0xFF, 0xFF] State.reset)).drop 10 = [3, 0x1F, 0x40] := by decide

/-- R191: GROUP ACTION HOLD on a VERIFIED group. -/
theorem test_hold_closes_the_gate :
    let t := after .groupActionHold (asking 64 [0, 4] (inGroup .verified))
    (t.ctx 0).state = .held ∧ (t.ctx 0).origin = some .localHold ∧ (t.path 0).gate = .closed := by decide

/-- R170: SWEEP CONTROL to SINGLE with a count of 0 runs one sweep. -/
theorem test_sweepControl_single :
    (responseOf .sweepControl (asking 80 [1, 0] State.reset)).drop 10 = [1, 1, 0, 0] := by decide

/-- R195: SOFT RESET of a VERIFIED group with locked lanes goes to DISCOVERING. -/
theorem test_softReset_rediscovers :
    let t := after .softReset (asking 96 [] (inGroup .verified))
    (t.ctx 0).state = .discovering ∧ t.psc.holder = some 0 ∧ t.notices.length = 1 := by decide +kernel

/-- R185: an unknown command code. -/
theorem test_unknownCommand : ((responseOf .unknownCommand (asking 200 [] State.reset)).drop 6).take 2 = [1, 0] := by decide

/-- R66: a loss of lock takes a VERIFIED group to LOST and closes its gate. -/
theorem test_lockLost_goes_to_lost :
    let t := after (.lockLost 0 1) (inGroup .verified)
    (t.ctx 0).state = .lost ∧ (t.ctx 0).reason = .lockLost ∧ (t.path 0).gate = .closed := by decide

/-- R4, R14, R17: a data frame of a VERIFIED group leaves on the line lane of its offset with its lead word and content unchanged. -/
theorem test_dataFrame_leaves :
    (Tab.get (after (.leadWordArrival .system 0 1 ⟨0x0600, [0xAA, 0x55]⟩) (inGroup .verified)).fsu.lineTx 1).underWay
      = some (.data { lead := 0x0600, content := [0xAA, 0x55], source := .system, group := 0, out := 1 }) := by decide

/-- R45, R70: a chain read that finds the cable gone sends the group to WAITING with CABLE_ABSENT. -/
theorem test_chainRead_cable_removed :
    let t := after (.chainReadEnd ((List.replicate 16 (0x01 : Byte)).flatMap fun x => (List.range 8).map fun k => x.getLsbD (7 - k)))
      (inGroup .verified)
    (t.ctx 0).state = .waiting ∧ (t.ctx 0).reason = .cableAbsent ∧ t.ciu.inProgress = false := by decide +kernel

/-! ## Witnesses: each statement's hypotheses hold together somewhere -/

/-- No lane of these states has a frame to send, so the transmit arbiters are settled. -/
theorem lanesSettled_of_empty {s : State} (h : ∀ side l, (Tab.get (s.tx side) l).buffer = []) : LanesSettled s :=
  fun side l _ => .inl (h side l)

theorem lanesSettled_inGroup_buffer (c : Context) (side : Side) (l : Index) : (Tab.get ((groupState c).tx side) l).buffer = [] := by
  have h : ∀ l : Index, (Tab.get (Tab.fill TxLane.reset : Tab TxLane 64) l).buffer = [] := by decide
  cases side <;> exact h l

theorem lanesSettled_inGroup (c : Context) : LanesSettled (groupState c) :=
  lanesSettled_of_empty (lanesSettled_inGroup_buffer c)

/-- No request waits in these states, so the probe arbiter is settled. -/
theorem grantsSettled_of_none {s : State} (h : candidate s.psc = none) : GrantsSettled s :=
  fun c e => by rw [h] at e; cases e

theorem grantsSettled_inGroup (c : Context) : GrantsSettled (groupState c) :=
  grantsSettled_of_none (show candidate Psc.reset = none by decide)

/-- One of the group's lanes locks last: lane 1 is ACQUIRING and not yet in the lane lock view; lane 0 is locked or not. -/
def locking (st : GroupState) (first : Bool) : State :=
  let s := inGroup st
  { s with
    lfr := Tab.set s.lfr 1 { state := .acquiring, polarity := false }
    buc := { s.buc with
      lockView := Tab.set (Tab.set s.buc.lockView 1 { locked := false, polarity := false }) 0 { locked := first, polarity := false } } }

/-- The group with a round in flight, both probes SENT at 1,000 with a timeout of 100,000 ns, the counter at 1,206. -/
def flying (st : GroupState) (kind : RequestKind) (rounds : Nat) : State :=
  let s := inGroup st
  { s with
    psc := { s.psc with
      now := 1206
      queue := [{ group := 0, kind := kind, rounds := rounds, inFlight := true, outcomes := Tab.fill none }]
      holder := if kind = .burst then some 0 else none
      slots :=
        Tab.build fun k =>
          { generation := 1
            state :=
              if k = 0 then .sent 0 0 1000 100000 101000 else if k = 1 then .sent 0 1 1000 100000 101000 else .free } } }

/-- The same with the probe of lane 1 settled. -/
def flyingLast (st : GroupState) (kind : RequestKind) (rounds : Nat) : State :=
  let s := flying st kind rounds
  { s with psc := { s.psc with
      queue := s.psc.queue.map fun r => { r with outcomes := Tab.set r.outcomes 1 (some .missed) }
      slots := Tab.upd s.psc.slots 1 fun x => { x with state := .free } } }

/-- The echo of the probe in slot 0, generation 1, with turnaround 62 and view PASS, from far lane `lane`. -/
def echoBytesOf (lane : Nat) : List Byte := bytesOf [1, 0, 0, 3, 0xE8, 0, 0x90, 5, lane, 0, 62, 2]

/-- The frame's bytes of a probe from far lane 2 of the planned far end, with a view code. -/
def probeBytesOf (lane view : Nat) : List Byte := bytesOf [0x21, 0, 0, 3, 0xE8, 0, 0x90, 5, lane, view]

/-- A state with a frame of line lane 0 in interception. -/
def intercepting (rx : LineRx) (s : State) : State := s.setLineRx 0 rx

/-- A state in which one own event of each kind is due, lane by lane and slot by slot. -/
def manyDue : State :=
  let s := State.reset
  { s with
    ers := Tab.set s.ers 63 (some { tag := 0, sendTime := 0, arrival := 0 })
    fsu := { s.fsu with
      holds := Tab.set s.fsu.holds 5
        [{ frame := { lead := 0, content := [], source := .line, group := 5, out := 5 }, remaining := 0 }] }
    psc := { s.psc with
      now := 0xFFFFFFFF
      slots := Tab.set (Tab.set s.psc.slots 0 { generation := 1, state := .granted 0 3 }) 7
        { generation := 1, state := .sent 4 0 0xFFFFFF9B 100 0xFFFFFFFF } }
    buc := { s.buc with
      contexts := Tab.set (Tab.set (Tab.set s.buc.contexts 1 { Context.reset with timer := some { kind := .lock, remaining := 0 } }) 2
        { Context.reset with timer := some { kind := .agreement, remaining := 0 }, poll := some 0 }) 3
        { Context.reset with timer := some { kind := .retry, remaining := 0 } } }
    mga := { s.mga with queue :=
      [{ request := { lead := 0, target := 0, tag := 0, code := 50, args := [], lane := 9 }, state := .answering [] },
       { request := { lead := 0, target := 0, tag := 0, code := 50, args := [], lane := 9 }, state := .waiting }] }
    ciu := { s.ciu with timer := some 0 }
    sws := { s.sws with timer := some 0 } }

theorem test_witness_EmptyQueueTakesDueEventOrTick :
    (State.reset.pending = [] ∧ State.reset.inReset = false ∧ dueEvents State.reset = [] ∧ State.heldInReset.inReset = true)
      ∧ dueEvents { State.reset with sws := { State.reset.sws with timer := some 0 } } = [.row .sweepStep]
      ∧ manyDue.pending = [] ∧ manyDue.inReset = false
      ∧ dueEvents manyDue
        = ([.readNotices, .deskewHoldExpiry 1 1, .responseDeparture 2 1, .echoDeparture 15 3, .probeDeparture 0,
           .probeDeadlineExpiry 7, .lockTimerExpiry 1, .agreementTimerExpiry 2, .agreementPollExpiry 2, .retryTimerExpiry 3,
           .inventoryIntervalExpiry, .sweepStep] : List Instr).map .row
      ∧ dueEvents { manyDue with ciu := { manyDue.ciu with handed := [{ group := 0, change := .removed }] } }
        = dueEvents manyDue ++ [.portChange]
      ∧ rowOf { lead := 0, target := 0, tag := 0, code := 64, args := [0, 6], lane := 9 } = .groupActionHold := by decide +kernel

/-- R108: the timestamp counter wraps, and the tick takes 1 ns from what runs. -/
theorem test_tick_wraps_the_counter :
    manyDue.tick.psc.now = 0 ∧ State.reset.tick.ciu.timer = some 99999999 ∧ State.reset.tick.ciu.elapsed = 1
      ∧ State.heldInReset.tick = State.heldInReset := ⟨by decide +kernel, rfl, rfl, rfl⟩

theorem test_witness_EveryCommandCompletes :
    State.heldInReset.inReset = true ∧ Instr.palertRise.wellFormed = true ∧ Instr.palertRise ≠ .resetAssert
      ∧ Instr.palertRise ≠ .resetRelease ∧ (List.replicate 127 false).length ≠ 128 := by decide +kernel

theorem test_witness_ReleaseStartsReadAndSweep :
    State.heldInReset.inReset = true ∧ State.heldInReset.ciu.inProgress = false ∧ State.heldInReset.sws.mode ≠ .off := by decide

/-- The hypotheses every management statement shares: not in reset, and a request of this code and these arguments is the earliest waiting. -/
def Asks (code : Nat) (args : List Nat) (s : State) : Prop :=
  s.inReset = false ∧ earliestWaiting (asking code args s).mga.queue = some (requestOf code args)

theorem asks (code : Nat) (args : List Nat) {s : State} (h : s.inReset = false) : Asks code args s := ⟨h, rfl⟩

/-- The group in VERIFIED with a data frame under way on line lane 0. -/
def withFrame : State :=
  (inGroup .verified).modTx .line 0 fun t =>
    { t with underWay := some (.data { lead := 0x0600, content := [1, 2], source := .system, group := 0, out := 0 }) }

theorem test_witness_SoftResetRebuildsThePart :
    Asks 96 [] withFrame ∧ (withFrame.entry 0).enabled = true ∧ (withFrame.entry 1).enabled = false
      ∧ startTest withFrame 0 = none ∧ (Tab.get (withFrame.tx .line) 0).content ≠ []
      ∧ ((after .softReset (asking 96 [] withFrame)).path 0).fenced = 0 :=
  ⟨asks _ _ rfl, by decide, by decide, by decide, by decide, by decide +kernel⟩

theorem test_witness_LaneFrontFollowsItsTable :
    State.reset.inReset = false ∧ State.reset.rx (cell 15 3) = .dark ∧ (locking .lost true).rx (cell 0 1) = .acquiring
      ∧ (inGroup .verified).rx (cell 0 0) = .locked := by decide

theorem test_witness_LossTakesRunningGroupToLost :
    let ok := fun s : State => s.inReset = false ∧ s.rx (cell 0 1) = .locked ∧ covering s.cpt.plan (cell 0 1) = some 0
    (ok (inGroup .discovering) ∧ ((inGroup .discovering).ctx 0).state = .discovering)
      ∧ (ok (inGroup .agreeing) ∧ passedVerdict ((inGroup .agreeing).ctx 0).state)
      ∧ (ok (inGroup .verified) ∧ passedVerdict ((inGroup .verified).ctx 0).state)
      ∧ (ok (inGroup .degraded) ∧ passedVerdict ((inGroup .degraded).ctx 0).state) := by
  unfold passedVerdict; decide

/-- A LOSS cuts the group's frame under way: it is gone, its line lane shows it with an abort mark, and it is counted (R15, R66). -/
theorem test_loss_cuts_the_frame_under_way :
    let t := after (.lockLost 0 1) withFrame
    (Tab.get (withFrame.tx .line) 0).content ≠ [] ∧ (t.ctx 0).state = .lost ∧ (Tab.get (t.tx .line) 0).content = []
      ∧ (Tab.get (t.tx .line) 0).sent = (Tab.get (withFrame.tx .line) 0).content.map (fun f => (f, FrameEnd.aborted))
      ∧ (t.path 0).fenced = 1 := by decide +kernel

theorem test_witness_LastLockStartsDiscovery :
    let ok := fun s : State => s.inReset = false ∧ s.rx (cell 0 1) = .acquiring ∧ covering s.cpt.plan (cell 0 1) = some 0
    let others := fun s : State => ∀ i : Fin 4, i.val < boundWidth s 0 →
      laneAt 0 i.val = cell 0 1 ∨ (Tab.get s.buc.lockView (laneAt 0 i.val)).locked = true
    (ok (locking .acquiring true) ∧ ((locking .acquiring true).ctx 0).state = .acquiring ∧ others (locking .acquiring true))
      ∧ (ok (locking .lost false) ∧ ((locking .lost false).ctx 0).state = .lost ∧ ¬others (locking .lost false)) := by decide

theorem test_witness_LockAndLossRecordedOnly :
    (∀ c, LanesSettled (groupState c) ∧ GrantsSettled (groupState c))
      ∧ (inGroup .held).inReset = false ∧ covering (inGroup .held).cpt.plan (cell 0 1) = some 0
      ∧ covering (inGroup .held).cpt.plan (cell 0 3) = none ∧ (inGroup .held).rx (cell 0 3) = .locked
      ∧ ((inGroup .quarantined).ctx 0).state = .quarantined ∧ ((inGroup .held).ctx 0).state = .held
      ∧ ((inGroup .waiting).ctx 0).state = .waiting ∧ ((inGroup .unplanned).ctx 0).state = .unplanned
      ∧ ((inGroup .acquiring).ctx 0).state = .acquiring ∧ ((inGroup .lost).ctx 0).state = .lost
      ∧ (locking .held true).rx (cell 0 1) = .acquiring ∧ (inGroup .held).rx (cell 0 1) = .locked :=
  ⟨fun c => ⟨lanesSettled_inGroup c, grantsSettled_inGroup c⟩, by decide⟩

theorem test_witness_FencedDataFrameIsCounted :
    LanesSettled (inGroup .acquiring) ∧ (inGroup .acquiring).inReset = false
      ∧ actionOf (inGroup .acquiring) 0x0600 = .passData ∧ actionOf (inGroup .acquiring) 0xE000 = .control
      ∧ covering (inGroup .acquiring).cpt.plan (cell 0 2) = none ∧ (inGroup .acquiring).rx (cell 0 2) = .locked
      ∧ covering (inGroup .acquiring).cpt.plan (cell 0 1) = some 0
      ∧ ((inGroup .acquiring).path 0).gate = .closed
      ∧ (let s := inGroup .degraded
        (s.path 0).gate = .openDegraded ∧ (0x0600#16).toNat / 512 % 8 = 3
          ∧ (Tab.get s.cpt.profiles (s.path 0).profile).degraded.getLsbD 3 = false
          ∧ (Tab.get s.cpt.profiles (s.path 0).profile).degraded.getLsbD 7 = true) := ⟨lanesSettled_inGroup _, by decide⟩

/-- A frame of the group in a compensation hold of line lane 0. -/
def heldFrame : HeldFrame := { frame := { lead := 0x0600, content := [1, 2, 3], source := .line, group := 0, out := 0 }, remaining := 0 }

theorem test_witness_AdmittedFramesAreSteered :
    let s := inGroup .verified
    (LanesSettled s ∧ s.inReset = false ∧ covering s.cpt.plan (cell 0 1) = some 0
      ∧ (s.path 0).gate = .openVerified ∧ (Tab.get s.cpt.profiles (s.path 0).profile).verified.getLsbD ((0x0600#16).toNat / 512 % 8) = true
      ∧ actionOf s 0x0600 = .passData ∧ actionOf s 0xE600 = .control ∧ s.rx (cell 0 1) = .locked)
    ∧ (LanesSettled (s.setHolds 0 [heldFrame]) ∧ Tab.get (s.setHolds 0 [heldFrame]).fsu.holds (cell 0 0) = heldFrame :: []) :=
  ⟨⟨lanesSettled_inGroup _, by decide⟩, lanesSettled_of_empty (fun d l => lanesSettled_inGroup_buffer (context2 .verified) d l), by decide⟩

theorem test_witness_OtherFramesInterceptedOrDiscarded :
    let s := inGroup .verified
    LanesSettled s ∧ s.inReset = false ∧ s.rx (cell 0 0) = .locked ∧ actionOf s 0xC000 = .probe ∧ actionOf s 0xD000 = .echo
      ∧ actionOf s 0xE000 = .control ∧ actionOf s 0xF000 = .drop := ⟨lanesSettled_inGroup _, by decide⟩

theorem test_witness_ControlFrameJudgedByItsTarget :
    let waits := fun (s : State) (jd : Judgement) => s.setSystemRx 0 (.awaitingTarget 0xE000 jd)
    let f : DataFrame := { lead := 0xE000, content := [], source := .system, group := 0, out := 0 }
    (∀ jd, LanesSettled (waits (inGroup .verified) jd)
      ∧ Tab.get (waits (inGroup .verified) jd).fsu.systemRx (cell 0 0) = .awaitingTarget 0xE000 jd)
    ∧ f.source = .system
    ∧ (let id := (inGroup .verified).mga.identity
       id.assigned = true ∧ (0x0072#16).toNat / 16 = id.chassis ∧ (0x0072#16).toNat % 16 = id.unit
         ∧ (0x007F#16).toNat % 16 = 15 ∧ (0x0083#16).toNat / 16 ≠ id.chassis)
    ∧ (let id := State.reset.mga.identity
       id.assigned = false ∧ (0xFFF0#16).toNat / 16 = 4095 ∧ (0x0072#16).toNat / 16 ≠ 4095) :=
  ⟨fun jd => ⟨lanesSettled_of_empty fun d l => lanesSettled_inGroup_buffer (context2 .verified) d l, Sys2Proof.Tab.get_set_same ..⟩, rfl, by decide, by decide⟩

theorem test_witness_MalformedFramesAreCounted :
    let s := inGroup .verified
    s.inReset = false ∧ s.rx (cell 0 0) = .locked
      ∧ Tab.get (intercepting (.probe 5) s).fsu.lineRx (cell 0 0) = .probe 5
      ∧ Tab.get (intercepting (.echo 5) s).fsu.lineRx (cell 0 0) = .echo 5
      ∧ Tab.get (s.setSystemRx 0 (.control 0xE000 0x0072)).fsu.systemRx (cell 0 0) = .control 0xE000 0x0072
      ∧ (bytesOf [1]).length ≠ 10 ∧ 15 < at8 (bytesOf [0, 0, 0, 0, 0, 0, 0, 16, 0, 0]) 7
      ∧ 3 < at8 (bytesOf [0, 0, 0, 0, 0, 0, 0, 15, 4, 0, 0, 0]) 8
      ∧ 120 < at8 (bytesOf [0, 0, 1, 121]) 3 ∧ (bytesOf [0, 0, 1, 1]).length - 4 < at8 (bytesOf [0, 0, 1, 1]) 3 := by decide

theorem test_witness_FrameEndGivesTheLaneOn :
    let s := (inGroup .verified).modTx .line 0 fun t => { t with underWay := some (.probe []) }
    LanesSettled s ∧ s.inReset = false ∧ (Tab.get (s.tx .line) (cell 0 0)).underWay = some (.probe []) :=
  ⟨lanesSettled_of_empty fun d l => by
      cases d
      · exact lanesSettled_inGroup_buffer (context2 .verified) .system l
      · have h : ∀ l : Index, (Tab.get (Tab.upd (Tab.fill TxLane.reset : Tab TxLane 64) 0
          fun t => { t with underWay := some (.probe []) }) l).buffer = [] := by decide
        exact h l, by decide⟩

theorem test_witness_ProbeFillsEchoSlot :
    let s := intercepting (.probe 900) (inGroup .verified)
    s.inReset = false ∧ Tab.get s.fsu.lineRx (cell 0 0) = .probe 900
      ∧ (readProbe (probeBytesOf 2 4)).isSome = true ∧ ((readProbe (probeBytesOf 2 5)).map ProbeItems.view) = some none
      ∧ covering s.cpt.plan (cell 0 0) = some 0
      ∧ (readProbe (probeBytesOf 3 4)).map (fun x => x.sender.lane) = some 3
      ∧ ((Tab.get (s.ctx 0).record.lanes (offsetIn 0 (cell 0 0))).merged.map fun m => (m.far.chassis, m.far.lane)) = some (9, 2)
      ∧ (Tab.get ((inGroup .waiting).ctx 1).record.lanes (offsetIn 1 (cell 0 1))).merged = none
      ∧ (let own := groupState { context2 .verified with record := { record2 716 720 with
            lanes := Tab.fill { LaneRecord.cleared with merged := some { far := ⟨7, 2, 0, 0⟩, back := 0 } } } }
         ((Tab.get (own.ctx 0).record.lanes 0).merged.map fun m => (m.far.chassis, m.far.unit))
          = some (own.mga.identity.chassis, own.mga.identity.unit)) := by decide

theorem test_witness_AcceptedProbeViewActs :
    let s := intercepting (.probe 900) (inGroup .verified)
    let x : ProbeItems := { tag := 0x21, sendTime := 1000, sender := { chassis := 9, unit := 0, port := 5, lane := 2 }, view := some .held }
    s.inReset = false ∧ Tab.get s.fsu.lineRx (cell 0 0) = .probe 900 ∧ readProbe (probeBytesOf 2 4) = some x
      ∧ covering s.cpt.plan (cell 0 0) = some 0
      ∧ (Tab.get (s.ctx 0).record.lanes (offsetIn 0 (cell 0 0))).merged = some { far := x.sender, back := 0 }
      ∧ ¬(x.sender.chassis = s.mga.identity.chassis ∧ x.sender.unit = s.mga.identity.unit) := by decide

theorem test_witness_EchoDepartureAnswersTheProbe :
    let e : EchoSlot := { tag := 0x21, sendTime := 1000, arrival := 900 }
    let s := (inGroup .verified).setEcho 0 (some e)
    s.inReset = false ∧ Tab.get s.ers (cell 0 0) = some e ∧ (Tab.get s.fsu.lineTx (cell 0 0)).underWay = none := by decide

theorem test_witness_ProbeDepartureStampsTheSlot :
    let s := inGroup .verified
    let s := { s with psc := { s.psc with slots := Tab.set s.psc.slots 7 { generation := 31, state := .granted 0 1 } } }
    s.inReset = false ∧ (Tab.get s.psc.slots 7).state = .granted 0 1 ∧ (Tab.get s.fsu.lineTx (laneAt 0 1)).underWay = none
      ∧ Tab.get s.ers (laneAt 0 1) = none := by decide

/-- The echo of slot 0 in the states with a round in flight. -/
def echoOf (lane : Nat) : EchoFields :=
  { tag := 1, sendTime := 1000, responder := { chassis := 9, unit := 0, port := 5, lane := lane }, turnaround := 62, view := some .pass }

theorem readEcho_echoBytesOf : readEcho (echoBytesOf 2) = some (echoOf 2) ∧ readEcho (echoBytesOf 1) = some (echoOf 1) := by decide

/-- A scheduler with one request, in flight for group 0 with a probe in slot 0, is consistent. -/
theorem schedulerConsistent_of_one {s : State} {r : ProbeRequest} (queue : s.psc.queue = [r]) (group : r.group = 0)
    (flies : r.inFlight = true) (rounds : 1 ≤ r.rounds ∧ (r.kind ≠ .burst → r.rounds = 1)) (holder : s.psc.holder = none ∨ s.psc.holder = some 0 ∧ r.kind = .burst)
    (first : (Tab.get s.psc.slots 0).state.probe = some (0, 0))
    (slots : ∀ k, (Tab.get s.psc.slots k).state.probe = none
      ∨ ∃ i, (Tab.get s.psc.slots k).state.probe = some (0, i) ∧ i.val = k.val) : SchedulerConsistent s := by
  have probe : ∀ {k g i}, (Tab.get s.psc.slots k).state.probe = some (g, i) → g = 0 ∧ i.val = k.val := by
    intro k g i e
    rcases slots k with n | ⟨j, h, v⟩
    · rw [n] at e; cases e
    · rw [h] at e; cases e; exact ⟨rfl, v⟩
  have ofGroup : ∀ {k g}, (Tab.get s.psc.slots k).state.group = some g →
      ∃ i, (Tab.get s.psc.slots k).state.probe = some (g, i) := by
    intro k g e
    cases h : (Tab.get s.psc.slots k).state <;> rw [h] at e <;> cases e <;> exact ⟨_, rfl⟩
  have one : ∀ {x}, x ∈ s.psc.queue → x = r := by
    intro x m; rw [queue] at m; exact List.mem_singleton.mp m
  have mem : r ∈ s.psc.queue := by rw [queue]; exact .head _
  constructor
  · rw [queue]; exact List.nodup_singleton _
  · intro h e
    rcases holder with n | ⟨n, k⟩
    · rw [n] at e; cases e
    · rw [n] at e; cases e; exact ⟨r, mem, group, k⟩
  · intro k g e
    obtain ⟨i, p⟩ := ofGroup e
    exact ⟨r, mem, group.trans (probe p).1.symm, flies⟩
  · intro x m _
    refine ⟨0, ?_⟩
    rw [one m, group]
    cases h : (Tab.get s.psc.slots 0).state <;> rw [h] at first <;> cases first <;> rfl
  · intro k k' g i a b
    exact Fin.ext ((probe a).2.symm.trans (probe b).2)
  · intro x m
    rw [one m]
    exact rounds

/-- The outcome of an echo of slot 0 from far lane `lane`, the first of its round. -/
def echoedOf (lane : Nat) : LaneOutcome :=
  .echoed { sendTime := 1000, raw := 206, arrival := 1206, far := (echoOf lane).responder, turnaround := 62, view := some .pass
            back := 0, order := 1 }

/-- The request of the states with a round in flight. -/
def requestIn (kind : RequestKind) (rounds : Nat) (outcomes : Tab (Option LaneOutcome) 4) : ProbeRequest :=
  { group := 0, kind := kind, rounds := rounds, inFlight := true, outcomes := outcomes }

/-- Lane 1 was missed. -/
def missed1 : Tab (Option LaneOutcome) 4 := Tab.set (Tab.fill none) 1 (some .missed)

/-- An echo settles the probe of slot 0 in each state with a round in flight. -/
theorem settles_echo (s : State) (r : ProbeRequest) (lane : Nat) (is : lane = 2 ∨ lane = 1) (first : echoesTaken r.outcomes = 0)
    (rx : Tab.get s.fsu.lineRx (cell 0 0) = .echo 1206)
    (slot : Tab.get s.psc.slots 0 = { generation := 1, state := .sent 0 0 1000 100000 101000 }) :
    Settles s (.echoReceived 0 0 (echoBytesOf lane)) 0 0 0 r (echoedOf lane) :=
  .inr ⟨0, 0, echoBytesOf lane, 1206, echoOf lane, rfl, rx, by rcases is with rfl | rfl <;> decide,
    ⟨100000, 101000, by rw [slot]; rfl, by rcases is with rfl | rfl <;> decide, by rw [slot]; rcases is with rfl | rfl <;> decide,
      by rcases is with rfl | rfl <;> decide⟩, by rw [first]; rcases is with rfl | rfl <;> rfl⟩

theorem test_witness_EchoesSettleTheirProbeOrAreLate :
    let s := intercepting (.echo 1206) (flying .verified .urgent 1)
    let r := requestIn .urgent 1 (Tab.fill none)
    (s.inReset = false ∧ Settles s (.echoReceived 0 0 (echoBytesOf 2)) 0 0 0 r (echoedOf 2)
      ∧ Settles s (.probeDeadlineExpiry 0) 0 0 0 r .missed ∧ SchedulerConsistent s ∧ (1 : Fin 8) ≠ 0
      ∧ (Tab.get s.psc.slots 1).state.group = some 0 ∧ r ∈ s.psc.queue ∧ r.group = 0)
    ∧ let late := intercepting (.echo 1206) (inGroup .verified)
      (Tab.get late.fsu.lineRx (cell 0 0) = .echo 1206 ∧ ∀ k g i, ¬EchoMatches late k g i 1206 (echoOf 2)) := by
  refine ⟨⟨rfl, settles_echo _ _ _ (.inl rfl) (by decide) (by decide) (by decide), .inl ⟨rfl, rfl, 1000, 100000, 101000, by decide⟩, ?_, by decide, by decide,
    .head _, rfl⟩, by decide, ?_⟩
  · exact schedulerConsistent_of_one rfl rfl rfl ⟨Nat.le_refl 1, fun _ => rfl⟩ (.inl rfl) (by decide) (by decide)
  · rintro k g i ⟨timeout, deadline, h, -⟩
    have free : ∀ k, (Tab.get (Psc.reset).slots k).state = .free := by decide
    have := (free k).symm.trans h
    cases this

/-- The slots of the states whose round has one unsettled probe left. -/
def lastSlots : Tab Slot 8 :=
  Tab.build fun k => { generation := 1, state := if k = 0 then .sent 0 0 1000 100000 101000 else .free }

theorem slots_flyingLast (st : GroupState) (kind : RequestKind) (rounds : Nat) :
    (intercepting (.echo 1206) (flyingLast st kind rounds)).psc.slots = lastSlots := rfl

/-- Both ways in which the last probe of a round of group 0 is settled: an echo, and the deadline. -/
theorem completes_flyingLast (st : GroupState) (kind : RequestKind) (rounds lane : Nat) (is : lane = 2 ∨ lane = 1) :
    let s := intercepting (.echo 1206) (flyingLast st kind rounds)
    CompletesRound s (.echoReceived 0 0 (echoBytesOf lane)) 0 0 (requestIn kind rounds missed1) (echoedOf lane)
      ∧ CompletesRound s (.probeDeadlineExpiry 0) 0 0 (requestIn kind rounds missed1) .missed :=
  have slots := slots_flyingLast st kind rounds
  have others : ∀ k', k' ≠ 0 → (Tab.get lastSlots k').state.group ≠ some 0 := by decide +kernel
  have sent : Tab.get lastSlots 0 = { generation := 1, state := .sent 0 0 1000 100000 101000 } := by decide +kernel
  have none : ∀ k', k' ≠ 0 → (Tab.get (intercepting (.echo 1206) (flyingLast st kind rounds)).psc.slots k').state.group ≠ some 0 := by
    rw [slots]; exact others
  have first : Tab.get (intercepting (.echo 1206) (flyingLast st kind rounds)).psc.slots 0
      = { generation := 1, state := .sent 0 0 1000 100000 101000 } := by
    rw [slots]; exact sent
  ⟨⟨⟨0, settles_echo _ _ _ is (show echoesTaken missed1 = 0 by decide) (Sys2Proof.Tab.get_set_same ..) first, none⟩, .head _, rfl⟩,
    ⟨⟨0, .inl ⟨rfl, rfl, 1000, 100000, 101000, by rw [first]⟩, none⟩, .head _, rfl⟩⟩

theorem consistent_flyingLast (st : GroupState) (kind : RequestKind) (rounds : Nat) (n : 1 ≤ rounds ∧ (kind ≠ .burst → rounds = 1)) :
    SchedulerConsistent (intercepting (.echo 1206) (flyingLast st kind rounds)) :=
  schedulerConsistent_of_one (r := requestIn kind rounds missed1) rfl rfl rfl n
    (by cases kind <;> first | exact .inl rfl | exact .inr ⟨rfl, rfl⟩)
    (by rw [slots_flyingLast]; decide +kernel) (by rw [slots_flyingLast]; decide +kernel)

theorem test_witness_BurstRoundsMergeAndBringTheVerdict :
    let s := fun rounds => intercepting (.echo 1206) (flyingLast .discovering .burst rounds)
    ((s 1).inReset = false ∧ SchedulerConsistent (s 1) ∧ ((s 1).ctx 0).state = .discovering)
      ∧ ((s 2).inReset = false ∧ SchedulerConsistent (s 2) ∧ ((s 2).ctx 0).state = .discovering)
      ∧ ∀ n, CompletesRound (s n) (.echoReceived 0 0 (echoBytesOf 2)) 0 0 (requestIn .burst n missed1) (echoedOf 2)
        ∧ CompletesRound (s n) (.echoReceived 0 0 (echoBytesOf 1)) 0 0 (requestIn .burst n missed1) (echoedOf 1)
        ∧ CompletesRound (s n) (.probeDeadlineExpiry 0) 0 0 (requestIn .burst n missed1) .missed :=
  ⟨⟨rfl, consistent_flyingLast _ _ _ (by decide), rfl⟩, ⟨rfl, consistent_flyingLast _ _ _ (by decide), rfl⟩,
    fun n => ⟨(completes_flyingLast .discovering .burst n 2 (.inl rfl)).1, (completes_flyingLast .discovering .burst n 1 (.inr rfl)).1,
      (completes_flyingLast .discovering .burst n 2 (.inl rfl)).2⟩⟩

/-- The last round of a burst, one lane echoed, one missed, gives the verdict on a record in which lane 1 was merged before. -/
theorem test_last_round_gives_the_verdict :
    let t := after (.echoReceived 0 0 (echoBytesOf 2)) (intercepting (.echo 1206) (flyingLast .discovering .burst 1))
    (t.ctx 0).state = .verified ∧ (t.path 0).gate = .openVerified ∧ (Tab.get (t.ctx 0).record.lanes 1).missRun = 1 := by decide +kernel

/-- The same last round against a plan that allows no cable class of the record, and against one whose window its lengths miss: the outcome
is the first of the fourteen checks that fails (R135, R142). -/
theorem test_last_round_gives_the_first_failing_check :
    let replanned := fun f : PlanFields → PlanFields =>
      let s := intercepting (.echo 1206) (flyingLast .discovering .burst 1)
      let s := { s with cpt := { s.cpt with plan := Tab.upd s.cpt.plan 0 fun e => { e with fields := f e.fields } } }
      (after (.echoReceived 0 0 (echoBytesOf 2)) s).ctx 0
    let outcome := fun c : Context => (c.state, c.reason)
    outcome (replanned fun b => { b with allowed := 0 }) = (.quarantined, .cableClass)
      ∧ outcome (replanned fun b => { b with lengthMin := 1047 }) = (.quarantined, .lengthShort)
      ∧ outcome (replanned fun b => { b with allowed := 0, lengthMin := 1047 }) = (.quarantined, .cableClass) := by decide +kernel

/-- The recheck states: a group with the third miss of lane 1 near, a stale mark, and a record that a stale check refuses. -/
def rechecking (st : GroupState) (stale : Bool) (missRun : Nat) (far : Nat) : State :=
  let s := intercepting (.echo 1206) (flyingLast st .urgent 1)
  let lane1 : LaneRecord :=
    { mergedLane 1 720 with
      missRun := missRun, merged := some { far := { chassis := 9, unit := 0, port := far, lane := 3 }, back := 1 } }
  let dr := { record2 716 720 with lanes := Tab.set (record2 716 720).lanes 1 lane1 }
  { s with buc := { s.buc with contexts := Tab.set s.buc.contexts 0 { context2 st with stale := stale, record := dr } } }

theorem test_witness_RecheckRoundTakesItsSteps :
    let dr := fun s : State => (s.ctx 0).record
    (∀ st far stale n, SchedulerConsistent (rechecking st stale n far) ∧ (rechecking st stale n far).inReset = false
      ∧ CompletesRound (rechecking st stale n far) (.echoReceived 0 0 (echoBytesOf 1)) 0 0 (requestIn .urgent 1 missed1) (echoedOf 1)
      ∧ CompletesRound (rechecking st stale n far) (.probeDeadlineExpiry 0) 0 0 (requestIn .urgent 1 missed1) .missed
      ∧ ((rechecking st stale n far).ctx 0).state = st)
      ∧ (Tab.get (dr (rechecking .verified false 1 5)).lanes 0).merged ≠ some { far := (echoOf 1).responder, back := 0 }
      ∧ (Tab.get (dr (rechecking .verified false 2 5)).lanes 1).missRun = 2
      ∧ (Tab.get (dr (rechecking .agreeing false 1 5)).lanes 1).missRun = 1
      ∧ checks fields2 (dr (rechecking .verified true 1 6)) ((rechecking .verified true 1 6).record 0)
          (rechecking .verified true 1 6).mga.identity 0 = .error .splitFarEnd
      ∧ checks fields2 (dr (rechecking .verified true 1 5)) ((rechecking .verified true 1 5).record 0)
          (rechecking .verified true 1 5).mga.identity 0 = .ok .straight := by
  refine ⟨fun st far stale n => ⟨?_, rfl, ?_, ?_, rfl⟩, by decide, by decide, by decide, rfl, rfl⟩
  · have h := consistent_flyingLast st .urgent 1 (by decide)
    exact ⟨h.oneRequest, h.holder, h.owned, h.flying, h.offsets, h.rounds⟩
  · have h := (completes_flyingLast st .urgent 1 1 (.inr rfl)).1
    exact ⟨h.settles, h.queued, h.group⟩
  · have h := (completes_flyingLast st .urgent 1 1 (.inr rfl)).2
    exact ⟨h.settles, h.queued, h.group⟩

/-- The group with its miss run of lane 0 at 3 from its burst, in flight. -/
def carried (st : GroupState) : State :=
  let s := intercepting (.echo 1206) (flyingLast st .urgent 1)
  let dr := { record2 716 720 with lanes := Tab.set (record2 716 720).lanes 0 { mergedLane 0 716 with missRun := 3 } }
  { s with buc := { s.buc with contexts := Tab.set s.buc.contexts 0 { context2 st with record := dr } } }

/-- R174, R178, R102: a lane whose miss run is 3 from its burst and that is echoed now has run 0; the round's view PASS opens an AGREEING group. -/
theorem test_echoed_lane_clears_its_run_and_the_view_acts :
    let t := fun st => after (.echoReceived 0 0 (echoBytesOf 2)) (carried st)
    (((t .agreeing).ctx 0).state = .verified ∧ ((t .agreeing).path 0).gate = .openVerified)
      ∧ ((t .verified).ctx 0).state = .verified ∧ (Tab.get ((t .verified).ctx 0).record.lanes 0).missRun = 0 := by decide +kernel

/-- The premises of the view clauses and of the window clauses of a recheck round. -/
theorem test_witness_recheck_views :
    (∀ st, SchedulerConsistent (carried st) ∧ ((carried st).ctx 0).state = st
      ∧ CompletesRound (carried st) (.echoReceived 0 0 (echoBytesOf 2)) 0 0 (requestIn .urgent 1 missed1) (echoedOf 2)
      ∧ (Tab.get ((carried st).ctx 0).record.lanes 0).missRun = 3 ∧ (Tab.get ((carried st).ctx 0).record.lanes 1).missRun = 0)
    ∧ RoundHasView { chassis := 7, unit := 2, assigned := true } (record2 716 720) 2 (Tab.set missed1 0 (some (echoedOf 2))) .pass := by
  refine ⟨fun st => ⟨?_, rfl, ?_, rfl, rfl⟩, ⟨0, 1, ⟨by decide, _, _, Sys2Proof.Tab.get_set_same .., rfl, rfl, rfl, by decide, by decide⟩, ?_⟩⟩
  · have h := consistent_flyingLast st .urgent 1 (by decide)
    exact ⟨h.oneRequest, h.holder, h.owned, h.flying, h.offsets, h.rounds⟩
  · have h := (completes_flyingLast st .urgent 1 2 (.inl rfl)).1
    exact ⟨h.settles, h.queued, h.group⟩
  · rintro n order v ⟨_, e, m, h, -⟩ ne
    have missed : ∀ n, n ≠ 0 → ∀ o, Tab.get (Tab.set missed1 0 (some (echoedOf 2))) n = some o → o = .missed := by decide +kernel
    cases missed n ne _ h

/-- R174: the third miss in a row of a lane of an open group sends it to DISCOVERING; a second one only counts. -/
theorem test_third_miss_rediscovers :
    ((after (.probeDeadlineExpiry 0) (rechecking .verified false 2 5)).ctx 0).state = .discovering
      ∧ ((after (.probeDeadlineExpiry 0) (rechecking .verified false 1 5)).ctx 0).state = .verified := by decide +kernel

/-- The requests of the worked example of section 6.3: the burst holder 20, of width 2, before 8, of width 4, and 33, of width 1. -/
def arbiterOf (holderFlies urgent : Bool) (used : Nat) : Psc :=
  let request := fun (g : Index) (kind : RequestKind) (rounds : Nat) (flies : Bool) =>
    ({ group := g, kind := kind, rounds := rounds, inFlight := flies, outcomes := Tab.fill none } : ProbeRequest)
  { Psc.reset with
    holder := some 20
    queue := [request 8 .routine 1 false, request 20 .burst 8 holderFlies, request 33 (if urgent then .urgent else .routine) 1 false]
    slots := Tab.build fun k => { generation := 0, state := if k.val < used then .granted 20 0 else .free } }

/-- The widths of the worked example. -/
def arbiterWidth (g : Index) : Nat := if g = 20 then 2 else if g = 8 then 4 else 1

/-- R113 to R115: the three candidates, the grant that leaves just the reservation, the one it blocks, and the same without it. -/
theorem test_witness_ArbiterGrantsInItsOrder :
    let first := fun p : Psc => (candidate p).map ProbeRequest.group
    let passes := fun p : Psc => (candidate p).map (grantable arbiterWidth p)
    (first (arbiterOf true true 2) = some 33 ∧ first (arbiterOf false false 2) = some 20 ∧ first (arbiterOf true false 2) = some 8)
      ∧ (passes (arbiterOf true false 2) = some true ∧ passes (arbiterOf true false 3) = some false)
      ∧ (passes (arbiterOf true true 7) = some true ∧ passes (arbiterOf true true 8) = some false ∧ passes (arbiterOf false false 6) = some true)
      ∧ (Width.lanes .four ≤ (freeSlots Psc.reset).length ∧ (freeSlots Psc.reset)[3]? = some 3 ∧ (3 : Fin 4).val < Width.lanes .four
        ∧ (4 : Fin 8) ∉ (freeSlots Psc.reset).take 4) := by decide +kernel

/-- The states in which an event frees slots or changes the queue: a round in flight whose first or last probe is settled, and the round of a HELD
group that brings no view. -/
theorem test_witness_arbiter_events :
    let s := intercepting (.echo 1206) (flying .verified .urgent 1)
    let held := rechecking .held false 1 5
    (Settles s (.probeDeadlineExpiry 0) 0 0 0 (requestIn .urgent 1 (Tab.fill none)) .missed ∧ requestIn .urgent 1 (Tab.fill none) ∈ s.psc.queue
      ∧ (Tab.get s.psc.slots 1).state.group = some 0)
    ∧ (Settles held (.probeDeadlineExpiry 0) 0 0 0 (requestIn .urgent 1 missed1) .missed ∧ SchedulerConsistent held
      ∧ (held.ctx 0).state = .held ∧ (∀ k', k' ≠ 0 → (Tab.get held.psc.slots k').state.group ≠ some 0)
      ∧ ∀ n order v, ¬ViewCandidate held.mga.identity (held.ctx 0).record (boundWidth held 0) (Tab.set missed1 0 (some .missed)) n order v)
    ∧ (s.rx (cell 0 0) = .locked ∧ covering s.cpt.plan (cell 0 0) = some 0) := by
  refine ⟨⟨.inl ⟨rfl, rfl, 1000, 100000, 101000, by decide⟩, .head _, by decide⟩,
    ⟨.inl ⟨rfl, rfl, 1000, 100000, 101000, by decide +kernel⟩, ?_, rfl, by decide +kernel, ?_⟩, by decide +kernel⟩
  · have h := consistent_flyingLast .held .urgent 1 (by decide)
    exact ⟨h.oneRequest, h.holder, h.owned, h.flying, h.offsets, h.rounds⟩
  · rintro n order v ⟨_, e, m, h, -⟩
    have none : ∀ n, ∀ o, Tab.get (Tab.set missed1 0 (some .missed)) n = some o → o = .missed := by decide +kernel
    cases none n _ h

theorem test_witness_LaneOrderCheck :
    let W := Width.lanes .two
    let far := fun (a b : Nat) (i : Nat) => if i = 0 then a else b
    (∀ i < W, far 2 3 i = 2 + i)
      ∧ ((W = 2 ∨ W = 4) ∧ (∀ i < W, (far 3 2 i : Int) = 2 + W - 1 - i) ∧ ¬∀ i < W, far 3 2 i = 2 + i)
      ∧ ((∀ i < W, (far 0 1 i : Int) - i = 0) ∧ ¬∀ i < W, (far 0 1 i : Int) = 2 + W - 1 - i)
      ∧ (∀ i < W, far 1 0 i + i = 1)
      ∧ (far 1 1 0 : Int) - 0 ≠ (far 1 1 1 : Int) - 1 ∧ far 1 1 0 + 0 ≠ far 1 1 1 + 1
      ∧ checks fields2 (record2 716 720) { InventoryRecord.absent with shape := .pair } { chassis := 7, unit := 2, assigned := true } 0
        = .ok .straight
      ∧ checks fields2 DiscoveryRecord.cleared { InventoryRecord.absent with shape := .pair } { chassis := 7, unit := 2, assigned := true }
          0 = .error .peerSilent :=
  ⟨by decide, by decide, by decide, by decide, by decide, by decide, rfl, rfl⟩

/-- The group in DISCOVERING with a whole record that shows a last peer view. -/
def judged (v : Option View) : State :=
  groupState { context2 .discovering with record := { record2 716 720 with lastView := v } }

theorem test_witness_LastChecksDecideTheOutcome (v : Option View) :
    let s := judged v
    let b := (s.entry 0).fields
    let dr := (s.ctx 0).record
    let done := withLengths (Tab.get s.cpt.classD (s.record 0).cls) b.width.lanes { dr with laneMap := some .straight }
    checks { b with allowed := 0 } dr (s.record 0) s.mga.identity 0 = .error .cableClass
      ∧ checks b dr (s.record 0) s.mga.identity 0 = .ok .straight ∧ lengthFinding b done = none
      ∧ skewFinding b (withSkew b.width.lanes done) = none ∧ dr.lastView = v := by
  rcases v with _ | (_ | _ | _ | _ | _) <;> decide +kernel

/-- The group in DISCOVERING with estimates 716 and `E`, its planned window and skew limit the ones given. -/
def judging (E lengthMin lengthMax skewLimit : Nat) : State :=
  let s := groupState { context2 .discovering with record := record2 716 E }
  let fields := { fields2 with lengthMin := lengthMin, lengthMax := lengthMax, skewLimit := skewLimit }
  { s with cpt := { s.cpt with plan := Tab.set s.cpt.plan 0 { enabled := true, fields := fields } } }

/-- R142, R143 at their limits: lengths 1,040 and 1,046 cm and a skew of 4 sixteenths, and a skew of 17 against a limit of 1 ns. -/
theorem test_checks_12_and_13_at_their_limits :
    let reason := fun s : State => ((s.verdict 0).ctx 0).reason
    reason (judging 720 1041 2000 2) = .lengthShort ∧ reason (judging 720 1040 1045 2) = .lengthLong
      ∧ reason (judging 733 1040 2000 1) = .skew ∧ ((judging 732 1040 2000 1).verdict 0).ctx 0 ≠ (judging 732 1040 2000 1).ctx 0
      ∧ reason (judging 732 1040 2000 1) = .none
      ∧ (((judging 733 1040 2000 1).verdict 0).ctx 0).record.skew = some 17 := by decide +kernel

theorem test_witness_ChecksOneToTenInOrder :
    let b := fields2
    let inv : InventoryRecord := { InventoryRecord.absent with shape := .pair }
    let lane := fun (dr : DiscoveryRecord) (i : Fin 4) => Tab.get dr.lanes i
    let dark := { record2 716 720 with lanes := Tab.set (record2 716 720).lanes 1 LaneRecord.cleared }
    let with1 := fun r : LaneRecord => { record2 716 720 with lanes := Tab.set (record2 716 720).lanes 1 r }
    let far := fun (c u p l : Nat) (back : Index) =>
      with1 { mergedLane 1 720 with merged := some { far := { chassis := c, unit := u, port := p, lane := l }, back := back } }
    (b.allowed.getLsbD inv.cls.val = true ∧ inv.shape = .pair ∧ b.width.lanes = 2 ∧ b.inversion = false)
      ∧ (b.allowed.getLsbD (7 : Fin 8).val = false ∧ ({ inv with shape := .quad }).shape ≠ .pair
        ∧ (lane (with1 { mergedLane 1 720 with inverted := true }) 1).inverted = true)
      ∧ (∀ i : Fin 4, i.val < b.width.lanes → (lane (record2 716 720) i).inverted = false)
      ∧ (∀ i : Fin 4, i.val < b.width.lanes → (lane DiscoveryRecord.cleared i).merged = none)
      ∧ ((lane dark 0).merged ≠ none ∧ (lane dark 1).merged = none)
      ∧ (∀ i : Fin 4, i.val < b.width.lanes → (lane (record2 716 720) i).merged.isSome = true)
      ∧ (lane (with1 { mergedLane 1 720 with conflicted := true }) 1).conflicted = true
      ∧ (((lane (far 9 0 5 3 0) 1).merged.map Merged.back) = some 0 ∧ laneAt 0 1 ≠ 0)
      ∧ (((lane (far 9 0 6 3 1) 1).merged.map fun m => m.far.port) = some 6)
      ∧ (((lane (record2 716 720) 0).merged.map fun m => (m.far.chassis, m.far.unit, m.far.port)) = some (9, 0, 5))
      ∧ (b.farChassis, b.farUnit, b.farPort) = (9, 0, 5) :=
  by decide

theorem test_witness_delay_arithmetic :
    (716 ≤ 720 ∧ (720 : Int) - 716 < 2 ^ 3 ∧ -(2 ^ 3 : Int) < (720 : Int) - 716 ∧ 640 ≤ 726 ∧ (mergedLane 0 716).estimate = some 716)
      ∧ (31457 * 6250 / 3000 ≤ 65535 ∧ 65535 < 31458 * 6250 / 3000 ∧ 3000 ≤ 8000)
      ∧ ((1008 - 0 + 8) / 16 ≤ 63 ∧ 63 < (1016 - 0 + 8) / 16)
      ∧ (∀ n : Fin 4, n.val < 2 → ((Tab.get (record2 716 720).lanes n).estimate).any (fun x => decide (x ≤ 720)) = true)
      ∧ (Tab.get (record2 716 720).lanes 1).estimate = some 720 := by decide

/-- The group in a state with estimates 716 and `E`, and a window and skew limit of its binding. -/
def windowed (st : GroupState) (E lengthMin lengthMax skewLimit good : Nat) : State :=
  groupState { context2 st with
    bound := some { fields2 with lengthMin := lengthMin, lengthMax := lengthMax, skewLimit := skewLimit }
    record := record2 716 E
    goodCount := good }

theorem test_witness_WindowsAndHysteresis :
    let lengths := fun s : State => (List.range 2).map fun i =>
      (Tab.get (withSkew 2 (withLengths (Tab.get s.cpt.classD (s.record 0).cls) 2 (s.ctx 0).record)).lanes (Fin.ofNat 4 i)).length
    (((windowed .verified 720 1041 2000 2 0).path 0).gate = gateOf .verified
        ∧ ((windowed .verified 720 1041 2000 2 0).ctx 0).origin = none)
      ∧ lengths (windowed .verified 720 1041 2000 2 0) = [some 1040, some 1046]
      ∧ lengths (windowed .verified 720 1040 1045 2 0) = [some 1040, some 1046]
      ∧ (lengths (windowed .verified 733 1040 1065 1 0) = [some 1040, some 1065]
        ∧ groupSkew ((windowed .verified 733 1040 1065 1 0).ctx 0).record 2 = 16 * 1 + 1)
      ∧ groupSkew ((windowed .degraded 732 1040 1065 1 2).ctx 0).record 2 = 16 * 1
      ∧ ((windowed .degraded 732 1040 1065 1 2).ctx 0).goodCount + 1 < (windowed .degraded 732 1040 1065 1 2).mga.settings.hysteresis
      ∧ (windowed .degraded 732 1040 1065 1 3).mga.settings.hysteresis ≤ ((windowed .degraded 732 1040 1065 1 3).ctx 0).goodCount + 1 := by
  decide

/-- R176, R177 in a recheck round that its deadline completes: each finding, a good round that counts, and the one that restores. -/
theorem test_recheck_takes_windows_and_hysteresis :
    let t := fun (st : GroupState) (E lengthMin lengthMax skewLimit good : Nat) =>
      let s := flyingLast st .urgent 1
      let c := (windowed st E lengthMin lengthMax skewLimit good).ctx 0
      (after (.probeDeadlineExpiry 0) { s with buc := { s.buc with contexts := Tab.set s.buc.contexts 0 c } }).ctx 0
    ((t .verified 720 1041 2000 2 0).state, (t .verified 720 1041 2000 2 0).reason) = (.degraded, .lengthShort)
      ∧ (t .degraded 720 1040 1045 2 3).reason = .lengthLong ∧ (t .degraded 720 1040 1045 2 3).goodCount = 0
      ∧ (t .verified 733 1040 1065 1 0).reason = .skew ∧ (t .verified 732 1040 1065 1 0).state = .verified
      ∧ ((t .degraded 732 1040 1065 1 2).state, (t .degraded 732 1040 1065 1 2).goodCount) = (.degraded, 3)
      ∧ ((t .degraded 732 1040 1065 1 3).state, (t .degraded 732 1040 1065 1 3).goodCount) = (.verified, 0) := by decide +kernel

theorem test_witness_ReadTriggersFollowTheMarks :
    let idle := { State.reset with ciu := { State.reset.ciu with inProgress := false } }
    (State.reset.inReset = false ∧ State.reset.ciu.inProgress = true ∧ State.reset.ciu.timer ≠ none)
      ∧ (idle.ciu.inProgress = false ∧ idle.ciu.timer ≠ none) := by decide

/-- The bits of a chain read that brings one byte for port 0 and an empty cage's byte for every other port. -/
def chainBits (b : Byte) : List Bool :=
  (List.replicate 15 (0x01 : Byte) ++ [b]).flatMap fun x => (List.range 8).map fun k => x.getLsbD (7 - k)

theorem test_witness_ChainReadEndJudgesEveryPort :
    let chain := fun p : Fin 16 => if p = 0 then (0xC7 : Byte) else 0x01
    State.reset.inReset = false ∧ State.reset.ciu.inProgress = true ∧ (chainBits 0xC7).length = 128
      ∧ (∀ (p : Fin 16) (k : Fin 8), (chain p).getLsbD k.val = (chainBits 0xC7).getD (8 * (15 - p.val) + (7 - k.val)) false)
      ∧ (∀ p, p ∈ ([0] : List (Fin 16)) ↔ (onesCount (chain p) % 2 = 0 ∨ ((chain p).extractLsb' 2 2).toNat = 3)
          ∨ recordAfterByte State.reset.cpt.plan p (Tab.get State.reset.ciu.records p) (chain p) ≠ Tab.get State.reset.ciu.records p)
      ∧ State.reset.ciu.readPending = false
      ∧ ({ State.reset with ciu := { State.reset.ciu with readPending := true } }).ciu.readPending = true := by decide +kernel

/-- R41: the bits of a byte are packed most significant bit first, port 15's byte first. -/
theorem test_chain_bits_are_packed :
    packBits [true, false, false, false, false, true, true, false] = 0x86 ∧ portByte (chainBits 0xC7) 0 = 0xC7
      ∧ portByte (chainBits 0xC7) 15 = 0x01 ∧ portByte (true :: List.replicate 127 false) 15 = 0x80 := by decide

/-- The group in a state, its port's record changed. -/
def atPort (st : GroupState) (r : InventoryRecord) : State :=
  let s := inGroup st
  { s with ciu := { s.ciu with records := Tab.set s.ciu.records 0 r } }

/-- The record of the group's port in these tests, and the byte it comes from; then REPLACED, READY no and removed. -/
theorem test_witness_PortChangeActsOnTheContexts :
    let r : InventoryRecord := { InventoryRecord.absent with present := true, shape := .pair, ready := true }
    let s := inGroup .verified
    (s.inReset = false ∧ s.ciu.inProgress = true ∧ Tab.get s.ciu.records 0 = r ∧ s.mga.identity.assigned = true
        ∧ State.reset.mga.identity.assigned = false ∧ (s.ctx (cell 0 0)).state = .verified ∧ (s.ctx (cell 0 1)).state = .unplanned
        ∧ lastRoundFlies s (cell 0 0) = false ∧ s.ciu.handed = [])
      ∧ (∀ b ∈ ([0x86, 0x8A, 0x94, 0x85, 0x01] : List Byte), (chainBits b).length = 128 ∧ portByte (chainBits b) 0 = b)
      ∧ readChainByte (portByte (chainBits 0x86) 0) = some r
      ∧ readChainByte (portByte (chainBits 0x8A) 0) = some { r with shape := .quad }
      ∧ readChainByte (portByte (chainBits 0x94) 0) = some { r with cls := 1, ready := false }
      ∧ readChainByte (portByte (chainBits 0x85) 0) = some { r with ready := false }
      ∧ readChainByte (portByte (chainBits 0x01) 0) = some InventoryRecord.absent
      ∧ ((atPort .waiting InventoryRecord.absent).ctx (cell 0 0)).state = .waiting
      ∧ ((atPort .held { r with ready := false }).ctx (cell 0 0)).state = .held
      ∧ ((atPort .discovering { r with ready := false }).ctx (cell 0 0)).state = .discovering := by decide +kernel

/-- The last round of a burst, one probe of it outstanding, in a read that finds the cable gone. -/
def lastRoundRead : State := after (.chainReadEnd (chainBits 0x01)) (intercepting (.echo 1206) (flyingLast .discovering .burst 1))

theorem test_witness_PortChangeWaitsForTheVerdict :
    let s := intercepting (.echo 1206) (flyingLast .discovering .burst 1)
    (s.inReset = false ∧ s.ciu.inProgress = true ∧ lastRoundFlies s (cell 0 0) = true ∧ s.ciu.handed = [] ∧ SchedulerConsistent s
        ∧ (s.ctx 1).state = .unplanned)
      ∧ lastRoundRead.ciu.handed = [{ group := 0, change := .removed }] ∧ (lastRoundRead.ctx 0).state = .discovering
      ∧ (lastRoundRead.record 0).present = false := by
  have h := consistent_flyingLast .discovering .burst 1 (by decide)
  refine ⟨⟨rfl, rfl, by decide +kernel, rfl, ⟨h.oneRequest, h.holder, h.owned, h.flying, h.offsets, h.rounds⟩, rfl⟩, ?_⟩
  decide +kernel

/-- R50: a read, then the verdict on its record, then its event: the echo that completes the last round makes the verdict on the absent record,
posts its notice, and REMOVED takes the context from there, posting once more. -/
theorem test_verdict_between_read_and_event :
    let verdict := after (.echoReceived 0 0 (echoBytesOf 2)) lastRoundRead
    let last := verdict.takeWaiting
    let notice := fun s : State => (s.notices.filter fun n => n.subject == 0).map fun n => (n.content, n.coalesced)
    (verdict.ctx 0).state = .quarantined ∧ (verdict.ctx 0).reason = .cableShape
      ∧ notice verdict = [(.group .quarantined .cableShape none, false)]
      ∧ (last.ctx 0).state = .waiting ∧ (last.ctx 0).reason = .cableAbsent ∧ last.ciu.handed = []
      ∧ notice last = [(.group .waiting .cableAbsent none, true)] := by decide +kernel

/-- The waiting event and its record agree in a state in which one waits. -/
theorem test_witness_queuesValid_waiting : QueuesValid lastRoundRead := by
  have facts : lastRoundRead.mga.queue.length = 0 ∧ lastRoundRead.notices.map Notice.subject = [64] ∧ lastRoundRead.ciu.readPending = false
      ∧ lastRoundRead.ciu.handed = [{ group := 0, change := .removed }] ∧ (lastRoundRead.record 0).present = false := by decide +kernel
  obtain ⟨queue, subjects, mark, handed, absent⟩ := facts
  refine ⟨by omega, fun n m => ?_, by rw [subjects]; decide, fun h => absurd (mark.symm.trans h) (by decide), by rw [handed]; decide, fun e m => ?_⟩
  · have : n.subject ∈ lastRoundRead.notices.map Notice.subject := List.mem_map_of_mem m
    rw [subjects, List.mem_singleton] at this
    omega
  · rw [handed, List.mem_singleton] at m
    subst m
    exact absent

/-- R49, R70: a further read takes the REMOVED that waits first (execChainReadEnd_takeAllWaiting), on the absent record: the context is in WAITING
with its record cleared when the read's own ARRIVED comes, and goes on to a new discovery. -/
theorem test_further_read_takes_the_waiting_event_first :
    let pulled := lastRoundRead.takeAllWaiting
    let seated := (pulled.setRecord 0 { InventoryRecord.absent with present := true, shape := .pair, ready := true }).portChange 0 .arrived
    (pulled.ctx 0).state = .waiting ∧ (pulled.ctx 0).reason = .cableAbsent ∧ (pulled.ctx 0).record.lastView = none
      ∧ pulled.ciu.handed = [] ∧ (seated.ctx 0).state = .discovering := by decide +kernel

/-- R45, R49, R57: cables pulled from ports 15 and 0 in one read: both port notices, then the group notices, each port 15's first. -/
theorem test_notices_of_one_read :
    let s := inGroup .verified
    let r := Tab.get s.ciu.records 0
    let both := { s with
      cpt := { s.cpt with plan := Tab.set s.cpt.plan 60 { enabled := true, fields := fields2 } }
      ciu := { s.ciu with records := Tab.set s.ciu.records 15 r }
      buc := { s.buc with contexts := Tab.set s.buc.contexts 60 (s.ctx 0) } }
    (after (.chainReadEnd (chainBits 0x01)) both).notices.map (fun n => (n.subject, n.coalesced))
      = [(79, false), (64, false), (60, false), (0, false)] := by decide +kernel

/-- R49, R70 to R72: what the bytes of one read tell against a record, and what each kind does at the group, the record being the new one. -/
theorem test_port_changes :
    let r : InventoryRecord := { InventoryRecord.absent with present := true, shape := .pair, ready := true }
    let told := fun (old : InventoryRecord) (b : Byte) => portChangeOf old (recordAfterByte State.reset.cpt.plan 0 old b)
    let taken := fun (st : GroupState) (new : InventoryRecord) (e : PortChange) =>
      let c := ((atPort st new).portChange 0 e).ctx 0
      (c.state, c.reason)
    (told r 0x8A = some .replaced ∧ told r 0x94 = some .replaced ∧ told r 0x85 = some (.ready false) ∧ told r 0x01 = some .removed
        ∧ told InventoryRecord.absent 0x86 = some .arrived ∧ told { r with ready := false } 0x86 = some (.ready true)
        ∧ told r 0x86 = none ∧ told r 0x87 = none)
      ∧ taken .verified { r with shape := .quad } .replaced = (.discovering, .none)
      ∧ taken .verified { r with cls := 1, ready := false } .replaced = (.waiting, .noReady)
      ∧ taken .verified { r with ready := false } (.ready false) = (.waiting, .noReady)
      ∧ taken .waiting r .arrived = (.discovering, .none)
      ∧ taken .quarantined r (.ready true) = (.quarantined, .none)
      ∧ taken .held { r with shape := .quad } .replaced = (.held, .none)
      ∧ taken .held InventoryRecord.absent .removed = (.waiting, .cableAbsent) := by decide +kernel

/-- The group in a state with a state timer that has run out. -/
def timedOut (st : GroupState) (k : TimerKind) : State := groupState { context2 st with timer := some { kind := k, remaining := 0 } }

theorem test_witness_ExpiredStateTimersAct :
    (((timedOut .acquiring .lock).ctx 0).timer = some { kind := .lock, remaining := 0 }
        ∧ ((timedOut .acquiring .lock).ctx 0).state = .acquiring ∧ ((timedOut .lost .lock).ctx 0).state = .lost)
      ∧ (((timedOut .agreeing .agreement).ctx 0).timer = some { kind := .agreement, remaining := 0 }
        ∧ ((timedOut .agreeing .agreement).ctx 0).state = .agreeing)
      ∧ (((timedOut .quarantined .retry).ctx 0).timer = some { kind := .retry, remaining := 0 }
        ∧ ((timedOut .quarantined .retry).ctx 0).state = .quarantined) := by decide

theorem test_witness_PollPostsWhenNothingIsPending :
    let s := groupState { context2 .agreeing with poll := some 0 }
    let t := { s with psc := { s.psc with queue := [newRequest 0 .routine 8] } }
    (GrantsSettled s ∧ s.inReset = false ∧ (s.ctx 0).poll ≠ none ∧ (s.ctx 0).state = .agreeing ∧ hasRequest s.psc.queue 0 = false)
      ∧ (hasRequest t.psc.queue 0 = true
        ∧ GrantsSettled { t with psc := { t.psc with queue := [{ newRequest 0 .routine 8 with inFlight := true }] } }) :=
  ⟨⟨grantsSettled_inGroup _, by decide⟩, by decide, grantsSettled_of_none (by decide)⟩

/-- A sweep in a mode at a position, with group 0 in a state. -/
def sweeping (st : GroupState) (mode : SweepMode) (remaining : Nat) (position : Index) : State :=
  let s := inGroup st
  { s with sws := { s.sws with mode := mode, remaining := remaining, position := position, timer := some 0 } }

/-- The same with group 63 in HELD. -/
def sweepingLast (remaining : Nat) : State :=
  let s := sweeping .waiting .single remaining 62
  { s with buc := { s.buc with contexts := Tab.set s.buc.contexts 63 (context2 .held) } }

theorem test_witness_SweepStepSearchesFromItsPosition :
    let eligible := fun (s : State) (g : Index) =>
      ((s.ctx g).state = .verified ∨ (s.ctx g).state = .degraded ∨ (s.ctx g).state = .held) ∧ hasRequest s.psc.queue g = false
    ((sweeping .verified .continuous 0 63).inReset = false ∧ (sweeping .verified .continuous 0 63).sws.timer = some 0
        ∧ eligible (sweeping .verified .continuous 0 63) 0 ∧ ¬eligible (sweeping .verified .continuous 0 63) 63)
      ∧ (∀ g, ¬eligible (sweeping .waiting .single 2 5) g)
      ∧ ((sweepingLast 1).sws.mode = .single ∧ (sweepingLast 1).sws.remaining = 1 ∧ eligible (sweepingLast 1) 63
        ∧ ¬eligible (sweepingLast 1) 62)
      ∧ (∀ g, ¬eligible (sweeping .waiting .single 1 5) g)
      ∧ (eligible (sweeping .degraded .single 1 0) 0 ∧ (sweeping .degraded .single 1 0).sws.position.val + 0 < 63) := by decide +kernel

theorem test_witness_RequestsQueueAndResponsesDepart :
    let s := (inGroup .verified).setSystemRx 0 (.control 0xE000 0x0072)
    let full := { s with mga := { s.mga with queue := List.replicate 4 { request := requestOf 1 [], state := .waiting } } }
    let answering := { s with mga := { s.mga with queue := [{ request := requestOf 1 [], state := .answering [1] }] } }
    (s.inReset = false ∧ Tab.get s.fsu.systemRx (cell 0 0) = .control 0xE000 0x0072
      ∧ (let rest := bytesOf ([0, 7, 20, 120] ++ List.replicate 120 0)
         4 ≤ rest.length ∧ at8 rest 3 ≤ 120 ∧ at8 rest 3 ≤ rest.length - 4)
      ∧ s.mga.queue.length < 4 ∧ 4 ≤ full.mga.queue.length)
    ∧ (answering.mga.queue = [] ++ { request := requestOf 1 [], state := .answering [1] } :: [] ∧ (requestOf 1 []).lane = cell 0 0
      ∧ (Tab.get answering.fsu.systemTx (cell 0 0)).underWay = none) := by decide +kernel

theorem test_witness_ExecutionAnswersItsRequest :
    (asking 1 [] State.reset).mga.queue = [] ++ { request := requestOf 1 [], state := .waiting } :: []
      ∧ (requestOf 1 []).target.toNat % 16 ≠ 15 ∧ ({ requestOf 1 [] with target := 0x007F }).target.toNat % 16 = 15
      ∧ Asks 200 [] State.reset ∧ (requestOf 200 []).code ∉ commandCodes
      ∧ Asks 80 [1] State.reset ∧ (requestOf 80 [1]).args.length ∉ [0, 2] :=
  ⟨rfl, by decide, by decide, asks _ _ rfl, by decide, asks _ _ rfl, by decide⟩

theorem test_witness_reads :
    Asks 1 [] State.reset ∧ Asks 21 [7] State.reset ∧ Asks 21 [8] State.reset ∧ Asks 23 [] State.reset ∧ Asks 33 [] State.reset
      ∧ Asks 48 [63] State.reset ∧ Asks 48 [64] State.reset ∧ Asks 49 [] State.reset ∧ Asks 51 [] State.reset
      ∧ Asks 17 [63] State.reset ∧ Asks 17 [64] State.reset ∧ Asks 18 [7, 0x0B, 0xB7] State.reset ∧ Asks 18 [8, 0, 0] State.reset
      ∧ Asks 19 [7] State.reset ∧ Asks 19 [8] State.reset ∧ Asks 50 [] State.reset := by
  refine ⟨?_, ?_, ?_, ?_, ?_, ?_, ?_, ?_, ?_, ?_, ?_, ?_, ?_, ?_, ?_, ?_⟩ <;> exact asks _ _ rfl

/-- The Frame Class Table of hardware reset as sixteen codes. -/
def resetCodes : List Nat := [0, 0, 0, 0, 0, 0, 0, 0, 0, 0, 0, 0, 1, 2, 3, 4]

theorem test_witness_TableWritesStoreOrRefuse :
    let stored := State.reset.fsu.classTable
    let count := fun (t : Tab Action 16) (x : Action) => ((List.finRange 16).filter fun k => Tab.get t k = x).length
    (Asks 20 [7, 0xFF, 0x80] State.reset ∧ Asks 20 [8, 0, 0] State.reset ∧ (0x80#8).getLsbD 7 = true ∧ (0x7F#8).getLsbD 7 = false)
      ∧ (Asks 22 resetCodes State.reset ∧ (∀ k : Fin 16, at8 (bytesOf resetCodes) k.val = (Tab.get stored k).code)
        ∧ count stored .probe = 1 ∧ count stored .echo = 1 ∧ 1 ≤ count stored .control ∧ count (Tab.fill .drop) .probe ≠ 1
        ∧ (∀ k : Fin 16, at8 (bytesOf (List.replicate 16 4)) k.val = (Tab.get (Tab.fill Action.drop : Tab Action 16) k).code)
        ∧ 4 < at8 (bytesOf (List.replicate 16 5)) 0)
      ∧ Asks 32 (List.replicate 17 0) State.reset :=
  ⟨⟨asks _ _ rfl, asks _ _ rfl, by decide, by decide⟩,
    ⟨asks _ _ rfl, by decide, by decide, by decide, by decide, by decide, by decide, by decide⟩, asks _ _ rfl⟩

/-- The arguments of a plan write of group 0 as the group of these tests has it, enabled or not, with a retry interval. -/
def planArgs (enabled retry : Nat) : List Nat := [0, enabled, 2, 0, 9, 0, 5, 2, 1, 0, 3, 0x20, 4, 0x4C, 2, 0, retry]

/-- The refusals of R23 in their order, each on a write that passes the tests before it. -/
theorem test_witness_PlanWriteChecksInOrder :
    let plan := (inGroup .verified).cpt.plan
    let w := readEntry (bytesOf (planArgs 1 5))
    let answer := fun (g : Index) (x : WrittenEntry) => (validateEntry plan g x).toOption.map PlanEntry.enabled
    let cause := fun (g : Index) (x : WrittenEntry) => match validateEntry plan g x with
      | .error d => some d
      | .ok _ => none
    cause 0 { w with width := 3 } = some .width ∧ cause 1 w = some .align ∧ cause 0 { w with farFirstLane := 4 } = some .align
      ∧ cause 1 { w with width := 1 } = some .overlap ∧ cause 0 { w with farChassis := 4095 } = some .farId
      ∧ cause 0 { w with allowed := 0 } = some .classSet ∧ cause 0 { w with lengthMin := 1101 } = some .window
      ∧ cause 0 { w with skewLimit := 64 } = some .skewLimit ∧ cause 0 { w with profile := 8 } = some .profile
      ∧ cause 0 { w with width := 1 } = some .lockedWidth ∧ answer 0 w = some true
      ∧ Asks 16 (64 :: (planArgs 1 5).tail) State.reset := by
  refine ⟨?_, ?_, ?_, ?_, ?_, ?_, ?_, ?_, ?_, ?_, ?_, asks _ _ rfl⟩ <;> decide +kernel

/-- The plan writes of the four kinds of R25 and a refused one. -/
theorem test_witness_plan_writes :
    let s := inGroup .verified
    let checked := fun (t : State) (args : List Nat) => validateEntry t.cpt.plan 0 (readEntry (bytesOf args))
    let off : PlanEntry := { enabled := false, fields := fields2 }
    (LanesSettled s ∧ GrantsSettled s ∧ Asks 16 (planArgs 1 5) s ∧ checked s (planArgs 1 5) = .ok (s.entry 0))
      ∧ checked s (planArgs 1 6) = .ok { enabled := true, fields := { fields2 with retry := 6 } }
      ∧ checked s (planArgs 0 5) = .ok off ∧ (s.entry 0).enabled = true
      ∧ checked State.reset (planArgs 0 5) = .ok off ∧ checked State.reset (planArgs 1 5) = .ok { off with enabled := true }
      ∧ (State.reset.entry 0).enabled = false
      ∧ ∃ d, checked s [0, 1, 3, 0, 9, 0, 5, 2, 1, 0, 3, 0x20, 4, 0x4C, 2, 0, 5] = .error d :=
  ⟨⟨lanesSettled_inGroup _, grantsSettled_inGroup _, asks _ _ rfl, rfl⟩, rfl, rfl, rfl, rfl, rfl, rfl, _, rfl⟩

theorem test_witness_SetIdentityStoresAndRestarts :
    Asks 2 [0xFF, 0xEE] State.reset ∧ (256 * 0xFF + 0xEE) / 16 = 4094 ∧ (256 * 0xFF + 0xEE) % 16 = 14
      ∧ 4094 < (256 * 0xFF + 0xFE) / 16 ∧ 14 < (256 * 0xFF + 0xEF) % 16
      ∧ ((256 * 0x00 + 0x72) / 16, (256 * 0x00 + 0x72) % 16)
        = ((inGroup .verified).mga.identity.chassis, (inGroup .verified).mga.identity.unit)
      ∧ ((inGroup .waiting).record 0).present = true ∧ ((inGroup .waiting).record 0).ready = true
      ∧ (State.reset.record 0).present = false := ⟨asks _ _ rfl, by decide⟩

theorem test_witness_group_actions :
    (∀ c, LanesSettled (groupState c) ∧ GrantsSettled (groupState c))
      ∧ Asks 64 [0, 4] (inGroup .verified) ∧ Asks 64 [0, 2] (inGroup .held) ∧ Asks 64 [0, 1] (inGroup .verified)
      ∧ Asks 64 [64, 4] (inGroup .verified) ∧ Asks 64 [65, 4] (inGroup .verified) ∧ Asks 64 [64, 8] (inGroup .verified)
      ∧ (byte 8).extractLsb' 0 3 = 0 ∧ Asks 64 [64, 2] (inGroup .held) ∧ Asks 64 [64, 1] (inGroup .quarantined) ∧ (byte 4).getLsbD 2 = true ∧ (byte 3).getLsbD 2 = false ∧ (byte 3).getLsbD 1 = true
      ∧ (byte 1).extractLsb' 0 3 = 1
      ∧ (((groupState { context2 .held with origin := some .localHold }).ctx 0).origin = some .localHold)
      ∧ ((inGroup .held).ctx 0).origin = none
      ∧ ∀ st, ((inGroup st).ctx 0).state = st :=
  ⟨fun c => ⟨lanesSettled_inGroup c, grantsSettled_inGroup c⟩, asks _ _ rfl, asks _ _ rfl, asks _ _ rfl, asks _ _ rfl, asks _ _ rfl,
    asks _ _ rfl, by decide, asks _ _ rfl, asks _ _ rfl, by decide, by decide, by decide, by decide, rfl, rfl, fun _ => rfl⟩

/-- A scheduler with an empty queue and every slot FREE is consistent. -/
theorem schedulerConsistent_of_idle (s : State) (queue : s.psc.queue = []) (holder : s.psc.holder = none)
    (free : ∀ k, (Tab.get s.psc.slots k).state = .free) : SchedulerConsistent s where
  oneRequest := by rw [queue]; exact List.nodup_nil
  holder h e := by rw [holder] at e; cases e
  owned k g e := by rw [free k] at e; cases e
  flying r m := by rw [queue] at m; cases m
  offsets k k' g i e := by rw [free k] at e; cases e
  rounds r m := by rw [queue] at m; cases m

/-- An URGENT posting finds a request of its group in the queue, settled because it is in flight. -/
theorem test_witness_RecheckOneGroup :
    let s := flying .verified .routine 1
    LanesSettled s ∧ GrantsSettled s ∧ SchedulerConsistent s ∧ Asks 64 [0, 1] s ∧ hasRequest s.psc.queue 0 = true
      ∧ (∃ q ∈ s.psc.queue, q.group = 0 ∧ q.kind = .routine ∧ q.inFlight = true)
      ∧ (∀ c, SchedulerConsistent (groupState c) ∧ hasRequest (groupState c).psc.queue 0 = false) :=
  ⟨lanesSettled_of_empty (lanesSettled_inGroup_buffer (context2 .verified)), grantsSettled_of_none (by decide),
    schedulerConsistent_of_one rfl rfl rfl (by decide) (.inl rfl) (by decide) (by decide), asks _ _ rfl, by decide, by decide,
    fun c => ⟨schedulerConsistent_of_idle (groupState c) rfl rfl fun k => (by decide : ∀ k, (Tab.get Psc.reset.slots k).state = .free) k, rfl⟩⟩

theorem test_witness_GroupActionOnEveryGroupOrRefused :
    ((inGroup .verified).entry 0).enabled = true ∧ ((inGroup .verified).ctx 0).state ≠ .unplanned
      ∧ ((inGroup .verified).ctx 0).state ≠ .waiting ∧ ((inGroup .verified).entry 1).enabled = false := by decide

theorem test_witness_SweepControlSetsTheScheduler :
    Asks 80 [] State.reset ∧ Asks 80 [3, 0] State.reset ∧ Asks 80 [2, 255] State.reset ∧ (2 : Nat) < (byte 3).toNat
      ∧ (byte 0).toNat = SweepMode.off.code ∧ (byte 1).toNat = SweepMode.single.code
      ∧ (byte 2).toNat = SweepMode.continuous.code :=
  ⟨asks _ _ rfl, asks _ _ rfl, asks _ _ rfl, by decide, by decide, by decide, by decide⟩

theorem test_witness_NoticeQueueKeepsOnePerSubject :
    let n : Notice := { subject := 3, content := .group .held .none none, time := 0, coalesced := false }
    (∀ x ∈ [n], x.subject ≠ 4) ∧ [n] = [] ++ n :: [] ∧ n.subject = 3 := by decide

/-! The group in VERIFIED, with its record and a notice, satisfies every invariant, so the premises of the invariant statements hold together
in a state that does more than reset does. -/

/-- The group in VERIFIED with its notice pending. -/
def running : State := (inGroup .verified).postGroup 0

theorem running_enabled : ∀ g, (running.entry g).enabled = true → g = 0 := by decide

theorem running_passed : ∀ g, (running.ctx g).state = .unplanned ∨ g = 0 := by decide

theorem test_witness_tablesValid : TablesValid running where
  classD := by decide
  profiles := by decide
  aligned := by decide
  farEnds := by decide
  classes := by decide
  windows := by decide
  skews := by decide
  disjoint g h l a b _ _ := (running_enabled g a).trans (running_enabled h b).symm
  kinds := by decide
  probeTimeout := by decide
  rounds := by decide
  smoothing := by decide
  pathOffset := by decide
  lockTimeout := by decide
  agreementTimeout := by decide
  sweepInterval := by decide
  hysteresis := by decide
  inventoryInterval := by decide
  assigned _ := by decide
  unassigned h := by cases h

theorem test_witness_queuesValid : QueuesValid running where
  requests := by decide
  subjects := by decide
  distinct := by decide
  marks _ := rfl
  contexts := by decide
  changes e m := by cases m

theorem test_witness_contextsValid : ContextsValid running where
  gate := by decide
  unplanned := by decide
  bound g h := by
    cases running_enabled g h
    exact ⟨fields2, rfl, rfl⟩
  unbound := by decide
  identity h := by cases h

/-- The one data frame under way is of the group, whose gate is open. -/
theorem test_witness_closedGatesIdle : ClosedGatesIdle withFrame where
  content side l f m := by
    have all : ∀ l, (Tab.get (withFrame.tx .system) l).content = [] ∧ ∀ x ∈ (Tab.get (withFrame.tx .line) l).content,
        x = .data { lead := 0x0600, content := [1, 2], source := .system, group := 0, out := 0 } := by decide +kernel
    cases side with
    | line => cases (all l).2 _ m; decide
    | system => rw [(all l).1] at m; cases m
  holds l h m := by
    have all : ∀ l, Tab.get withFrame.fsu.holds l = [] := by decide +kernel
    rw [all l] at m; cases m
  judged l lead f e := by
    have all : ∀ l, Tab.get withFrame.fsu.systemRx l = .none := by decide +kernel
    rw [all l] at e; cases e

/-- Both premises of the step that keeps closed gates idle, a LOSS that closes the gate in front. -/
theorem test_witness_closedGatesIdle_step :
    ClosedGatesIdle { withFrame with pending := [.lockLost 0 1] } ∧ ∃ t, step { withFrame with pending := [.lockLost 0 1] } = .next t := by
  refine ⟨⟨test_witness_closedGatesIdle.1, test_witness_closedGatesIdle.2, test_witness_closedGatesIdle.3⟩, ?_⟩
  have h : (match exec (.lockLost 0 1) withFrame with | .next _ => true | _ => false) = true := by decide +kernel
  have e : step { withFrame with pending := [.lockLost 0 1] } = exec (.lockLost 0 1) withFrame := rfl
  rw [e]
  split at h
  · exact ⟨_, ‹_›⟩
  · cases h

theorem test_witness_openRecordsConsistent : OpenRecordsConsistent running := by
  intro g h
  rcases running_passed g with u | rfl
  · rw [u] at h; rcases h with h | h | h <;> cases h
  · refine ⟨⟨(9, 0, 5), fun i lt => ?_⟩, rfl, by decide⟩
    have lt : i.val < 2 := lt
    match i, lt with
    | 0, _ => exact ⟨_, rfl, rfl, rfl, rfl⟩
    | 1, _ => exact ⟨_, rfl, rfl, rfl, rfl⟩

theorem test_witness_recordsInRange : RecordsInRange running where
  estimate g i E h := by
    have all : ∀ g i, ((Tab.get (running.ctx g).record.lanes i).estimate).all (fun E => decide (E ≤ 16777215)) = true := by decide +kernel
    simpa [h] using all g i
  length g i n h := by
    have all : ∀ g i, ((Tab.get (running.ctx g).record.lanes i).length).all (fun E => decide (E ≤ 65535)) = true := by decide +kernel
    simpa [h] using all g i
  comp g i n h := by
    have all : ∀ g i, ((Tab.get (running.ctx g).record.lanes i).comp).all (fun E => decide (E ≤ 63)) = true := by decide +kernel
    simpa [h] using all g i
  missRun := by decide +kernel
  echoCount := by decide +kernel
  skew g n h := by
    have all : ∀ g, (running.ctx g).record.skew = none := by decide +kernel
    rw [all g] at h; cases h
  loaded := by decide +kernel

theorem test_witness_schedulerConsistent : SchedulerConsistent running := schedulerConsistent_of_idle running rfl rfl (by decide)

theorem test_witness_lanesDistinct : LanesDistinct running := by
  have free : ∀ k, (Tab.get running.psc.slots k).state = .free := by decide
  exact ⟨fun r m => by (cases m), fun k g i e => by (rw [free k] at e; cases e), fun k k' g i g' i' e => by (rw [free k] at e; cases e)⟩

theorem test_witness_arbitersSettled : LanesSettled running ∧ GrantsSettled running ∧ ∃ t, step running = .next t :=
  ⟨lanesSettled_of_empty (lanesSettled_inGroup_buffer (context2 .verified)), grantsSettled_inGroup (context2 .verified), by
    have h : dueEvents running = [] := by decide +kernel
    exact ⟨_, by simp only [step, nextOwn, h]; rfl⟩⟩

end Sys2Proof.Tests
end

section
/-! What one event of the part can do, said once: the changes at one context, the changes within an event, and the whole events into
which every command, tick and taking of a port change event falls apart. The invariants are proved over these. -/

namespace Sys2Proof.Machine

/-! ## Changes at one context -/

/-- One change at context g within an event. A context is never taken to UNPLANNED here, nor out of it, and it leaves WAITING only
where the start test has seen an identity (R55, R59, R80). -/
inductive ContextMove (g : Index) (s : State) : State → Prop
  | enter (st : GroupState) (r : Reason) (o : Option HoldOrigin) (planned : (s.ctx g).state ≠ .unplanned)
      (target : st ≠ .unplanned)
      (allowed : st = .waiting ∨ s.mga.identity.assigned = true ∨ (s.ctx g).state ≠ .waiting) :
      ContextMove g s (s.enter g st r o)
  | context (f : Context → Context) (state : (f (s.ctx g)).state = (s.ctx g).state)
      (bound : (f (s.ctx g)).bound = (s.ctx g).bound) (stale : (f (s.ctx g)).stale = (s.ctx g).stale) :
      ContextMove g s (s.modCtx g f)
  | stale (enabled : (s.entry g).enabled = true) : ContextMove g s (s.modCtx g fun c => { c with stale := true })
  | refresh (planned : (s.ctx g).state ≠ .unplanned) : ContextMove g s (s.refresh g)
  | load : ContextMove g s (s.loadFsu g)
  | gate (profile : Option (Fin 8)) : ContextMove g s (s.writeGate g (gateOf (s.ctx g).state) profile)
  | scheduler (p : Psc) (kept : EventAt g s { s with psc := p }) : ContextMove g s { s with psc := p }

/-- Changes at context g, one after another. -/
def ContextMoves (g : Index) : State → State → Prop := Relation.ReflTransGen (ContextMove g)

theorem ContextMoves.refl {g : Index} {s : State} : ContextMoves g s s := Relation.ReflTransGen.refl

theorem ContextMoves.single {g : Index} {s t : State} (m : ContextMove g s t) : ContextMoves g s t :=
  Relation.ReflTransGen.single m

theorem ContextMoves.trans {g : Index} {s t u : State} (a : ContextMoves g s t) (b : ContextMoves g t u) : ContextMoves g s u :=
  Relation.ReflTransGen.trans a b

theorem ContextMoves.tail {g : Index} {s t u : State} (a : ContextMoves g s t) (b : ContextMove g t u) : ContextMoves g s u :=
  Relation.ReflTransGen.tail a b

theorem ContextMove.eventAt {g : Index} {s t : State} (m : ContextMove g s t) : EventAt g s t := by
  cases m with
  | enter => exact .enter ..
  | context => exact .modCtx ..
  | stale => exact .modCtx ..
  | refresh => exact .refresh ..
  | load => exact .loadFsu ..
  | gate => exact .writeGate ..
  | scheduler p kept => exact kept

/-- No change at a context posts a notice: the end of the event does (R57). -/
theorem ContextMove.notices {g : Index} {s t : State} (m : ContextMove g s t) : t.notices = s.notices := by
  cases m with
  | enter => exact notices_enter ..
  | gate => exact notices_writeGate ..
  | context | stale | refresh | load | scheduler => rfl

theorem state_enter (s : State) (g : Index) (st : GroupState) (r : Reason) (o : Option HoldOrigin) :
    ((s.enter g st r o).ctx g).state = st := by simp [enterContext]

theorem assigned_of_startTest {s : State} {g : Index} (pass : startTest s g = none) : s.mga.identity.assigned = true := by
  unfold startTest at pass
  cases h : s.mga.identity.assigned
  · simp [h] at pass
  · rfl

/-- A context that is planned, and past WAITING. -/
def Started (s : State) (g : Index) : Prop := (s.ctx g).state ≠ .unplanned ∧ (s.ctx g).state ≠ .waiting

theorem Started.of_state {s : State} {g : Index} {st : GroupState} (h : (s.ctx g).state = st)
    (started : st ≠ .unplanned ∧ st ≠ .waiting) : Started s g := by
  unfold Started
  rw [h]
  exact started

theorem Started.modCtx {s : State} {g : Index} {f : Context → Context} (h : Started s g)
    (state : (f (s.ctx g)).state = (s.ctx g).state) : Started (s.modCtx g f) g := by
  unfold Started
  rw [ctx_modCtx_same, state]
  exact h

theorem Started.refresh {s : State} {g : Index} (h : Started s g) : Started (s.refresh g) g := h.modCtx rfl

/-- A started context enters any planned state (R55). -/
theorem ContextMoves.enter {g : Index} {s : State} {st : GroupState} (h : Started s g) (r : Reason) (o : Option HoldOrigin)
    (target : st ≠ .unplanned) : ContextMoves g s (s.enter g st r o) :=
  .single (.enter st r o h.1 target (.inr (.inr h.2)))

theorem ContextMoves.quarantine {g : Index} {s : State} (h : Started s g) (r : Reason) : ContextMoves g s (s.quarantine g r) :=
  .enter h _ _ (by decide)

theorem ContextMoves.holdRemote {g : Index} {s : State} (h : Started s g) : ContextMoves g s (s.holdRemote g) :=
  .enter h _ _ (by decide)

theorem ContextMoves.record (s : State) (g : Index) (dr : DiscoveryRecord) :
    ContextMoves g s (s.modCtx g fun c => { c with record := dr }) := .single (.context _ rfl rfl rfl)

theorem ContextMoves.enterAcquiring {g : Index} {s : State} (planned : (s.ctx g).state ≠ .unplanned)
    (allowed : s.mga.identity.assigned = true ∨ (s.ctx g).state ≠ .waiting) : ContextMoves g s (s.enterAcquiring g) := by
  have first : ContextMoves g s (s.enter g .acquiring .none none) := .single (.enter _ _ _ planned (by decide) (.inr allowed))
  unfold State.enterAcquiring
  dsimp only
  split
  · exact first.trans (.enter (.of_state (state_enter ..) (by decide)) _ _ (by decide))
  · exact first

theorem ContextMoves.applyStart {g : Index} {s : State} (planned : (s.ctx g).state ≠ .unplanned) :
    ContextMoves g s (s.applyStart g) := by
  unfold State.applyStart
  split
  · next pass => exact .enterAcquiring planned (.inl (assigned_of_startTest pass))
  · split
    · exact .single (.context _ rfl rfl rfl)
    · exact .single (.enter _ _ _ planned (by decide) (.inl rfl))

theorem ContextMoves.toWaiting {g : Index} {s : State} (planned : (s.ctx g).state ≠ .unplanned) (r : Reason) :
    ContextMoves g s (s.toWaiting g r) :=
  .single (.enter _ _ _ planned (by decide) (.inl rfl))

theorem ContextMoves.contextLock (s : State) (g : Index) : ContextMoves g s (s.contextLock g) := by
  unfold State.contextLock
  split
  case h_1 | h_2 =>
    next st =>
    split
    · exact .enter (.of_state st (by decide)) _ _ (by decide)
    · exact .refl
  all_goals exact .refl

theorem ContextMoves.contextLoss (s : State) (g : Index) : ContextMoves g s (s.contextLoss g) := by
  unfold State.contextLoss
  split
  case h_1 | h_2 | h_3 | h_4 =>
    next st => exact .enter (.of_state st (by decide)) _ _ (by decide)
  all_goals exact .refl

theorem ContextMoves.portChange (s : State) (g : Index) (e : PortChange) : ContextMoves g s (s.portChange g e) := by
  unfold State.portChange
  split
  · exact .refl
  · next st => exact .applyStart (by rw [st]; decide)
  · next st =>
    split
    · exact .toWaiting (by rw [st]; decide) _
    all_goals exact .refl
  all_goals
    next st =>
    have planned : (s.ctx g).state ≠ .unplanned := by rw [st]; decide
    split
    · exact .toWaiting planned _
    · exact .toWaiting planned _
    · exact .applyStart planned
    all_goals exact .refl

/-- An accepted view moves a context only from a state past WAITING (R101 to R106). -/
theorem ContextMoves.applyView (s : State) (g : Index) (v : View) : ContextMoves g s (s.applyView g v) := by
  unfold State.applyView
  split
  case h_1 => exact .single (.context _ rfl rfl rfl)
  case h_2 | h_3 | h_4 | h_6 =>
    next st =>
    have started : Started s g := .of_state st (by decide)
    cases v
    all_goals first | exact .refl | exact .enter started _ _ (by decide)
  case h_5 =>
    next st =>
    split
    case h_5 => exact .refl
    all_goals exact .applyStart (by rw [st]; decide)
  all_goals exact .refl

theorem ContextMoves.applyRoundView (s : State) (g : Index) (v : Option View) : ContextMoves g s (s.applyRoundView g v) := by
  cases v with
  | none => exact .refl
  | some v => exact .applyView ..

theorem ContextMoves.post (s : State) (g : Index) (kind : RequestKind) (n : Nat) :
    ContextMoves g s { s with psc := postRequest g kind n s.psc } :=
  .single (.scheduler _ (.postRequest ..))

/-! ## Group actions and identity -/

theorem ContextMoves.holdAction (s : State) (g : Index) : ContextMoves g s (s.holdAction g).1 := by
  unfold State.holdAction
  split
  case h_1 | h_2 => exact .refl
  case h_3 => exact .single (.context _ rfl rfl rfl)
  all_goals
    next st =>
    dsimp only
    exact .enter (.of_state st (by decide)) _ _ (by decide)

theorem ContextMoves.resumeAction (s : State) (g : Index) : ContextMoves g s (s.resumeAction g).1 := by
  unfold State.resumeAction
  split
  · next held => exact .applyStart (by rw [held.1]; decide)
  · exact .refl

theorem ContextMoves.recheckAction (s : State) (g : Index) : ContextMoves g s (s.recheckAction g).1 := by
  unfold State.recheckAction
  split
  case h_5 => next st => exact .applyStart (by rw [st]; decide)
  case h_1 | h_2 | h_3 | h_4 => exact .post ..
  all_goals exact .refl

theorem ContextMoves.groupAction (a : GroupAction) (s : State) (g : Index) : ContextMoves g s (a.apply s g).1 := by
  cases a with
  | hold => exact .holdAction s g
  | resume => exact .resumeAction s g
  | recheck => exact .recheckAction s g

theorem ContextMoves.contextIdentity (s : State) (g : Index) : ContextMoves g s (s.contextIdentity g) := by
  unfold State.contextIdentity
  split
  case h_8 => next st => exact .applyStart (by rw [st]; decide)
  case h_9 | h_10 => exact .refl
  all_goals next st => exact .enterAcquiring (by rw [st]; decide) (.inr (by rw [st]; decide))

/-! ## Rounds and verdicts -/

theorem ContextMoves.takeOutcome {g : Index} {s : State} (h : Started s g) (o : Outcome) :
    ContextMoves g s (s.takeOutcome g o) := by
  have load : ContextMoves g s (s.loadFsu g) := .single .load
  have loaded : Started (s.loadFsu g) g := h
  unfold State.takeOutcome
  cases o with
  | quarantined r => exact .quarantine h r
  | agreeing => exact load.trans (.enter loaded _ _ (by decide))
  | verified => exact load.trans (.enter loaded _ _ (by decide))
  | heldRemote => exact load.trans (.holdRemote loaded)

theorem ContextMoves.verdict {g : Index} {s : State} (h : Started s g) : ContextMoves g s (s.verdict g) := by
  unfold State.verdict
  have fresh : ContextMoves g s (s.refresh g) := .single (.refresh h.1)
  exact (fresh.trans (.record ..)).trans (.takeOutcome (h.refresh.modCtx rfl) _)

/-- In DISCOVERING a view is stored and moves nothing (R101). -/
theorem state_applyView_discovering {s : State} {g : Index} (st : (s.ctx g).state = .discovering) (v : View) :
    ((s.applyView g v).ctx g).state = .discovering := by
  unfold State.applyView
  rw [st]
  exact (congrArg Context.state (ctx_modCtx_same ..)).trans st

theorem ContextMoves.burstRound {s : State} {r : RoundResult} (st : (s.ctx r.group).state = .discovering) :
    ContextMoves r.group s (s.burstRound r) := by
  unfold State.burstRound
  dsimp only
  generalize hm : s.modCtx r.group (fun c =>
    { c with record := mergeRound s.mga.settings (boundWidth s r.group) r.outcomes c.record }) = merged
  have first : ContextMoves r.group s merged := hm ▸ .single (.context _ rfl rfl rfl)
  have kept : (merged.ctx r.group).state = .discovering := by rw [← hm, ctx_modCtx_same]; exact st
  have viewed : ∀ v : Option View, ContextMoves r.group s (match v with
        | some v => merged.applyView r.group v
        | none => merged)
      ∧ ((match v with
        | some v => merged.applyView r.group v
        | none => merged).ctx r.group).state = .discovering := by
    intro v
    cases v with
    | none => exact ⟨first, kept⟩
    | some v => exact ⟨first.trans (.applyView ..), state_applyView_discovering kept v⟩
  split
  · exact (viewed _).1.trans (.verdict (.of_state (viewed _).2 (by decide)))
  · exact (viewed _).1

theorem ContextMoves.windowStep (s : State) (g : Index) : ContextMoves g s (s.windowStep g) := by
  unfold State.windowStep
  split
  · next st _ =>
    have started : Started s g := .of_state st (by decide)
    dsimp only
    split
    · exact ((ContextMoves.record ..).trans (.enter (started.modCtx rfl) _ _ (by decide))).tail (.context _ rfl rfl rfl)
    · exact .record ..
  · next st _ =>
    have started : Started s g := .of_state st (by decide)
    dsimp only
    split
    · exact (ContextMoves.record ..).tail (.context _ rfl rfl rfl)
    · split
      · exact ((ContextMoves.record ..).trans (.enter (started.modCtx rfl) _ _ (by decide))).tail (.context _ rfl rfl rfl)
      · exact (ContextMoves.record ..).tail (.context _ rfl rfl rfl)
  · exact .refl

theorem ContextMoves.syncGate (s : State) (g : Index) : ContextMoves g s (s.syncGate g) := by
  unfold State.syncGate
  split
  · split
    · exact .refl
    · exact .single (.gate _)
  · exact .refl

theorem ContextMoves.staleStep {g : Index} {s : State} (h : Started s g) : ContextMoves g s (s.staleStep g).1 := by
  unfold State.staleStep
  split
  · have fresh : ContextMoves g s (s.refresh g) := .single (.refresh h.1)
    dsimp only
    split
    · exact fresh.trans (.quarantine h.refresh _)
    · exact fresh
  · exact .refl

theorem ContextMoves.openRecheck {s : State} {r : RoundResult} (h : Started s r.group) (v : Option View) :
    ContextMoves r.group s (s.openRecheck r v) := by
  unfold State.openRecheck
  dsimp only
  generalize hm : s.modCtx r.group _ = measured
  have first : ContextMoves r.group s measured := hm ▸ .single (.context _ rfl rfl rfl)
  have started : Started measured r.group := hm ▸ h.modCtx rfl
  split
  · exact (first.trans (.enter started _ _ (by decide))).trans (.applyRoundView ..)
  · have checked := first.trans (.staleStep started)
    split
    · next e =>
      rw [e] at checked
      exact checked.trans (.applyRoundView ..)
    · next e =>
      rw [e] at checked
      have viewed := (checked.trans (.windowStep ..)).trans (.applyRoundView _ _ v)
      split
      · exact viewed.trans (.syncGate ..)
      · exact viewed

theorem ContextMoves.recheckRound (s : State) (r : RoundResult) : ContextMoves r.group s (s.recheckRound r) := by
  unfold State.recheckRound
  dsimp only
  split
  case h_1 => exact .applyRoundView ..
  case h_2 | h_3 | h_4 => next st => exact .openRecheck (.of_state st (by decide)) _
  all_goals exact .refl

theorem ContextMoves.roundResult (s : State) (r : RoundResult) : ContextMoves r.group s (s.roundResult r) := by
  unfold State.roundResult
  split
  · split
    · next st => exact .burstRound st
    · exact .refl
  all_goals exact .recheckRound ..

/-- Settling the probe of a slot of group g: scheduler changes at g, and what the round's result does to its context (R124). -/
theorem ContextMoves.settle (s : State) {k : Fin 8} {g : Index} (i : Fin 4) (o : LaneOutcome)
    (own : (Tab.get s.psc.slots k).state.group = some g) : ContextMoves g s (s.settle k g i o) := by
  unfold State.settle
  dsimp only
  have stored : ContextMoves g s { s with psc := storeOutcome g i o (freeSlot k s.psc) } :=
    .single (.scheduler _ (.settleSlot s i o own))
  split
  · split
    · next r found =>
      have group := (findRequest_some found).2
      refine (stored.tail (.scheduler _ (.endRound _ group))).trans ?_
      have result := ContextMoves.roundResult { s with psc := (endRound r (storeOutcome g i o (freeSlot k s.psc))).1 }
        (endRound r (storeOutcome g i o (freeSlot k s.psc))).2
      rw [endRound_group, group] at result
      exact result
    · exact stored
  · exact stored

end Sys2Proof.Machine
end

section
/-! Whole events: a command, a tick and the taking of a port change event each fall apart into these. -/

namespace Sys2Proof.Machine

/-! ## Changes within an event -/

/-- One change within an event that its end settles (R57, R5, R112): at one context, of the lane lock view, of an echo slot, or of a plan
entry that has passed the tests of R23. -/
inductive Move (s : State) : State → Prop
  | context {g : Index} {t : State} (m : ContextMove g s t) : Move s t
  | lockView (l : Index) (v : LockView) : Move s (s.setLockView l v)
  | echo (l : Index) (e : Option EchoSlot) : Move s (s.setEcho l e)
  | enabled (g : Index) (e : PlanEntry) (w : WrittenEntry) (valid : validateEntry s.cpt.plan g w = .ok e)
      (off : (s.entry g).enabled = false) (on : e.enabled = true) :
      Move s ((((s.storeEntry g e).recomputeUnplanned (portOf g)).modCtx g fun c =>
        { c with bound := some e.fields, stale := false }).enter g .waiting .none none)
  | disabled (g : Index) (e : PlanEntry) (w : WrittenEntry) (valid : validateEntry s.cpt.plan g w = .ok e)
      (on : (s.entry g).enabled = true) (off : e.enabled = false) :
      Move s (((s.storeEntry g e).recomputeUnplanned (portOf g)).disableContext g)
  | rewritten (g : Index) (e : PlanEntry) (w : WrittenEntry) (valid : validateEntry s.cpt.plan g w = .ok e)
      (same : e.enabled = (s.entry g).enabled) : Move s (s.storeEntry g e)

/-- Changes within one event, one after another. -/
def Moves : State → State → Prop := Relation.ReflTransGen Move

theorem Moves.refl {s : State} : Moves s s := Relation.ReflTransGen.refl

theorem Moves.single {s t : State} (m : Move s t) : Moves s t := Relation.ReflTransGen.single m

theorem Moves.trans {s t u : State} (a : Moves s t) (b : Moves t u) : Moves s u := Relation.ReflTransGen.trans a b

theorem ContextMoves.moves {g : Index} {s t : State} (m : ContextMoves g s t) : Moves s t :=
  Relation.ReflTransGen.mono (fun _ _ => Move.context) _ _ m

/-- An operation that moves one context at a time, given to contexts one after another. -/
theorem Moves.fold {f : State → Index → State} (each : ∀ s g, Moves s (f s g)) (is : List Index) (s : State) :
    Moves s (is.foldl f s) := by
  induction is generalizing s with
  | nil => exact .refl
  | cons g rest ih => exact (each s g).trans (ih _)

theorem Moves.lockEvent (s : State) (l : Index) (polarity : Bool) : Moves s (s.lockEvent l polarity) := by
  have view := Moves.single (.lockView (s := s) l { locked := true, polarity := polarity })
  unfold State.lockEvent
  dsimp only
  split
  · exact view.trans (ContextMoves.contextLock ..).moves
  · exact view

theorem Moves.lossEvent (s : State) (l : Index) : Moves s (s.lossEvent l) := by
  have view := Moves.single (.lockView (s := s) l { locked := false, polarity := (Tab.get s.buc.lockView l).polarity })
  unfold State.lossEvent
  dsimp only
  split
  · exact view.trans (ContextMoves.contextLoss ..).moves
  · exact view

theorem Moves.viewReport (s : State) (l : Index) (sender : FarEnd) (view : Option View) : Moves s (s.viewReport l sender view) := by
  unfold State.viewReport
  split
  · split
    · exact (ContextMoves.applyView ..).moves
    · exact .refl
  · exact .refl

/-- An accepted plan write, by its kind (R25). -/
theorem Moves.acceptEntry {s : State} {g : Index} {e : PlanEntry} {w : WrittenEntry} (valid : validateEntry s.cpt.plan g w = .ok e) :
    Moves s (s.acceptEntry g e) := by
  unfold State.acceptEntry
  dsimp only
  split
  · next off on =>
    exact (Moves.single (.enabled g e w valid off on)).trans (ContextMoves.applyStart (by rw [state_enter]; decide)).moves
  · next on off => exact .single (.disabled g e w valid on off)
  · next was is =>
    have stored := Moves.single (.rewritten g e w valid (is.trans was.symm))
    split
    · exact stored
    · have on : ((s.storeEntry g e).entry g).enabled = true := by
        rw [State.entry, State.storeEntry, Tab.get_set_same]
        exact is
      exact stored.trans (.single (.context (.stale on)))
  · next was is => exact .single (.rewritten g e w valid (is.trans was.symm))

/-- A group action on every planned context (R191). -/
theorem Moves.applyAll (a : GroupAction) (s : State) : Moves s (a.applyAll s).1 := by
  unfold GroupAction.applyAll
  have key : ∀ (is : List Index) (x : State × Nat), Moves s x.1 → Moves s (is.foldl
      (fun (t, n) g => if (s.entry g).enabled then ((a.apply t g).1, n + bit (a.apply t g).2) else (t, n)) x).1 := by
    intro is
    induction is with
    | nil => exact fun _ m => m
    | cons g rest ih =>
      intro x m
      refine ih _ ?_
      dsimp only
      split
      · exact m.trans (ContextMoves.groupAction ..).moves
      · exact m
  exact key indices _ .refl

/-! ## Events -/

/-- The settings lie in their ranges (R188). -/
structure SettingsValid (x : Settings) : Prop where
  probeTimeout : 1 ≤ x.probeTimeout ∧ x.probeTimeout ≤ 1000
  rounds : 1 ≤ x.discoveryRounds ∧ x.discoveryRounds ≤ 16
  smoothing : x.smoothing ≤ 7
  pathOffset : x.pathOffset ≤ 1023
  lockTimeout : 10 ≤ x.lockTimeout ∧ x.lockTimeout ≤ 2000
  agreementTimeout : 10 ≤ x.agreementTimeout ∧ x.agreementTimeout ≤ 10000
  sweepInterval : 100 ≤ x.sweepInterval ∧ x.sweepInterval ≤ 100000
  hysteresis : 1 ≤ x.hysteresis ∧ x.hysteresis ≤ 15
  inventoryInterval : 10 ≤ x.inventoryInterval ∧ x.inventoryInterval ≤ 1000

/-- The gate's answer to a frame admits it only for a group whose gate is not CLOSED (R14). -/
def Judgement.Open (s : State) : Judgement → Prop
  | .fenced _ => True
  | .admitted f => (s.path f.group).gate ≠ .closed

/-- A frame under reception on a system lane holds no answer that a CLOSED gate could not give. -/
def SystemRx.Open (s : State) : SystemRx → Prop
  | .awaitingTarget _ j => j.Open s
  | .none | .control _ _ => True

/-- An event of data frames alone: at reception, in a hold, and on the transmit lanes. -/
inductive FrameEvent (s : State) : State → Prop
  | systemRx (l : Index) (r : SystemRx) (isOpen : r.Open s) : FrameEvent s (s.setSystemRx l r)
  | arbitrated : FrameEvent s s.arbitrate
  | handled (l : Index) (j : Judgement) (isOpen : j.Open s) : FrameEvent s (s.handle l j).arbitrate
  | unaddressed (l : Index) (lead : LeadWord) (j : Judgement) (waits : Tab.get s.fsu.systemRx l = .awaitingTarget lead j) :
      FrameEvent s ((s.setSystemRx l .none).handle l j).arbitrate
  | holdEnded (l : Index) (h : HeldFrame) (rest : List HeldFrame) (held : Tab.get s.fsu.holds l = h :: rest) :
      FrameEvent s ((s.setHolds l rest).buffer .system h.frame).arbitrate
  | frameEnded (side : Side) (l : Index) (abortMark : Bool) : FrameEvent s (s.modTx side l (TxLane.finish abortMark)).arbitrate

/-- One whole event of the part. After each of them the arbiters are settled again and the invariants hold. -/
inductive Event (s : State) : State → Prop
  | hardReset : Event s s.assertReset
  | released : Event s { s with inReset := false }
  | softReset : Event s s.softReset
  /-- Fronts, interception, the two counters, the Sweep Scheduler and the inventory's times. -/
  | aside (lfr : Tab LaneFront 64) (lineRx : Tab LineRx 64) (malformed late : BitVec 32) (sws : Sws) (timer : Option Nat) (elapsed : Nat) :
      Event s { s with
        lfr := lfr
        fsu := { s.fsu with lineRx := lineRx, malformed := malformed }
        psc := { s.psc with late := late }
        sws := sws
        ciu := { s.ciu with timer := timer, elapsed := elapsed } }
  | frame {t : State} (e : FrameEvent s t) : Event s t
  | probeSent (k : Fin 8) (g : Index) (i : Fin 4) (slot : (Tab.get s.psc.slots k).state = .granted g i)
      (free : laneFree s .line (laneAt g i.val) = true) (bytes : List Byte) (timeout : Nat) :
      Event s { s.send .line (laneAt g i.val) (.probe bytes) with
        psc := { s.psc with slots := Tab.upd s.psc.slots k fun sl => { sl with state := sentSlot s.psc.now timeout g i } } }
  | echoSent (l : Index) (free : laneFree s .line l = true) (bytes : List Byte) :
      Event s ((s.send .line l (.echo bytes)).setEcho l none)
  | responseSent (l : Index) (bytes : List Byte) (queue : List Entry) (taken : takeResponse l s.mga.queue = some (bytes, queue))
      (free : laneFree s .system l = true) :
      Event s { s.send .system l (.response bytes) with mga := { s.mga with queue := queue } }
  | requested (r : ControlRequest) (room : s.mga.queue.length < Config.requestEntries) :
      Event s { s with mga := { s.mga with queue := s.mga.queue ++ [{ request := r, state := .waiting }] } }
  | answered (r : ControlRequest) (a : Reply) : Event s (s.respond r a)
  | noticesRead (n : Nat) : Event s { s with notices := s.notices.drop n }
  | marks (inProgress readPending : Bool) (valid : readPending = true → inProgress = true) :
      Event s { s with ciu := { s.ciu with inProgress := inProgress, readPending := readPending } }
  | judged (bits : List Bool) (none : s.ciu.handed = []) : Event s (s.judgeRead bits)
  | taken (rest : List HandedEvent) (sub : rest.Sublist s.ciu.handed) : Event s { s with ciu := { s.ciu with handed := rest } }
  | classEntry (c : Fin 8) (D : Nat) (range : 3000 ≤ D ∧ D ≤ 8000) :
      Event s { s with cpt := { s.cpt with classD := Tab.set s.cpt.classD c D } }
  | profile (p : Fin 8) (new : Profile) (subset : new.degraded &&& ~~~new.verified = 0) :
      Event s { s with cpt := { s.cpt with profiles := Tab.set s.cpt.profiles p new } }
  | frameClass (table : Tab Action 16) (valid : kindMapHolds table = true) :
      Event s { s with fsu := { s.fsu with classTable := table } }
  | settings (x : Settings) (valid : SettingsValid x) : Event s { s with mga := { s.mga with settings := x } }
  | identity (chassis unit : Nat) (valid : chassis ≤ 4094 ∧ unit ≤ 14) :
      Event s { s with mga := { s.mga with identity := { chassis := chassis, unit := unit, assigned := true } } }
  | tick : Event s s.tick
  | ended {u : State} (m : Moves s u) (before : State) : Event s (u.endEvent before)

/-- Events, one after another. -/
def Events : State → State → Prop := Relation.ReflTransGen Event

theorem Events.refl {s : State} : Events s s := Relation.ReflTransGen.refl

theorem Events.single {s t : State} (e : Event s t) : Events s t := Relation.ReflTransGen.single e

theorem Events.trans {s t u : State} (a : Events s t) (b : Events t u) : Events s u := Relation.ReflTransGen.trans a b

/-- What every event keeps, events one after another keep. -/
theorem Events.keep {P : State → Prop} (each : ∀ s t, P s → Event s t → P t) {s t : State} (h : P s) (es : Events s t) : P t := by
  induction es with
  | refl => exact h
  | tail _ e ih => exact each _ _ ih e

end Sys2Proof.Machine
end

section
/-! Every command, and every step, is a sequence of whole events. -/

namespace Sys2Proof.Machine

/-! ## Parts that several commands share -/

/-- The frames and counters aside from the rest: a lane front. -/
theorem Events.setFront (s : State) (l : Index) (f : LaneFront → LaneFront) : Events s (s.setFront l f) :=
  .single (.aside (Tab.upd s.lfr l f) s.fsu.lineRx s.fsu.malformed s.psc.late s.sws s.ciu.timer s.ciu.elapsed)

theorem Events.setLineRx (s : State) (l : Index) (r : LineRx) : Events s (s.setLineRx l r) :=
  .single (.aside s.lfr (Tab.set s.fsu.lineRx l r) s.fsu.malformed s.psc.late s.sws s.ciu.timer s.ciu.elapsed)

theorem Events.countMalformed (s : State) : Events s s.countMalformed :=
  .single (.aside s.lfr s.fsu.lineRx (satInc s.fsu.malformed) s.psc.late s.sws s.ciu.timer s.ciu.elapsed)

theorem Events.countLate (s : State) : Events s s.countLate :=
  .single (.aside s.lfr s.fsu.lineRx s.fsu.malformed (satInc s.psc.late) s.sws s.ciu.timer s.ciu.elapsed)

theorem Events.setSws (s : State) (w : Sws) : Events s { s with sws := w } :=
  .single (.aside s.lfr s.fsu.lineRx s.fsu.malformed s.psc.late w s.ciu.timer s.ciu.elapsed)

theorem Events.setCiuTimes (s : State) (timer : Option Nat) (elapsed : Nat) :
    Events s { s with ciu := { s.ciu with timer := timer, elapsed := elapsed } } :=
  .single (.aside s.lfr s.fsu.lineRx s.fsu.malformed s.psc.late s.sws timer elapsed)

theorem Events.startStepTimer (s : State) : Events s s.startStepTimer := .setSws s _

theorem Events.startRead (s : State) : Events s s.startRead :=
  (Events.single (.marks true s.ciu.readPending fun _ => rfl)).trans (.setCiuTimes ..)

/-- A trigger of the chain read sets one of the two marks (R43). -/
theorem Events.triggerRead (s : State) : Events s s.triggerRead := by
  unfold State.triggerRead
  split
  · next busy => exact .single (.marks s.ciu.inProgress true fun _ => busy)
  · exact .startRead s

/-- What follows a read leaves none pending without one under way (R43). -/
theorem Events.afterRead (s : State) : Events s s.afterRead := by
  unfold State.afterRead
  split
  · exact (Events.single (.marks s.ciu.inProgress false fun x => absurd x (by decide))).trans (.startRead _)
  · next idle =>
    have marks := Events.single (.marks (s := s) false s.ciu.readPending fun busy => absurd busy idle)
    exact marks.trans (.setCiuTimes _ s.ciu.timer 0)

/-- A context takes a port change event (R49). -/
theorem Events.takePortChange (s : State) (e : HandedEvent) : Events s (s.takePortChange e) :=
  .single (.ended (ContextMoves.portChange ..).moves s)

theorem Events.takeFold (es : List HandedEvent) (s : State) : Events s (es.foldl State.takePortChange s) := by
  induction es generalizing s with
  | nil => exact .refl
  | cons e rest ih => exact (Events.takePortChange s e).trans (ih _)

theorem Events.takeWaiting (s : State) : Events s s.takeWaiting := by
  unfold State.takeWaiting
  split
  · exact .refl
  · next e rest handed =>
    exact (Events.single (.taken rest (handed ▸ List.sublist_cons_self e rest))).trans (.takePortChange _ e)

theorem Events.takeAllWaiting (s : State) : Events s s.takeAllWaiting :=
  (Events.single (.taken [] (List.nil_sublist _))).trans (.takeFold ..)

theorem Events.takeHanded (s : State) : Events s s.takeHanded :=
  (Events.single (.taken _ List.filter_sublist)).trans (.takeFold ..)

/-! ## Frames -/

/-- The gate's answer admits a frame only for a group whose gate is not CLOSED (R14). -/
theorem judge_open (s : State) (side : Side) (l : Index) (frame : Incoming) : (judge s side l frame).Open s := by
  unfold judge
  split
  · trivial
  · next g _ =>
    split
    · next admitted =>
      intro closed
      simp [closed, admits] at admitted
    · trivial

theorem Events.systemLead (s : State) (l : Index) (frame : Incoming) : Events s (s.systemLead l frame).arbitrate := by
  unfold State.systemLead
  have rx : ∀ r : SystemRx, r.Open s → Events s (s.setSystemRx l r) := fun r isOpen => .single (.frame (.systemRx l r isOpen))
  split
  · exact (rx (.awaitingTarget ..) (judge_open s ..)).trans (.single (.frame .arbitrated))
  · exact (rx .none trivial).trans (.single (.frame (.handled l _ (judge_open s ..))))
  all_goals exact (rx .none trivial).trans (.single (.frame .arbitrated))

theorem Events.lineLead (s : State) (l : Index) (frame : Incoming) : Events s (s.lineLead l frame).arbitrate := by
  unfold State.lineLead
  split
  case h_1 | h_2 => exact (Events.setLineRx s l .none).trans (.single (.frame (.handled l _ (judge_open s ..))))
  all_goals exact (Events.setLineRx s l _).trans (.single (.frame .arbitrated))

/-! ## Commands -/

theorem Events.of_unlessReset {s t : State} {f : State → State} (run : s.unlessReset f = .next t) (events : Events s (f s)) :
    Events s t := by
  unfold State.unlessReset at run
  cases run
  split
  · exact .refl
  · exact events

theorem Events.execResetRelease (s : State) {t : State} (run : execResetRelease s = .next t) : Events s t := by
  unfold Machine.execResetRelease at run
  cases run
  split
  · exact ((Events.single .released).trans (.triggerRead _)).trans (.startStepTimer _)
  · exact .refl

/-- A lane leaves LOCKED (R3). -/
theorem Events.loseLock (s : State) (l : Index) (into : RxState) : Events s (s.loseLock l into) :=
  ((Events.setFront s l _).trans (.setLineRx _ l .none)).trans (.single (.ended (.lossEvent ..) s))

theorem Events.settle (s : State) (before : State) {k : Fin 8} {g : Index} (i : Fin 4) (o : LaneOutcome)
    (own : (Tab.get s.psc.slots k).state.group = some g) : Events s ((s.settle k g i o).endEvent before) :=
  .single (.ended (ContextMoves.settle s i o own).moves before)

/-- The slot an echo matches holds a probe of the group it answers (R120). -/
theorem group_of_matchEcho {p : Psc} {k : Fin 8} {n : BitVec 5} {sendTime a : Time} {g : Index} {i : Fin 4} {raw : Nat}
    (found : matchEcho p k n sendTime a = some (g, i, raw)) : (Tab.get p.slots k).state.group = some g := by
  unfold matchEcho at found
  split at found
  · next slot =>
    split at found
    · cases found
      rw [slot]
      rfl
    · cases found
  · cases found

theorem Events.execProbeReceived (port : Fin 16) (lane : Fin 4) (rest : List Byte) (s : State) {t : State}
    (run : execProbeReceived port lane rest s = .next t) : Events s t := by
  refine .of_unlessReset run ?_
  split
  · have rx := Events.setLineRx s (cell port lane) .none
    dsimp only
    split
    · exact rx.trans (.countMalformed _)
    · exact rx.trans (.single (.ended ((Moves.single (.echo ..)).trans (.viewReport ..)) s))
  all_goals exact .refl

theorem Events.execEchoReceived (port : Fin 16) (lane : Fin 4) (rest : List Byte) (s : State) {t : State}
    (run : execEchoReceived port lane rest s = .next t) : Events s t := by
  refine .of_unlessReset run ?_
  split
  · have rx := Events.setLineRx s (cell port lane) .none
    dsimp only
    split
    · exact rx.trans (.countMalformed _)
    · split
      · exact rx.trans (.countLate _)
      · next found => exact rx.trans (.settle _ s _ _ (group_of_matchEcho found))
  all_goals exact .refl

theorem Events.execProbeDeadlineExpiry (k : Fin 8) (s : State) {t : State} (run : execProbeDeadlineExpiry k s = .next t) :
    Events s t := by
  refine .of_unlessReset run ?_
  split
  · next slot => exact .settle s s _ _ (by rw [slot]; rfl)
  all_goals exact .refl

theorem Events.execProbeDeparture (k : Fin 8) (s : State) {t : State} (run : execProbeDeparture k s = .next t) :
    Events s t := by
  refine .of_unlessReset run ?_
  split
  · next g i slot =>
    dsimp only
    split
    · next free => exact .single (.probeSent k g i slot (Bool.and_eq_true_iff.1 free).1 _ _)
    · exact .refl
  all_goals exact .refl

theorem Events.execEchoDeparture (port : Fin 16) (lane : Fin 4) (s : State) {t : State}
    (run : execEchoDeparture port lane s = .next t) : Events s t := by
  refine .of_unlessReset run ?_
  split
  · split
    · next free => exact .single (.echoSent _ free _)
    · exact .refl
  · exact .refl

theorem Events.execResponseDeparture (port : Fin 16) (lane : Fin 4) (s : State) {t : State}
    (run : execResponseDeparture port lane s = .next t) : Events s t := by
  refine .of_unlessReset run ?_
  split
  · next taken =>
    split
    · next free => exact .single (.responseSent _ _ _ taken free)
    · exact .refl
  · exact .refl

theorem Events.execControlRequestReceived (port : Fin 16) (lane : Fin 4) (rest : List Byte) (s : State) {t : State}
    (run : execControlRequestReceived port lane rest s = .next t) : Events s t := by
  refine .of_unlessReset run ?_
  split
  · have rx : Events s (s.setSystemRx (cell port lane) .none) := .single (.frame (.systemRx _ _ trivial))
    dsimp only
    split
    · exact rx.trans (.countMalformed _)
    · split
      · next room => exact rx.trans (.single (.requested _ room))
      · exact rx
  all_goals exact .refl

theorem Events.execLeadWordArrival (side : Side) (port : Fin 16) (lane : Fin 4) (frame : Incoming) (s : State) {t : State}
    (run : execLeadWordArrival side port lane frame s = .next t) : Events s t := by
  refine .of_unlessReset run ?_
  cases side with
  | system => exact .systemLead ..
  | line =>
    dsimp only
    split
    · exact .lineLead ..
    · exact .refl

theorem Events.execShortFrameDiscard (side : Side) (port : Fin 16) (lane : Fin 4) (s : State) {t : State}
    (run : execShortFrameDiscard side port lane s = .next t) : Events s t := by
  refine .of_unlessReset run ?_
  cases side with
  | system => exact (Events.single (.frame (.systemRx _ .none trivial))).trans (.countMalformed _)
  | line =>
    dsimp only
    split
    · exact (Events.setLineRx ..).trans (.countMalformed _)
    · exact .refl

theorem Events.execDeskewHoldExpiry (port : Fin 16) (lane : Fin 4) (s : State) {t : State}
    (run : execDeskewHoldExpiry port lane s = .next t) : Events s t := by
  refine .of_unlessReset run ?_
  split
  · exact .refl
  · next held => exact .single (.frame (.holdEnded _ _ _ held))

theorem Events.execTargetFieldsArrival (port : Fin 16) (lane : Fin 4) (target : BitVec 16) (s : State) {t : State}
    (run : execTargetFieldsArrival port lane target s = .next t) : Events s t := by
  refine .of_unlessReset run ?_
  split
  · next waits =>
    split
    · exact .single (.frame (.systemRx _ _ trivial))
    · exact .single (.frame (.unaddressed _ _ _ waits))
  all_goals exact .refl

/-! ## Timers and the chain -/

theorem planned_of_state {s : State} {g : Index} {st : GroupState} (h : (s.ctx g).state = st) (planned : st ≠ .unplanned) :
    (s.ctx g).state ≠ .unplanned := h ▸ planned

theorem Events.execLockTimerExpiry (g : Index) (s : State) {t : State} (run : execLockTimerExpiry g s = .next t) :
    Events s t := by
  refine .of_unlessReset run ?_
  split
  · next due =>
    have started : Started s g := due.2.elim (fun st => .of_state st (by decide)) fun st => .of_state st (by decide)
    exact .single (.ended (ContextMoves.quarantine started _).moves s)
  · exact .refl

theorem Events.execAgreementTimerExpiry (g : Index) (s : State) {t : State} (run : execAgreementTimerExpiry g s = .next t) :
    Events s t := by
  refine .of_unlessReset run ?_
  split
  · next due => exact .single (.ended (ContextMoves.quarantine (.of_state due.2 (by decide)) _).moves s)
  · exact .refl

theorem Events.execRetryTimerExpiry (g : Index) (s : State) {t : State} (run : execRetryTimerExpiry g s = .next t) :
    Events s t := by
  refine .of_unlessReset run ?_
  split
  · next due => exact .single (.ended (ContextMoves.applyStart (by rw [due.2]; decide)).moves s)
  · exact .refl

theorem Events.execAgreementPollExpiry (g : Index) (s : State) {t : State} (run : execAgreementPollExpiry g s = .next t) :
    Events s t := by
  refine .of_unlessReset run ?_
  split
  · exact .single (.ended ((ContextMoves.post ..).tail (.context _ rfl rfl rfl)).moves s)
  · exact .refl

theorem Events.execSweepStep (s : State) {t : State} (run : execSweepStep s = .next t) : Events s t := by
  refine .of_unlessReset run ?_
  split
  · exact .refl
  · dsimp only
    have swept := (Events.setSws s (sweepSearch (sweepEligible s) 64 s.sws).1).trans (.startStepTimer _)
    split
    · exact swept.trans (.single (.ended (ContextMoves.post ..).moves s))
    · exact swept

theorem Events.execInventoryIntervalExpiry (s : State) {t : State} (run : execInventoryIntervalExpiry s = .next t) :
    Events s t := by
  refine .of_unlessReset run ?_
  split
  · exact (Events.setCiuTimes s none s.ciu.elapsed).trans (.triggerRead _)
  · exact .refl

theorem Events.execChainReadEnd (bits : List Bool) (s : State) {t : State} (run : execChainReadEnd bits s = .next t) :
    Events s t := by
  unfold Machine.execChainReadEnd at run
  split at run
  · refine .of_unlessReset run ?_
    split
    · have none : s.takeAllWaiting.ciu.handed = [] := by rw [ciu_takeAllWaiting]
      exact (((Events.takeAllWaiting s).trans (.single (.judged bits none))).trans (.afterRead _)).trans (.takeHanded _)
    · exact .refl
  · cases run

theorem Events.execFrameUnderWayEnd (side : Side) (port : Fin 16) (lane : Fin 4) (abortMark : Bool) (s : State) {t : State}
    (run : execFrameUnderWayEnd side port lane abortMark s = .next t) : Events s t :=
  .of_unlessReset run (.single (.frame (.frameEnded ..)))

theorem Events.execSignalDetected (port : Fin 16) (lane : Fin 4) (s : State) {t : State}
    (run : execSignalDetected port lane s = .next t) : Events s t := by
  refine .of_unlessReset run ?_
  split
  · exact .setFront ..
  · exact .refl

theorem Events.execSignalLost (port : Fin 16) (lane : Fin 4) (s : State) {t : State}
    (run : execSignalLost port lane s = .next t) : Events s t := by
  refine .of_unlessReset run ?_
  split
  · exact .refl
  · exact .setFront ..
  · exact .loseLock ..

theorem Events.execLockAchieved (port : Fin 16) (lane : Fin 4) (inverted : Bool) (s : State) {t : State}
    (run : execLockAchieved port lane inverted s = .next t) : Events s t := by
  refine .of_unlessReset run ?_
  split
  · exact (Events.setFront ..).trans (.single (.ended (.lockEvent ..) s))
  · exact .refl

theorem Events.execLockLost (port : Fin 16) (lane : Fin 4) (s : State) {t : State}
    (run : execLockLost port lane s = .next t) : Events s t := by
  refine .of_unlessReset run ?_
  split
  · exact .loseLock ..
  · exact .refl

/-! ## Management -/

/-- A command whose body is a sequence of events is one, with its answer. -/
theorem Events.execute {s t : State} {mine : ControlRequest → Bool} {c : Command} (body : ∀ args, Events s (c.body args s).1)
    (run : s.execute mine c = .next t) : Events s t := by
  refine .of_unlessReset run ?_
  split
  · split
    · refine Events.trans ?_ (.single (.answered ..))
      unfold Command.run
      split
      · exact body _
      · exact .refl
    · exact .refl
  · exact .refl

theorem Events.execUnknownCommand (s : State) {t : State} (run : execUnknownCommand s = .next t) : Events s t := by
  refine .of_unlessReset run ?_
  split
  · split
    · exact .refl
    · exact .single (.answered ..)
  · exact .refl

theorem Events.setIdentity (args : List Byte) (s : State) : Events s (setIdentityCommand.body args s).1 := by
  unfold setIdentityCommand
  dsimp only
  split
  · exact .refl
  · next range =>
    rw [not_or, Nat.not_lt, Nat.not_lt] at range
    unfold State.storeIdentity
    refine Events.trans (.single (.identity _ _ range)) (.single (.ended ?_ s))
    dsimp only
    split
    · exact .refl
    · exact .fold (fun t g => (ContextMoves.contextIdentity t g).moves) _ _

theorem Events.writePlan (args : List Byte) (s : State) : Events s (writePlanCommand.body args s).1 := by
  unfold writePlanCommand
  dsimp only
  split
  · exact .refl
  · split
    · exact .refl
    · next valid => exact .single (.ended (.acceptEntry valid) s)

theorem clamp_range {lo hi : Nat} (h : lo ≤ hi) (x : Nat) : lo ≤ clamp lo hi x ∧ clamp lo hi x ≤ hi := by
  rw [clamp_eq _ _ _ h]
  omega

theorem Events.writeClass (args : List Byte) (s : State) : Events s (writeClassCommand.body args s).1 := by
  unfold writeClassCommand
  dsimp only
  split
  · exact .refl
  · exact .single (.classEntry _ _ (clamp_range (by decide) _))

theorem Events.writeProfile (args : List Byte) (s : State) : Events s (writeProfileCommand.body args s).1 := by
  unfold writeProfileCommand
  dsimp only
  split
  · exact .refl
  · split
    · exact .refl
    · next subset => exact .single (.profile _ _ (not_not.1 subset))

theorem Events.writeFrameClass (args : List Byte) (s : State) : Events s (writeFrameClassCommand.body args s).1 := by
  unfold writeFrameClassCommand
  dsimp only
  split
  · exact .refl
  · next valid => exact .single (.frameClass _ (Option.filter_eq_some_iff.1 valid).2)

/-- What is read from the arguments of WRITE SETTINGS is clamped into range (R188). -/
theorem settingsValid_readSettingsBytes (args : List Byte) : SettingsValid (readSettingsBytes args) where
  probeTimeout := clamp_range (by decide) _
  rounds := clamp_range (by decide) _
  smoothing := (clamp_range (Nat.zero_le 7) _).2
  pathOffset := (clamp_range (Nat.zero_le 1023) _).2
  lockTimeout := clamp_range (by decide) _
  agreementTimeout := clamp_range (by decide) _
  sweepInterval := clamp_range (by decide) _
  hysteresis := clamp_range (by decide) _
  inventoryInterval := clamp_range (by decide) _

theorem Events.writeSettings (args : List Byte) (s : State) : Events s (writeSettingsCommand.body args s).1 :=
  .single (.settings _ (settingsValid_readSettingsBytes args))

theorem Events.groupAction (a : GroupAction) (args : List Byte) (s : State) : Events s ((groupActionCommand a).body args s).1 := by
  unfold groupActionCommand
  dsimp only
  split
  · exact .refl
  · split
    · exact .refl
    · split
      · exact .single (.ended (ContextMoves.groupAction ..).moves s)
      · exact .single (.ended (.applyAll ..) s)

theorem Events.sweepControl (args : List Byte) (s : State) : Events s (sweepControlCommand.body args s).1 := by
  unfold sweepControlCommand
  dsimp only
  split
  · exact .refl
  · split
    · exact .refl
    · exact .setSws s _

theorem Events.softReset (args : List Byte) (s : State) : Events s (softResetCommand.body args s).1 := by
  unfold softResetCommand
  exact .single .softReset

/-- A command that only reads has no event but its answer. -/
theorem Events.executeRead {s t : State} {mine : ControlRequest → Bool} {c : Command} (same : ∀ args, (c.body args s).1 = s)
    (run : s.execute mine c = .next t) : Events s t :=
  .execute (fun args => by rw [same]; exact .refl) run

/-- A command that looks up an index and only answers changes nothing. -/
theorem body_readPlan (args : List Byte) (s : State) : (readPlanCommand.body args s).1 = s := by
  unfold readPlanCommand
  dsimp only
  split <;> rfl

theorem body_readClass (args : List Byte) (s : State) : (readClassCommand.body args s).1 = s := by
  unfold readClassCommand
  dsimp only
  split <;> rfl

theorem body_readProfile (args : List Byte) (s : State) : (readProfileCommand.body args s).1 = s := by
  unfold readProfileCommand
  dsimp only
  split <;> rfl

theorem body_readGroup (args : List Byte) (s : State) : (readGroupCommand.body args s).1 = s := by
  unfold readGroupCommand
  dsimp only
  split <;> rfl

/-! ## Every command and every step -/

/-- Every command is a sequence of whole events. -/
theorem exec_events (c : Instr) {s t : State} (run : exec c s = .next t) : Events s t := by
  cases c with
  | resetAssert => cases run; exact .single .hardReset
  | resetRelease => exact .execResetRelease s run
  | signalDetected p j => exact .execSignalDetected p j s run
  | signalLost p j => exact .execSignalLost p j s run
  | lockAchieved p j inverted => exact .execLockAchieved p j inverted s run
  | lockLost p j => exact .execLockLost p j s run
  | leadWordArrival d p j frame => exact .execLeadWordArrival d p j frame s run
  | shortFrameDiscard d p j => exact .execShortFrameDiscard d p j s run
  | deskewHoldExpiry p j => exact .execDeskewHoldExpiry p j s run
  | probeReceived p j rest => exact .execProbeReceived p j rest s run
  | echoReceived p j rest => exact .execEchoReceived p j rest s run
  | probeDeadlineExpiry k => exact .execProbeDeadlineExpiry k s run
  | probeDeparture k => exact .execProbeDeparture k s run
  | echoDeparture p j => exact .execEchoDeparture p j s run
  | responseDeparture p j => exact .execResponseDeparture p j s run
  | controlRequestReceived p j rest => exact .execControlRequestReceived p j rest s run
  | palertRise => exact .of_unlessReset run (.triggerRead s)
  | inventoryIntervalExpiry => exact .execInventoryIntervalExpiry s run
  | chainReadEnd bits => exact .execChainReadEnd bits s run
  | lockTimerExpiry g => exact .execLockTimerExpiry g s run
  | agreementTimerExpiry g => exact .execAgreementTimerExpiry g s run
  | retryTimerExpiry g => exact .execRetryTimerExpiry g s run
  | agreementPollExpiry g => exact .execAgreementPollExpiry g s run
  | sweepStep => exact .execSweepStep s run
  | unknownCommand => exact .execUnknownCommand s run
  | readIdentity => exact .executeRead (fun _ => rfl) run
  | setIdentity => exact .execute (fun args => .setIdentity args s) run
  | writePlanEntry => exact .execute (fun args => .writePlan args s) run
  | readPlanEntry => exact .executeRead (fun args => body_readPlan args s) run
  | writeClassEntry => exact .execute (fun args => .writeClass args s) run
  | readClassEntry => exact .executeRead (fun args => body_readClass args s) run
  | writeProfile => exact .execute (fun args => .writeProfile args s) run
  | readProfile => exact .executeRead (fun args => body_readProfile args s) run
  | writeFrameClass => exact .execute (fun args => .writeFrameClass args s) run
  | readFrameClass => exact .executeRead (fun _ => rfl) run
  | writeSettings => exact .execute (fun args => .writeSettings args s) run
  | readSettings => exact .executeRead (fun _ => rfl) run
  | readGroup => exact .executeRead (fun args => body_readGroup args s) run
  | readInventory => exact .executeRead (fun _ => rfl) run
  | readNotices => exact .execute (fun _ => .single (.noticesRead _)) run
  | readCounters => exact .executeRead (fun _ => rfl) run
  | groupActionHold => exact .execute (fun args => .groupAction .hold args s) run
  | groupActionResume => exact .execute (fun args => .groupAction .resume args s) run
  | groupActionRecheck => exact .execute (fun args => .groupAction .recheck args s) run
  | sweepControl => exact .execute (fun args => .sweepControl args s) run
  | softReset => exact .execute (fun args => .softReset args s) run
  | frameUnderWayEnd d p j abortMark => exact .execFrameUnderWayEnd d p j abortMark s run
  | targetFieldsArrival p j target => exact .execTargetFieldsArrival p j target s run

/-- What an own event does is a sequence of whole events. -/
theorem own_events (e : OwnEvent) {s t : State} (run : e.run s = .next t) : Events s t := by
  cases e with
  | row c => exact exec_events c run
  | portChange => cases run; exact .takeWaiting s

/-- Every step is a sequence of whole events, after the queue of commands or the counter of log 2 has moved on. -/
theorem step_events {s t : State} (run : step s = .next t) :
    ∃ queue turn, Events { s with pending := queue, turn := turn } t := by
  unfold step at run
  split at run
  · next rest _ => exact ⟨rest, s.turn, exec_events _ run⟩
  · split at run
    · next own =>
      unfold nextOwn at own
      split at own
      · cases own
      · cases own
        exact ⟨s.pending, s.turn, own_events _ run⟩
      · cases own
        exact ⟨s.pending, s.turn + 1, own_events _ run⟩
    · cases run
      exact ⟨s.pending, s.turn, .single .tick⟩

/-- A property that does not look at the queue of commands or at the counter of log 2, and that every event keeps, is an invariant. -/
theorem step_keeps {P : State → Prop} (own : ∀ s queue turn, P s → P { s with pending := queue, turn := turn })
    (each : ∀ s t, P s → Event s t → P t) {s t : State} (h : P s) (run : step s = .next t) : P t := by
  obtain ⟨queue, turn, events⟩ := step_events run
  exact events.keep each (own s queue turn h)

end Sys2Proof.Machine
end

section
/-! The frames of whole events: what the events of data frames, a soft reset and the changes within an event leave alone. -/

namespace Sys2Proof.Machine

/-! ## Data frames -/

/-- From s to t only frames on their way have changed: in reception on the system side, in holds and on transmit lanes; and the
fenced-frame counters. -/
structure FramesOnly (s t : State) : Prop where
  only : ∃ f, t = { s with fsu := f }
  classTable : t.fsu.classTable = s.fsu.classTable
  malformed : t.fsu.malformed = s.fsu.malformed
  lineRx : t.fsu.lineRx = s.fsu.lineRx
  path : ∀ g, ∃ n, t.path g = { s.path g with fenced := n }

theorem FramesOnly.refl (s : State) : FramesOnly s s := ⟨⟨_, rfl⟩, rfl, rfl, rfl, fun _ => ⟨_, rfl⟩⟩

theorem FramesOnly.trans {s t u : State} (a : FramesOnly s t) (b : FramesOnly t u) : FramesOnly s u where
  only := by
    obtain ⟨f, rfl⟩ := a.only
    obtain ⟨f', rfl⟩ := b.only
    exact ⟨f', rfl⟩
  classTable := b.classTable.trans a.classTable
  malformed := b.malformed.trans a.malformed
  lineRx := b.lineRx.trans a.lineRx
  path g := by
    obtain ⟨n, e⟩ := a.path g
    obtain ⟨n', e'⟩ := b.path g
    exact ⟨n', by rw [e', e]⟩

theorem FramesOnly.blocks {s t : State} (h : FramesOnly s t) : BlocksKept s t := by
  obtain ⟨f, rfl⟩ := h.only
  exact ⟨rfl, h.classTable, h.malformed, rfl, rfl, rfl, rfl, rfl, rfl, rfl⟩

theorem FramesOnly.gate {s t : State} (h : FramesOnly s t) (g : Index) : (t.path g).gate = (s.path g).gate := by
  obtain ⟨n, e⟩ := h.path g
  rw [e]

theorem FramesOnly.buc {s t : State} (h : FramesOnly s t) : t.buc = s.buc := by
  obtain ⟨f, rfl⟩ := h.only
  rfl

theorem FramesOnly.psc {s t : State} (h : FramesOnly s t) : t.psc = s.psc := by
  obtain ⟨f, rfl⟩ := h.only
  rfl

theorem FramesOnly.notices {s t : State} (h : FramesOnly s t) : t.notices = s.notices := by
  obtain ⟨f, rfl⟩ := h.only
  rfl

theorem FramesOnly.setSystemRx (s : State) (l : Index) (r : SystemRx) : FramesOnly s (s.setSystemRx l r) :=
  ⟨⟨_, rfl⟩, rfl, rfl, rfl, fun _ => ⟨_, rfl⟩⟩

theorem FramesOnly.setHolds (s : State) (l : Index) (h : List HeldFrame) : FramesOnly s (s.setHolds l h) :=
  ⟨⟨_, rfl⟩, rfl, rfl, rfl, fun _ => ⟨_, rfl⟩⟩

theorem FramesOnly.modTx (s : State) (side : Side) (l : Index) (f : TxLane → TxLane) : FramesOnly s (s.modTx side l f) := by
  cases side <;> exact ⟨⟨_, rfl⟩, rfl, rfl, rfl, fun _ => ⟨_, rfl⟩⟩

theorem FramesOnly.arbitrate (s : State) : FramesOnly s s.arbitrate where
  only := by
    unfold State.arbitrate
    exact ⟨_, rfl⟩
  classTable := fsu_classTable_arbitrate s
  malformed := fsu_malformed_arbitrate s
  lineRx := fsu_lineRx_arbitrate s
  path g := ⟨(s.path g).fenced, path_arbitrate s g⟩

theorem FramesOnly.countFenced (s : State) (g : Index) (n : Nat) : FramesOnly s (s.countFenced g n) where
  only := ⟨_, rfl⟩
  classTable := rfl
  malformed := rfl
  lineRx := rfl
  path h := by
    by_cases e : h = g
    · subst e
      exact ⟨_, path_countFenced ..⟩
    · exact ⟨_, path_countFenced_ne _ _ e⟩

theorem FramesOnly.handle (s : State) (l : Index) (j : Judgement) : FramesOnly s (s.handle l j) := by
  unfold State.handle
  split
  · exact .countFenced ..
  · split
    · exact .modTx ..
    · exact .setHolds ..

theorem FrameEvent.only {s t : State} (e : FrameEvent s t) : FramesOnly s t := by
  cases e with
  | systemRx => exact .setSystemRx ..
  | arbitrated => exact .arbitrate s
  | handled => exact (FramesOnly.handle ..).trans (.arbitrate _)
  | unaddressed => exact ((FramesOnly.setSystemRx ..).trans (.handle ..)).trans (.arbitrate _)
  | holdEnded => exact ((FramesOnly.setHolds ..).trans (.modTx ..)).trans (.arbitrate _)
  | frameEnded => exact (FramesOnly.modTx ..).trans (.arbitrate _)

/-! ## Within an event -/

theorem Moves.keep {P : State → Prop} (each : ∀ s t, P s → Move s t → P t) {s t : State} (h : P s) (m : Moves s t) : P t := by
  induction m with
  | refl => exact h
  | tail _ e ih => exact each _ _ ih e

theorem ContextMoves.keep {P : State → Prop} {g : Index} (each : ∀ s t, P s → ContextMove g s t → P t) {s t : State} (h : P s)
    (m : ContextMoves g s t) : P t := by
  induction m with
  | refl => exact h
  | tail _ e ih => exact each _ _ ih e

theorem BlocksKept.lockView (s : State) (l : Index) (v : LockView) : BlocksKept s (s.setLockView l v) :=
  ⟨rfl, rfl, rfl, rfl, rfl, rfl, rfl, rfl, rfl, rfl⟩

theorem BlocksKept.setEcho (s : State) (l : Index) (e : Option EchoSlot) : BlocksKept s (s.setEcho l e) :=
  ⟨rfl, rfl, rfl, rfl, rfl, rfl, rfl, rfl, rfl, rfl⟩

theorem BlocksKept.endEvent (s before : State) : BlocksKept s (s.endEvent before) := by
  obtain ⟨_, _, _, _, _, _, _, blocks, _⟩ := endEvent_rest s before
  exact blocks

/-! ## Soft reset -/

@[simp] theorem cpt_clearForSoftReset (s : State) : s.clearForSoftReset.cpt = s.cpt := by
  unfold State.clearForSoftReset
  rfl

@[simp] theorem mga_clearForSoftReset (s : State) : s.clearForSoftReset.mga = s.mga := by
  unfold State.clearForSoftReset
  rfl

@[simp] theorem pending_clearForSoftReset (s : State) : s.clearForSoftReset.pending = s.pending := by
  unfold State.clearForSoftReset
  rfl

@[simp] theorem notices_clearForSoftReset (s : State) : s.clearForSoftReset.notices = [] := by
  unfold State.clearForSoftReset
  rfl

@[simp] theorem ciu_clearForSoftReset (s : State) :
    s.clearForSoftReset.ciu = { s.ciu with inProgress := false, readPending := false, handed := [] } := by
  unfold State.clearForSoftReset
  rfl

@[simp] theorem classTable_clearForSoftReset (s : State) : s.clearForSoftReset.fsu.classTable = s.fsu.classTable := by
  unfold State.clearForSoftReset Fsu.softReset Fsu.cut
  rfl

@[simp] theorem path_clearForSoftReset (s : State) (g : Index) : s.clearForSoftReset.path g = (s.path g).softReset := by
  unfold State.path State.clearForSoftReset Fsu.softReset
  exact Tab.get_map ..

@[simp] theorem ctx_clearForSoftReset (s : State) (g : Index) : s.clearForSoftReset.ctx g = Context.reset := by
  unfold State.ctx State.clearForSoftReset
  exact Tab.get_fill ..

/-- The contexts rebuilt one after another from the cleared blocks (R82). -/
def rebuilt (s : State) : State := indices.foldl State.rebuildContext s.clearForSoftReset

theorem EventAt.rebuildContext (s : State) (g : Index) : EventAt g s (s.rebuildContext g) := by
  unfold State.rebuildContext
  split
  · exact .bindAndStart ..
  · exact .refl ..

theorem blocks_rebuilt (s : State) : BlocksKept s.clearForSoftReset (rebuilt s) := (fold_blocks EventAt.rebuildContext _ _).1

/-- A soft reset after the contexts are rebuilt: notices, a read, the step timer, the grants and the transmit arbiters (R82, R195). -/
theorem softReset_eq (s : State) :
    s.softReset = ((rebuilt s).postEnabledGroups.startRead.startStepTimer.grant).arbitrate := rfl

theorem postEnabledGroups_only (s : State) : ∃ q, s.postEnabledGroups = { s with notices := q } := by
  have key : ∀ (is : List Index) (t : State), (∃ q, t = { s with notices := q }) →
      ∃ q, is.foldl (fun t g => if (s.entry g).enabled then t.postGroup g else t) t = { s with notices := q } := by
    intro is
    induction is with
    | nil => exact fun t h => h
    | cons g rest ih =>
      rintro t ⟨q, rfl⟩
      refine ih _ ?_
      dsimp only
      split <;> exact ⟨_, rfl⟩
  exact key indices s ⟨_, rfl⟩

/-- What a soft reset leaves of the part whose contexts are rebuilt. -/
structure SoftResetKept (r t : State) : Prop where
  ctx : ∀ g, t.ctx g = r.ctx g
  path : ∀ g, t.path g = r.path g
  cpt : t.cpt = r.cpt
  classTable : t.fsu.classTable = r.fsu.classTable
  systemRx : t.fsu.systemRx = r.fsu.systemRx
  holds : t.fsu.holds = r.fsu.holds
  content : ∀ side l, (Tab.get (t.tx side) l).content = (Tab.get (r.tx side) l).content
  records : t.ciu.records = r.ciu.records
  marks : t.ciu.inProgress = true
  handed : t.ciu.handed = r.ciu.handed
  psc : t.psc = r.grant.psc
  mga : t.mga = r.mga
  turn : t.turn = r.turn
  pending : t.pending = r.pending
  notices : t.notices = r.postEnabledGroups.notices

theorem softReset_kept (s : State) : SoftResetKept (rebuilt s) s.softReset := by
  rw [softReset_eq]
  generalize rebuilt s = r
  obtain ⟨q, e⟩ := postEnabledGroups_only r
  rw [e]
  exact
    { ctx := fun g => ctx_arbitrate _ g
      path := fun g => path_arbitrate _ g
      cpt := cpt_arbitrate _
      classTable := fsu_classTable_arbitrate _
      systemRx := fsu_systemRx_arbitrate _
      holds := fsu_holds_arbitrate _
      content := fun side l => by
        rw [tx_arbitrate, TxLane.content_takeData]
        cases side <;> rfl
      records := by rw [ciu_arbitrate]; rfl
      marks := by rw [ciu_arbitrate]; rfl
      handed := by rw [ciu_arbitrate]; rfl
      psc := psc_arbitrate _
      mga := mga_arbitrate _
      turn := turn_arbitrate _
      pending := pending_arbitrate _
      notices := by rw [e]; exact notices_arbitrate _ }

/-! ## Plan writes -/

theorem entry_storeEntry_same (s : State) (g : Index) (e : PlanEntry) : (s.storeEntry g e).entry g = e := Tab.get_set_same ..

theorem entry_storeEntry_ne (s : State) {g h : Index} (e : PlanEntry) (ne : h ≠ g) : (s.storeEntry g e).entry h = s.entry h :=
  Tab.get_set_ne _ _ ne

/-- What the tests of R23 and R24 let into the plan at index g. -/
structure EntryValid (plan : Tab PlanEntry 64) (g : Index) (e : PlanEntry) : Prop where
  aligned : (laneOf g).val % e.fields.width.lanes = 0 ∧ e.fields.farFirstLane ≤ 3
    ∧ e.fields.farFirstLane % e.fields.width.lanes = 0
  apart : e.enabled = true → overlaps plan g e.fields.width = false
  farEnd : e.fields.farChassis ≤ 4094 ∧ e.fields.farUnit ≤ 14 ∧ e.fields.farPort ≤ 15
  classes : e.fields.allowed ≠ 0
  window : e.fields.lengthMin ≤ e.fields.lengthMax
  skew : e.fields.skewLimit ≤ 63
  width : (Tab.get plan g).enabled = true → e.enabled = true → (Tab.get plan g).fields.width = e.fields.width

theorem lanes_widthOf {n : Nat} {w : Width} (h : widthOf n = some w) : w.lanes = n := by
  unfold widthOf at h
  split at h <;> cases h <;> rfl

theorem entryValid_of_validateEntry {plan : Tab PlanEntry 64} {g : Index} {w : WrittenEntry} {e : PlanEntry}
    (valid : validateEntry plan g w = .ok e) : EntryValid plan g e := by
  unfold validateEntry at valid
  split at valid
  · cases valid
  · next width written =>
    split_ifs at valid with align overlap farEnd classes window skew profile locked
    cases valid
    have lanes := lanes_widthOf written
    have apart : w.enabled = true → overlaps plan g width = false := by simpa using overlap
    have same : (Tab.get plan g).enabled = true → w.enabled = true → (Tab.get plan g).fields.width = width := by
      simpa using locked
    exact
      { aligned := by show _ % width.lanes = 0 ∧ _ ∧ _ % width.lanes = 0; rw [lanes]; simp only [WrittenEntry.fields]; omega
        apart := apart
        farEnd := by simp only [WrittenEntry.fields]; omega
        classes := classes
        window := Nat.not_lt.1 window
        skew := Nat.not_lt.1 skew
        width := same }

end Sys2Proof.Machine
end

section
/-! The stored tables, settings and identity through every event (R8, R23, R24, R32, R36, R186, R188). -/

namespace Sys2Proof.Machine

theorem TablesValid.congr {s t : State} (h : TablesValid s) (cpt : t.cpt = s.cpt) (classTable : t.fsu.classTable = s.fsu.classTable)
    (settings : t.mga.settings = s.mga.settings) (identity : t.mga.identity = s.mga.identity) : TablesValid t := by
  have entry : ∀ g, t.entry g = s.entry g := fun g => by unfold State.entry; rw [cpt]
  constructor
  all_goals simp only [entry, cpt, classTable, settings, identity]
  exacts [h.classD, h.profiles, h.aligned, h.farEnds, h.classes, h.windows, h.skews, h.disjoint, h.kinds, h.probeTimeout, h.rounds,
    h.smoothing, h.pathOffset, h.lockTimeout, h.agreementTimeout, h.sweepInterval, h.hysteresis, h.inventoryInterval, h.assigned,
    h.unassigned]

theorem TablesValid.blocks {s t : State} (h : TablesValid s) (kept : BlocksKept s t) : TablesValid t :=
  h.congr kept.cpt kept.classTable (by rw [kept.mga]) (by rw [kept.mga])

/-- No lane is covered by an entry that passed the test for OVERLAP and by another enabled one (R24). -/
theorem apart_of_overlaps {plan : Tab PlanEntry 64} {g h : Index} {w : Width} {l : Index} (apart : overlaps plan g w = false)
    (ne : h ≠ g) (enabled : (Tab.get plan h).enabled = true) (covered : covers g w l = true) :
    covers h (Tab.get plan h).fields.width l = false := by
  unfold overlaps at apart
  rw [List.any_eq_false] at apart
  have none := apart h (mem_indices h)
  simp only [enabled, Bool.and_true, Bool.and_eq_true, bne_iff_ne, ne_eq, ne, not_false_eq_true, true_and] at none
  rw [Bool.not_eq_true, List.any_eq_false] at none
  simpa [covered] using none l (mem_indices l)

/-- A stored entry that has passed the tests keeps the plan valid (R23, R24). -/
theorem TablesValid.storeEntry {s : State} (h : TablesValid s) {g : Index} {e : PlanEntry} (valid : EntryValid s.cpt.plan g e) :
    TablesValid (s.storeEntry g e) := by
  have each : ∀ {P : Index → PlanEntry → Prop}, (∀ k, P k (s.entry k)) → P g e → ∀ k, P k ((s.storeEntry g e).entry k) := by
    intro P old new k
    by_cases at_g : k = g
    · subst at_g
      rw [entry_storeEntry_same]
      exact new
    · rw [entry_storeEntry_ne s e at_g]
      exact old k
  have apart : ∀ k l, k ≠ g → e.enabled = true → (s.entry k).enabled = true → covers g e.fields.width l = true →
      covers k (s.entry k).fields.width l = true → False := fun k l ne on on' here there => by
    have clear := apart_of_overlaps (valid.apart on) ne on' here
    exact Bool.false_ne_true (clear.symm.trans there)
  exact
    { h with
      aligned := each (P := fun k x => (laneOf k).val % x.fields.width.lanes = 0 ∧ x.fields.farFirstLane ≤ 3
        ∧ x.fields.farFirstLane % x.fields.width.lanes = 0) h.aligned valid.aligned
      farEnds := each (P := fun _ x => x.fields.farChassis ≤ 4094 ∧ x.fields.farUnit ≤ 14 ∧ x.fields.farPort ≤ 15) h.farEnds
        valid.farEnd
      classes := each (P := fun _ x => x.fields.allowed ≠ 0) h.classes valid.classes
      windows := each (P := fun _ x => x.fields.lengthMin ≤ x.fields.lengthMax) h.windows valid.window
      skews := each (P := fun _ x => x.fields.skewLimit ≤ 63) h.skews valid.skew
      disjoint := fun a b l => by
        by_cases ea : a = g <;> by_cases eb : b = g
        · exact fun _ _ _ _ => ea.trans eb.symm
        · subst ea
          rw [entry_storeEntry_same, entry_storeEntry_ne s e eb]
          exact fun on on' here there => (apart b l eb on on' here there).elim
        · subst eb
          rw [entry_storeEntry_same, entry_storeEntry_ne s e ea]
          exact fun on' on there here => (apart a l ea on on' here there).elim
        · rw [entry_storeEntry_ne s e ea, entry_storeEntry_ne s e eb]
          exact h.disjoint a b l }

theorem TablesValid.recomputeUnplanned {s : State} (h : TablesValid s) (p : Fin 16) : TablesValid (s.recomputeUnplanned p) := by
  have kept := (recomputeUnplanned_kept s p).1
  exact h.congr kept.cpt kept.classTable (by rw [kept.mga]) (by rw [kept.mga])

theorem TablesValid.move {s t : State} (h : TablesValid s) (m : Move s t) : TablesValid t := by
  cases m with
  | context m => exact h.blocks m.eventAt.blocks
  | lockView l v => exact h.blocks (.lockView s l v)
  | echo l e => exact h.blocks (.setEcho s l e)
  | enabled g e w valid off on =>
    have stored := (h.storeEntry (entryValid_of_validateEntry valid)).recomputeUnplanned (portOf g)
    exact stored.blocks ((EventAt.modCtx ..).trans (.enter ..)).blocks
  | disabled g e w valid on off =>
    have stored := (h.storeEntry (entryValid_of_validateEntry valid)).recomputeUnplanned (portOf g)
    exact stored.blocks (EventAt.disableContext ..).blocks
  | rewritten g e w valid same => exact h.storeEntry (entryValid_of_validateEntry valid)

theorem tablesValid_heldInReset : TablesValid State.heldInReset where
  classD := by decide
  profiles := by decide
  aligned := by decide
  farEnds := by decide
  classes := by decide
  windows := by decide
  skews := by decide
  disjoint g h l on := by
    have off : ∀ g, (State.heldInReset.entry g).enabled = false := by decide
    rw [off g] at on
    cases on
  kinds := by decide
  probeTimeout := by decide
  rounds := by decide
  smoothing := by decide
  pathOffset := by decide
  lockTimeout := by decide
  agreementTimeout := by decide
  sweepInterval := by decide
  hysteresis := by decide
  inventoryInterval := by decide
  assigned h := by cases h
  unassigned _ := by decide

theorem TablesValid.setSettings {s : State} (h : TablesValid s) {x : Settings} (valid : SettingsValid x) :
    TablesValid { s with mga := { s.mga with settings := x } } :=
  { h with
    probeTimeout := valid.probeTimeout
    rounds := valid.rounds
    smoothing := valid.smoothing
    pathOffset := valid.pathOffset
    lockTimeout := valid.lockTimeout
    agreementTimeout := valid.agreementTimeout
    sweepInterval := valid.sweepInterval
    hysteresis := valid.hysteresis
    inventoryInterval := valid.inventoryInterval }

/-- A property of every entry of a table, through the change of one. -/
theorem forall_get_set {α : Type} {n : Nat} {P : α → Prop} {v : Tab α n} (h : ∀ i, P (Tab.get v i)) (i : Fin n) {x : α} (new : P x)
    (j : Fin n) : P (Tab.get (Tab.set v i x) j) := by
  rw [Tab.get_set]
  split
  · exact new
  · exact h j

theorem TablesValid.event {s t : State} (h : TablesValid s) (e : Event s t) : TablesValid t := by
  cases e with
  | hardReset => exact tablesValid_heldInReset.congr rfl rfl rfl rfl
  | softReset =>
    have kept := softReset_kept s
    have blocks := blocks_rebuilt s
    have cleared : TablesValid s.clearForSoftReset := h.congr (by simp) (by simp) (by simp) (by simp)
    exact (cleared.blocks blocks).congr kept.cpt kept.classTable (by rw [kept.mga]) (by rw [kept.mga])
  | frame e => exact h.blocks e.only.blocks
  | probeSent => exact h.congr rfl rfl rfl rfl
  | judged bits none => rw [judgeRead_eq]; exact h.congr rfl rfl rfl rfl
  | classEntry c D range => exact { h with classD := forall_get_set (P := fun D : Nat => 3000 ≤ D ∧ D ≤ 8000) h.classD c range }
  | profile p new subset =>
    exact { h with profiles := forall_get_set (P := fun x : Profile => x.degraded &&& ~~~x.verified = 0) h.profiles p subset }
  | frameClass table valid => exact { h with kinds := valid }
  | settings x valid => exact h.setSettings valid
  | identity chassis unit valid => exact { h with assigned := fun _ => valid, unassigned := fun no => by cases no }
  | tick =>
    unfold State.tick
    split
    · exact h
    · exact h.congr rfl rfl rfl rfl
  | ended m before => exact (m.keep (fun _ _ => TablesValid.move) h).blocks (.endEvent ..)
  | released | aside | echoSent | responseSent | requested | answered | noticesRead | marks | taken =>
    exact h.congr rfl rfl rfl rfl

/-- Every step keeps the tables, the settings and the identity valid: the first half of O56, which holds. -/
theorem tablesValid_step {s t : State} (h : TablesValid s) (run : step s = .next t) : TablesValid t :=
  step_keeps (fun _ _ _ valid => valid.congr rfl rfl rfl rfl) (fun _ _ => TablesValid.event) h run

end Sys2Proof.Machine
end

section
/-! O56 fails in its second half: QueuesValid says nothing of an ABSENT record's class, shape and ready. Its first half holds
(tablesValid_step), and so does the second where every ABSENT record is clear, as R42 leaves it (queuesValid_step). -/

namespace Sys2Proof.Machine

/-! ## A record that is absent and not clear -/

/-- The bits of a read that finds no cable at any port: sixteen good bytes of one 1 each (R42). -/
def absentBits : List Bool := (List.replicate 16 [false, false, false, false, false, false, false, true]).flatten

/-- Port 0's record is ABSENT but carries class 3; the verdict of group 0 can fall together with the read under way, whose end is the
next command. -/
def staleAbsent : State :=
  { State.reset with
    ciu := { State.reset.ciu with records := Tab.set State.reset.ciu.records 0 { InventoryRecord.absent with cls := 3 } }
    buc := { State.reset.buc with contexts := Tab.set State.reset.buc.contexts 0 { Context.reset with state := .discovering } }
    psc := { State.reset.psc with
      queue := [{ group := 0, kind := .burst, rounds := 1, inFlight := true, outcomes := Tab.fill none }] }
    pending := [.chainReadEnd absentBits] }

theorem queuesValid_staleAbsent : QueuesValid staleAbsent where
  requests := by decide
  subjects := by decide
  distinct := by decide
  marks := by decide
  contexts := by decide
  changes e m := by cases m

/-- The read clears the class of the absent record, which counts as REPLACED: the event waits at group 0, and its port is empty. -/
theorem step_staleAbsent : ∃ t, step staleAbsent = .next t ∧ { group := 0, change := .replaced } ∈ t.ciu.handed
    ∧ (t.record 0).present = false := by
  have waits : (match step staleAbsent with
      | .next t => decide ({ group := 0, change := .replaced } ∈ t.ciu.handed ∧ (t.record 0).present = false)
      | _ => false) = true := by decide +kernel
  split at waits
  · next t run => exact ⟨t, run, of_decide_eq_true waits⟩
  · cases waits

/-- Refutes O56: QueuesValid lets an ABSENT record carry a cable class, and the read that clears it hands on REPLACED for a port that is
empty. -/
theorem not_tablesAndQueuesStayValid : ¬ Obligations.TablesAndQueuesStayValid := by
  rintro ⟨-, queues⟩
  obtain ⟨t, run, handed, absent⟩ := step_staleAbsent
  have present : (t.record 0).present = true := (queues _ _ queuesValid_staleAbsent run).changes _ handed
  rw [absent] at present
  cases present

end Sys2Proof.Machine
end

section
/-! Each context in agreement with its gate, plan entry and the identity, through every event (R13, R27, R30, R55, R80). -/

namespace Sys2Proof.Machine

/-! ## One context -/

/-- What ContextsValid says of context g. -/
structure ContextValid (s : State) (g : Index) : Prop where
  gate : (s.path g).gate = gateOf (s.ctx g).state
  unplanned : (s.ctx g).state = .unplanned ↔ (s.entry g).enabled = false
  bound : (s.entry g).enabled = true → ∃ b, (s.ctx g).bound = some b ∧ b.width = (s.entry g).fields.width
  unbound : (s.entry g).enabled = false → (s.ctx g).bound = none ∧ (s.ctx g).stale = false
  identity : s.mga.identity.assigned = false → (s.ctx g).state = .unplanned ∨ (s.ctx g).state = .waiting

theorem contextsValid_iff (s : State) : ContextsValid s ↔ ∀ g, ContextValid s g :=
  ⟨fun h g => ⟨h.gate g, h.unplanned g, h.bound g, h.unbound g, fun no => h.identity no g⟩,
    fun h => ⟨fun g => (h g).gate, fun g => (h g).unplanned, fun g => (h g).bound, fun g => (h g).unbound,
      fun no g => (h g).identity no⟩⟩

/-- It looks at the state, the binding and the stale mark of the context, its gate, its entry, and whether the identity is assigned. -/
theorem ContextValid.congr {s t : State} {g : Index} (h : ContextValid s g) (state : (t.ctx g).state = (s.ctx g).state)
    (bound : (t.ctx g).bound = (s.ctx g).bound) (stale : (t.ctx g).stale = (s.ctx g).stale)
    (gate : (t.path g).gate = (s.path g).gate) (entry : t.entry g = s.entry g)
    (assigned : t.mga.identity.assigned = s.mga.identity.assigned) : ContextValid t g := by
  constructor
  all_goals simp only [state, bound, stale, gate, entry, assigned]
  exacts [h.gate, h.unplanned, h.bound, h.unbound, h.identity]

/-- A context whose own parts, entry and identity are as they were. -/
theorem ContextValid.kept {s t : State} {g : Index} (h : ContextValid s g) (ctx : t.ctx g = s.ctx g)
    (gate : (t.path g).gate = (s.path g).gate) (entry : t.entry g = s.entry g) (identity : t.mga.identity = s.mga.identity) :
    ContextValid t g :=
  h.congr (by rw [ctx]) (by rw [ctx]) (by rw [ctx]) gate entry (by rw [identity])

theorem BlocksKept.entry {s t : State} (h : BlocksKept s t) (g : Index) : t.entry g = s.entry g := by
  unfold State.entry
  rw [h.cpt]

/-- An event at another context. -/
theorem ContextValid.other {s t : State} {g h : Index} (v : ContextValid s h) (e : EventAt g s t) (ne : h ≠ g) : ContextValid t h :=
  v.kept (e.others.contexts h ne) (by rw [e.others.paths h ne]) (e.blocks.entry h) (by rw [e.blocks.mga])

theorem ContextValid.enabled {s : State} {g : Index} (h : ContextValid s g) (planned : (s.ctx g).state ≠ .unplanned) :
    (s.entry g).enabled = true := by
  rw [← Bool.not_eq_false]
  exact fun off => planned (h.unplanned.2 off)

/-- A change of state between planned states, with an identity for those past WAITING (R55, R80). -/
theorem ContextValid.enter {s : State} {g : Index} (h : ContextValid s g) {st : GroupState} (r : Reason) (o : Option HoldOrigin)
    (planned : (s.ctx g).state ≠ .unplanned) (target : st ≠ .unplanned)
    (allowed : st = .waiting ∨ s.mga.identity.assigned = true ∨ (s.ctx g).state ≠ .waiting) : ContextValid (s.enter g st r o) g := by
  have on := h.enabled planned
  have blocks := (EventAt.enter s g st r o).blocks
  have state := state_enter s g st r o
  constructor
  case gate => rw [gate_enter, state]
  case unplanned => rw [state, blocks.entry, on]; exact ⟨fun e => absurd e target, fun e => by cases e⟩
  case bound => rw [blocks.entry, ctx_enter_same]; exact h.bound
  case unbound => rw [blocks.entry, on]; exact fun e => by cases e
  case identity =>
    rw [blocks.mga, state]
    intro unassigned
    rcases allowed with waiting | assigned | started
    · exact .inr waiting
    · rw [assigned] at unassigned; cases unassigned
    · exact (h.identity unassigned).elim (fun e => absurd e planned) fun e => absurd e started

theorem ContextValid.move {s t : State} {g : Index} (h : ContextValid s g) (m : ContextMove g s t) : ContextValid t g := by
  cases m with
  | enter st r o planned target allowed => exact h.enter r o planned target allowed
  | context f state bound stale =>
    exact h.congr (by rw [ctx_modCtx_same, state]) (by rw [ctx_modCtx_same, bound]) (by rw [ctx_modCtx_same, stale]) rfl rfl rfl
  | stale on =>
    constructor
    all_goals simp only [path_modCtx, ctx_modCtx_same, entry_modCtx, mga_modCtx]
    exacts [h.gate, h.unplanned, h.bound, fun off => (by rw [on] at off; cases off), h.identity]
  | refresh planned =>
    have on := h.enabled planned
    unfold State.refresh
    constructor
    all_goals simp only [path_modCtx, ctx_modCtx_same, entry_modCtx, mga_modCtx]
    exacts [h.gate, h.unplanned, fun _ => ⟨_, rfl, rfl⟩, fun off => (by rw [on] at off; cases off), h.identity]
  | load => exact h.kept rfl (by unfold State.loadFsu; rw [path_modPath_same]) rfl rfl
  | gate profile =>
    have blocks := (EventAt.writeGate s g (gateOf (s.ctx g).state) profile).blocks
    exact h.kept (ctx_writeGate ..) (by rw [path_writeGate, h.gate]) (blocks.entry g) (by rw [blocks.mga])
  | scheduler p kept => exact h.kept rfl rfl rfl rfl

/-- A planned context bound to its entry as it enters WAITING is valid, whatever it was (R26, R58). -/
theorem contextValid_bind {s : State} {g : Index} {b : PlanFields} (r : Reason) (o : Option HoldOrigin) (on : (s.entry g).enabled = true)
    (width : b.width = (s.entry g).fields.width) :
    ContextValid ((s.modCtx g fun c => { c with bound := some b, stale := false }).enter g .waiting r o) g := by
  have blocks := ((EventAt.modCtx s g fun c => { c with bound := some b, stale := false }).trans (.enter _ g .waiting r o)).blocks
  have state := state_enter (s.modCtx g fun c => { c with bound := some b, stale := false }) g .waiting r o
  constructor
  case gate => rw [gate_enter, state]
  case unplanned => rw [state, blocks.entry, on]; simp
  case bound =>
    rw [blocks.entry, ctx_enter_same, ctx_modCtx_same]
    exact fun _ => ⟨b, rfl, width⟩
  case unbound => rw [blocks.entry, on]; simp
  case identity => exact fun _ => .inr state

/-- An UNPLANNED context behind a CLOSED gate, with no binding and an entry that is not enabled. -/
theorem contextValid_cleared {s : State} {g : Index} (gate : (s.path g).gate = .closed) (state : (s.ctx g).state = .unplanned)
    (off : (s.entry g).enabled = false) (bound : (s.ctx g).bound = none) (stale : (s.ctx g).stale = false) : ContextValid s g where
  gate := by rw [gate, state]; rfl
  unplanned := iff_of_true state off
  bound on := by rw [off] at on; cases on
  unbound _ := ⟨bound, stale⟩
  identity _ := .inl state

/-! ## All contexts -/

theorem ContextsValid.congr {s t : State} (h : ContextsValid s) (ctx : ∀ g, t.ctx g = s.ctx g)
    (gate : ∀ g, (t.path g).gate = (s.path g).gate) (entry : ∀ g, t.entry g = s.entry g)
    (identity : t.mga.identity = s.mga.identity) : ContextsValid t :=
  (contextsValid_iff t).2 fun g => ((contextsValid_iff s).1 h g).kept (ctx g) (gate g) (entry g) identity

theorem ContextsValid.at {s t : State} {g : Index} (h : ContextsValid s) (e : EventAt g s t) (own : ContextValid t g) :
    ContextsValid t :=
  (contextsValid_iff t).2 fun k => by
    by_cases ne : k = g
    · rw [ne]
      exact own
    · exact ((contextsValid_iff s).1 h k).other e ne

theorem ContextsValid.contextMove {s t : State} {g : Index} (h : ContextsValid s) (m : ContextMove g s t) : ContextsValid t :=
  h.at m.eventAt (((contextsValid_iff s).1 h g).move m)

/-- A plan entry stored, with the unplanned field of its port, leaves the contexts of the other entries as they were. -/
theorem ContextValid.stored {s : State} {g h : Index} (v : ContextValid s h) (e : PlanEntry) (ne : h ≠ g) :
    ContextValid ((s.storeEntry g e).recomputeUnplanned (portOf g)) h := by
  obtain ⟨kept, own, -⟩ := recomputeUnplanned_kept (s.storeEntry g e) (portOf g)
  refine v.kept (own h).1 (by rw [(own h).2]; rfl) ?_ (by rw [kept.mga]; rfl)
  unfold State.entry
  rw [kept.cpt]
  exact Tab.get_set_ne _ _ ne

theorem entry_recomputeUnplanned (s : State) (p : Fin 16) (g : Index) : (s.recomputeUnplanned p).entry g = s.entry g := by
  unfold State.entry
  rw [(recomputeUnplanned_kept s p).1.cpt]

theorem ContextsValid.move {s t : State} (h : ContextsValid s) (m : Move s t) : ContextsValid t := by
  have each := (contextsValid_iff s).1 h
  cases m with
  | context m => exact h.contextMove m
  | lockView | echo => exact h.congr (fun _ => rfl) (fun _ => rfl) (fun _ => rfl) rfl
  | enabled g e w valid off on =>
    refine (contextsValid_iff _).2 fun k => ?_
    by_cases at_g : k = g
    · subst at_g
      have stored : ((s.storeEntry k e).recomputeUnplanned (portOf k)).entry k = e :=
        (entry_recomputeUnplanned ..).trans (entry_storeEntry_same ..)
      exact contextValid_bind _ _ (by rw [stored]; exact on) (by rw [stored])
    · exact ((each k).stored e at_g).other ((EventAt.modCtx ..).trans (.enter ..)) at_g
  | disabled g e w valid on off =>
    refine (contextsValid_iff _).2 fun k => ?_
    by_cases at_g : k = g
    · subst at_g
      have stored : ((s.storeEntry k e).recomputeUnplanned (portOf k)).entry k = e :=
        (entry_recomputeUnplanned ..).trans (entry_storeEntry_same ..)
      generalize (s.storeEntry k e).recomputeUnplanned (portOf k) = u at stored ⊢
      have blocks := (EventAt.disableContext u k).blocks
      have ctx : (u.disableContext k).ctx k
          = enterContext (u.modCtx k fun c => { c with bound := none, stale := false }) k .unplanned .none none
            { u.ctx k with bound := none, stale := false } := by
        unfold State.disableContext
        rw [ctx_modPath, ctx_enter_same, ctx_modCtx_same]
      have gate : ((u.disableContext k).path k).gate = .closed := by
        unfold State.disableContext
        rw [path_modPath_same]
        exact gate_enter ..
      exact contextValid_cleared gate (by rw [ctx]; rfl) (by rw [blocks.entry, stored]; exact off) (by rw [ctx]; rfl) (by rw [ctx]; rfl)
    · exact ((each k).stored e at_g).other (EventAt.disableContext ..) at_g
  | rewritten g e w valid same =>
    refine (contextsValid_iff _).2 fun k => ?_
    by_cases at_g : k = g
    · subst at_g
      have v := each k
      constructor
      all_goals simp only [path_storeEntry, ctx_storeEntry, entry_storeEntry_same, mga_storeEntry, same]
      case gate => exact v.gate
      case unplanned => exact v.unplanned
      case unbound => exact v.unbound
      case identity => exact v.identity
      case bound =>
        intro on
        obtain ⟨b, bound, width⟩ := v.bound on
        exact ⟨b, bound, width.trans ((entryValid_of_validateEntry valid).width on (same.trans on))⟩
    · exact (each k).kept rfl rfl (entry_storeEntry_ne s e at_g) rfl

theorem ContextsValid.moves {s t : State} (h : ContextsValid s) (m : Moves s t) : ContextsValid t :=
  m.keep (fun _ _ => ContextsValid.move) h

/-! ## Resets -/

theorem ctx_assertReset (s : State) (g : Index) : s.assertReset.ctx g = State.heldInReset.ctx g := by
  unfold State.assertReset State.ctx
  rfl

theorem path_assertReset (s : State) (g : Index) : s.assertReset.path g = State.heldInReset.path g := by
  unfold State.assertReset State.path State.heldInReset
  rfl

theorem entry_assertReset (s : State) (g : Index) : s.assertReset.entry g = State.heldInReset.entry g := by
  unfold State.assertReset State.entry
  rfl

theorem mga_assertReset (s : State) : s.assertReset.mga = State.heldInReset.mga := by
  unfold State.assertReset
  rfl

theorem contextsValid_heldInReset : ContextsValid State.heldInReset where
  gate := by decide
  unplanned := by decide
  bound g on := by
    have off : ∀ g, (State.heldInReset.entry g).enabled = false := by decide
    rw [off g] at on
    cases on
  unbound := by decide
  identity _ g := .inl ((by decide : ∀ g, (State.heldInReset.ctx g).state = .unplanned) g)

/-- A context before its turn in a soft reset: cleared, its gate CLOSED (R82). -/
def Unbuilt (s : State) (g : Index) : Prop := s.ctx g = Context.reset ∧ (s.path g).gate = .closed

/-- A context is valid once it is rebuilt from its entry (R82). -/
theorem contextValid_rebuildContext {s : State} {g : Index} (h : ContextValid s g ∨ Unbuilt s g) : ContextValid (s.rebuildContext g) g := by
  unfold State.rebuildContext
  split
  · next on =>
    have waits := contextValid_bind (s := s) (g := g) (b := (s.entry g).fields) .none none on rfl
    exact (ContextMoves.applyStart (by rw [state_enter]; decide)).keep (P := (ContextValid · g)) (fun _ _ => ContextValid.move) waits
  · next off =>
    rw [Bool.not_eq_true] at off
    rcases h with v | ⟨ctx, gate⟩
    · exact v
    · exact contextValid_cleared gate (by rw [ctx]; rfl) off (by rw [ctx]; rfl) (by rw [ctx]; rfl)

/-- The contexts of a list rebuilt one after another, every other one being valid before. -/
theorem contextValid_rebuildFold (is : List Index) (s : State) (h : ∀ g, ContextValid s g ∨ g ∈ is ∧ Unbuilt s g) (g : Index) :
    ContextValid (is.foldl State.rebuildContext s) g := by
  induction is generalizing s with
  | nil => exact (h g).resolve_right fun x => List.not_mem_nil x.1
  | cons k rest ih =>
    refine ih _ fun j => ?_
    have e := EventAt.rebuildContext s k
    by_cases same : j = k
    · subst same
      exact .inl (contextValid_rebuildContext ((h j).imp_right And.right))
    · refine (h j).imp (fun v => v.other e same) fun ⟨mem, ctx, gate⟩ => ?_
      exact ⟨(List.mem_cons.1 mem).resolve_left same, (e.others.contexts j same).trans ctx, by rw [e.others.paths j same]; exact gate⟩

theorem contextsValid_softReset (s : State) : ContextsValid s.softReset := by
  have rebuiltValid : ContextsValid (rebuilt s) := (contextsValid_iff _).2 fun g =>
    contextValid_rebuildFold indices _ (fun k => .inr ⟨mem_indices k, ctx_clearForSoftReset s k, by rw [path_clearForSoftReset]; rfl⟩) g
  have kept := softReset_kept s
  exact rebuiltValid.congr kept.ctx (fun g => by rw [kept.path]) (fun g => by unfold State.entry; rw [kept.cpt]) (by rw [kept.mga])

/-! ## Every event -/

theorem ctx_tick (s : State) (run : s.inReset = false) (g : Index) : s.tick.ctx g = (s.ctx g).tick := by
  unfold State.tick State.ctx
  rw [run]
  exact Tab.get_map ..

/-- A tick changes the timestamp counter, the contexts, the holds, the inventory and the Sweep Scheduler alone. -/
theorem tick_only (s : State) (run : s.inReset = false) : ∃ now contexts holds timer elapsed sws,
    s.tick =
      { s with
        psc := { s.psc with now := now }
        buc := { s.buc with contexts := contexts }
        fsu := { s.fsu with holds := holds }
        ciu := { s.ciu with timer := timer, elapsed := elapsed }
        sws := sws }
      ∧ holds = Tab.map (List.map fun h => { h with remaining := h.remaining - 1 }) s.fsu.holds :=
  ⟨_, _, _, _, _, _, if_neg (by rw [run]; decide), rfl⟩

theorem ContextsValid.tick {s : State} (h : ContextsValid s) : ContextsValid s.tick := by
  cases run : s.inReset with
  | true =>
    unfold State.tick
    rw [run]
    exact h
  | false =>
    refine (contextsValid_iff _).2 fun g => ?_
    have ctx := ctx_tick s run g
    have v := (contextsValid_iff s).1 h g
    obtain ⟨now, contexts, holds, timer, elapsed, sws, same, -⟩ := tick_only s run
    exact v.congr (by rw [ctx]; rfl) (by rw [ctx]; rfl) (by rw [ctx]; rfl) (by rw [same]; rfl) (by rw [same]; rfl) (by rw [same])

/-- The judging of a chain read changes the inventory and the notices alone (R44 to R49). -/
theorem judgeRead_only (s : State) (bits : List Bool) : ∃ ciu notices, s.judgeRead bits = { s with ciu := ciu, notices := notices } :=
  ⟨_, _, judgeRead_eq s bits⟩

theorem ContextsValid.event {s t : State} (h : ContextsValid s) (e : Event s t) : ContextsValid t := by
  cases e with
  | hardReset =>
    exact contextsValid_heldInReset.congr (ctx_assertReset s) (fun g => by rw [path_assertReset]) (entry_assertReset s)
      (by rw [mga_assertReset])
  | softReset => exact contextsValid_softReset s
  | frame e =>
    have only := e.only
    exact h.congr (fun g => by unfold State.ctx; rw [only.buc]) only.gate only.blocks.entry (by rw [only.blocks.mga])
  | judged bits none =>
    obtain ⟨ciu, notices, same⟩ := judgeRead_only s bits
    rw [same]
    exact h.congr (fun _ => rfl) (fun _ => rfl) (fun _ => rfl) rfl
  | identity chassis unit valid => exact { h with identity := fun no => by cases no }
  | tick => exact h.tick
  | @ended u m before =>
    have blocks := BlocksKept.endEvent u before
    exact (h.moves m).congr (fun g => ctx_endEvent _ before g) (fun g => by rw [path_endEvent]) blocks.entry (by rw [blocks.mga])
  | probeSent | echoSent | responseSent | released | aside | requested | answered | noticesRead | marks | taken | classEntry | profile
  | frameClass | settings => exact h.congr (fun _ => rfl) (fun _ => rfl) (fun _ => rfl) rfl

/-- Every step keeps every context valid. -/
theorem contextsValid_step {s t : State} (h : ContextsValid s) (run : step s = .next t) : ContextsValid t :=
  step_keeps (fun _ _ _ valid => valid.congr (fun _ => rfl) (fun _ => rfl) (fun _ => rfl) rfl) (fun _ _ => ContextsValid.event) h run

end Sys2Proof.Machine
end

section
/-! A group whose gate is CLOSED has no data frame under way, through every event (R14, R15; log 11). -/

namespace Sys2Proof.Machine

/-! ## Frames under way -/

/-- Data frame f is under way: on a transmit lane, in a hold, or admitted and waiting for its target fields. -/
inductive UnderWay (s : State) (f : DataFrame) : Prop
  | sending (side : Side) (l : Index) (on : TxFrame.data f ∈ (Tab.get (s.tx side) l).content)
  | held (l : Index) (h : HeldFrame) (on : h ∈ Tab.get s.fsu.holds l) (is : h.frame = f)
  | judged (l : Index) (lead : LeadWord) (on : Tab.get s.fsu.systemRx l = .awaitingTarget lead (.admitted f))

theorem closedGatesIdle_iff (s : State) : ClosedGatesIdle s ↔ ∀ f, UnderWay s f → (s.path f.group).gate ≠ .closed := by
  constructor
  · intro h f under
    cases under with
    | sending side l on => exact h.content side l f on
    | held l x on is => exact is ▸ h.holds l x on
    | judged l lead on => exact h.judged l lead f on
  · exact fun h =>
      { content := fun side l f on => h f (.sending side l on)
        holds := fun l x on => h x.frame (.held l x on rfl)
        judged := fun l lead f on => h f (.judged l lead on) }

/-- Where the gates stay, frames already under way and frames of groups that are not CLOSED may be under way. -/
theorem ClosedGatesIdle.of {s t : State} (h : ClosedGatesIdle s) (gate : ∀ g, (t.path g).gate = (s.path g).gate)
    (source : ∀ f, UnderWay t f → UnderWay s f ∨ (s.path f.group).gate ≠ .closed) : ClosedGatesIdle t :=
  (closedGatesIdle_iff t).2 fun f under => by
    rw [gate]
    exact (source f under).elim ((closedGatesIdle_iff s).1 h f) id

theorem UnderWay.congr {s t : State} {f : DataFrame} (h : UnderWay t f)
    (content : ∀ side l, TxFrame.data f ∈ (Tab.get (t.tx side) l).content → TxFrame.data f ∈ (Tab.get (s.tx side) l).content)
    (holds : t.fsu.holds = s.fsu.holds) (systemRx : t.fsu.systemRx = s.fsu.systemRx) : UnderWay s f := by
  cases h with
  | sending side l on => exact .sending side l (content side l on)
  | held l x on is => exact .held l x (holds ▸ on) is
  | judged l lead on => exact .judged l lead (systemRx ▸ on)

/-- Same gates, same frames. -/
theorem ClosedGatesIdle.congr {s t : State} (h : ClosedGatesIdle s) (gate : ∀ g, (t.path g).gate = (s.path g).gate)
    (tx : ∀ side, t.tx side = s.tx side) (holds : t.fsu.holds = s.fsu.holds) (systemRx : t.fsu.systemRx = s.fsu.systemRx) :
    ClosedGatesIdle t :=
  h.of gate fun _ under => .inl (under.congr (fun side l on => by rw [← tx]; exact on) holds systemRx)

/-! ## Events of data frames -/

/-- A change of one transmit lane brings under way what it brings there. -/
theorem underWay_modTx {s : State} {side : Side} {l : Index} {φ : TxLane → TxLane} {f : DataFrame} {new : Prop}
    (content : ∀ x : TxLane, TxFrame.data f ∈ (φ x).content → TxFrame.data f ∈ x.content ∨ new)
    (h : UnderWay (s.modTx side l φ) f) : UnderWay s f ∨ new := by
  cases h with
  | held m x on is => exact .inl (.held m x (fsu_holds_modTx s side l φ ▸ on) is)
  | judged m lead on => exact .inl (.judged m lead (fsu_systemRx_modTx s side l φ ▸ on))
  | sending d m on =>
    by_cases there : d = side
    · subst there
      by_cases here : m = l
      · subst here
        rw [get_tx_modTx_same] at on
        exact (content _ on).imp_left (.sending d m)
      · rw [get_tx_modTx_ne _ _ _ here] at on
        exact .inl (.sending d m on)
    · rw [tx_modTx_other _ _ _ there] at on
      exact .inl (.sending d m on)

theorem underWay_buffer {s : State} {side : Side} {f new : DataFrame} (h : UnderWay (s.buffer side new) f) : UnderWay s f ∨ f = new :=
  underWay_modTx (fun x on => by simpa [TxLane.content, or_assoc] using on) h

theorem TxLane.content_finish (abortMark : Bool) (x : TxLane) (f : TxFrame) (h : f ∈ (x.finish abortMark).content) :
    f ∈ x.content := by
  unfold TxLane.finish at h
  split at h
  · exact List.mem_append_right _ h
  · exact h

theorem underWay_finish {s : State} {side : Side} {l : Index} {abortMark : Bool} {f : DataFrame}
    (h : UnderWay (s.modTx side l (TxLane.finish abortMark)) f) : UnderWay s f :=
  (underWay_modTx (new := False) (fun x on => .inl (x.content_finish abortMark _ on)) h).resolve_right id

/-- An inserted frame that leaves is no data frame. -/
theorem underWay_send {s : State} {side : Side} {l : Index} {x : TxFrame} {f : DataFrame} (inserted : ∀ d, x ≠ .data d)
    (h : UnderWay (s.send side l x) f) : UnderWay s f := by
  refine (underWay_modTx (new := False) (fun lane on => .inl ?_) h).resolve_right id
  rcases List.mem_append.1 on with sent | waits
  · cases Option.mem_toList.1 sent
    exact absurd rfl (inserted f)
  · exact List.mem_append_right _ waits

theorem underWay_arbitrate {s : State} {f : DataFrame} (h : UnderWay s.arbitrate f) : UnderWay s f :=
  h.congr (fun side l on => by rwa [tx_arbitrate, TxLane.content_takeData] at on) (fsu_holds_arbitrate s) (fsu_systemRx_arbitrate s)

theorem underWay_setSystemRx {s : State} {l : Index} {r : SystemRx} {f : DataFrame} (h : UnderWay (s.setSystemRx l r) f) :
    UnderWay s f ∨ ∃ lead, r = .awaitingTarget lead (.admitted f) := by
  cases h with
  | sending side m on => exact .inl (.sending side m (by cases side <;> exact on))
  | held m x on is => exact .inl (.held m x on is)
  | judged m lead on =>
    by_cases here : m = l
    · exact .inr ⟨lead, by rwa [here, State.setSystemRx, Tab.get_set_same] at on⟩
    · rw [State.setSystemRx, Tab.get_set_ne _ _ here] at on
      exact .inl (.judged m lead on)

/-- A list of holds whose frames are those it held and perhaps one more. -/
theorem underWay_setHolds {s : State} {l : Index} {held : List HeldFrame} {f : DataFrame} {new : Prop}
    (frames : ∀ x ∈ held, x.frame = f → x ∈ Tab.get s.fsu.holds l ∨ new) (h : UnderWay (s.setHolds l held) f) : UnderWay s f ∨ new := by
  cases h with
  | sending side m on => exact .inl (.sending side m (by cases side <;> exact on))
  | judged m lead on => exact .inl (.judged m lead on)
  | held m x on is =>
    by_cases here : m = l
    · subst here
      rw [State.setHolds, Tab.get_set_same] at on
      exact (frames x on is).imp_left fun old => .held m x old is
    · rw [State.setHolds, Tab.get_set_ne _ _ here] at on
      exact .inl (.held m x on is)

theorem underWay_handle {s : State} {l : Index} {j : Judgement} {f : DataFrame} (h : UnderWay (s.handle l j) f) :
    UnderWay s f ∨ j = .admitted f := by
  unfold State.handle at h
  split at h
  · exact .inl (h.congr (fun side m on => by cases side <;> exact on) rfl rfl)
  · next new =>
    split at h
    · exact (underWay_buffer h).imp_right fun e => by rw [e]
    · refine underWay_setHolds (l := l) (fun x on is => ?_) h
      rcases List.mem_append.1 on with old | last
      · exact .inl old
      · exact .inr (by rw [← is, List.mem_singleton.1 last])

theorem underWay_frameEvent {s t : State} (h : ClosedGatesIdle s) (e : FrameEvent s t) (f : DataFrame) (under : UnderWay t f) :
    UnderWay s f ∨ (s.path f.group).gate ≠ .closed := by
  cases e with
  | systemRx l r isOpen =>
    refine (underWay_setSystemRx under).imp_right ?_
    rintro ⟨lead, rfl⟩
    exact isOpen
  | arbitrated => exact .inl (underWay_arbitrate under)
  | handled l j isOpen =>
    refine (underWay_handle (underWay_arbitrate under)).imp_right ?_
    rintro rfl
    exact isOpen
  | unaddressed l lead j waits =>
    rcases underWay_handle (underWay_arbitrate under) with before | rfl
    · refine (underWay_setSystemRx before).imp_right ?_
      rintro ⟨_, ⟨⟩⟩
    · exact .inr (h.judged l lead f waits)
  | holdEnded l x rest held =>
    rcases underWay_buffer (underWay_arbitrate under) with before | rfl
    · refine underWay_setHolds (fun y on _ => .inl ?_) before
      rw [held]
      exact List.mem_cons_of_mem x on
    · exact .inr (h.holds l x (held ▸ List.mem_cons_self))
  | frameEnded => exact .inl (underWay_finish (underWay_arbitrate under))

/-! ## Events at contexts -/

theorem systemRx_writeGate (s : State) (g : Index) (gate : GateState) (profile : Option (Fin 8)) (l : Index) :
    Tab.get (s.writeGate g gate profile).fsu.systemRx l = (Tab.get s.fsu.systemRx l).cut (gateKeeps s g gate profile) := by
  rw [writeGate_eq]
  simp [Fsu.cut]

/-- What waits for its target fields after a cut waited before, and is kept (R15). -/
theorem SystemRx.admitted_of_cut {keep : DataFrame → Bool} {r : SystemRx} {lead : LeadWord} {f : DataFrame}
    (h : r.cut keep = .awaitingTarget lead (.admitted f)) : r = .awaitingTarget lead (.admitted f) ∧ keep f = true := by
  unfold SystemRx.cut at h
  split at h
  · next x =>
    split at h
    · next kept =>
      cases h
      exact ⟨rfl, kept⟩
    · cases h
  · next other => exact absurd h (other lead f)

/-- After a gate write the frames under way are those it keeps (R15). -/
theorem underWay_writeGate {s : State} {g : Index} {gate : GateState} {profile : Option (Fin 8)} {f : DataFrame}
    (h : UnderWay (s.writeGate g gate profile) f) : UnderWay s f ∧ gateKeeps s g gate profile f = true := by
  cases h with
  | sending side l on =>
    rw [content_writeGate, List.mem_filter] at on
    exact ⟨.sending side l on.1, on.2⟩
  | held l x on is =>
    rw [holds_writeGate, List.mem_filter] at on
    exact ⟨.held l x on.1 is, is ▸ on.2⟩
  | judged l lead on =>
    rw [systemRx_writeGate] at on
    obtain ⟨waits, kept⟩ := SystemRx.admitted_of_cut on
    exact ⟨.judged l lead waits, kept⟩

/-- Whatever a gate write closes, it cuts (R15). -/
theorem ClosedGatesIdle.writeGate {s : State} (h : ClosedGatesIdle s) (g : Index) (gate : GateState) (profile : Option (Fin 8)) :
    ClosedGatesIdle (s.writeGate g gate profile) :=
  (closedGatesIdle_iff _).2 fun f under => by
    obtain ⟨before, kept⟩ := underWay_writeGate under
    by_cases own : f.group = g
    · rw [own, path_writeGate]
      rintro rfl
      simp [gateKeeps, own, admits] at kept
    · rw [path_writeGate_ne _ _ _ own]
      exact (closedGatesIdle_iff s).1 h f before

theorem ClosedGatesIdle.setPsc {s : State} (h : ClosedGatesIdle s) (p : Psc) : ClosedGatesIdle { s with psc := p } :=
  h.congr (fun _ => rfl) (fun side => by cases side <;> rfl) rfl rfl

theorem ClosedGatesIdle.modCtx {s : State} (h : ClosedGatesIdle s) (g : Index) (f : Context → Context) :
    ClosedGatesIdle (s.modCtx g f) :=
  h.congr (fun _ => rfl) (fun side => by rw [tx_modCtx]) rfl rfl

theorem ClosedGatesIdle.modPath {s : State} (h : ClosedGatesIdle s) (g : Index) {f : GroupPath → GroupPath}
    (gate : (f (s.path g)).gate = (s.path g).gate) : ClosedGatesIdle (s.modPath g f) := by
  refine h.congr (fun k => ?_) (fun side => by rw [tx_modPath]) rfl rfl
  by_cases at_g : k = g
  · rw [at_g, path_modPath_same, gate]
  · rw [path_modPath_ne _ _ at_g]

theorem ClosedGatesIdle.enter {s : State} (h : ClosedGatesIdle s) (g : Index) (st : GroupState) (r : Reason) (o : Option HoldOrigin) :
    ClosedGatesIdle (s.enter g st r o) := by
  rw [enter_eq]
  exact ((h.modCtx g _).writeGate g _ _).setPsc _

theorem ClosedGatesIdle.contextMove {s t : State} {g : Index} (h : ClosedGatesIdle s) (m : ContextMove g s t) : ClosedGatesIdle t := by
  cases m with
  | enter => exact h.enter ..
  | context | stale | refresh => exact h.modCtx ..
  | load => exact h.modPath g rfl
  | gate => exact h.writeGate ..
  | scheduler p => exact h.setPsc p

/-- A plan entry stored, with the unplanned field of its port. -/
theorem ClosedGatesIdle.stored {s : State} (h : ClosedGatesIdle s) (g : Index) (e : PlanEntry) (p : Fin 16) :
    ClosedGatesIdle ((s.storeEntry g e).recomputeUnplanned p) := by
  obtain ⟨-, own, -, fsu, -⟩ := recomputeUnplanned_kept (s.storeEntry g e) p
  refine h.congr (fun k => by rw [(own k).2]; rfl) (fun side => ?_) (by rw [fsu]; rfl) (by rw [fsu]; rfl)
  unfold State.tx
  rw [fsu]
  rfl

theorem ClosedGatesIdle.move {s t : State} (h : ClosedGatesIdle s) (m : Move s t) : ClosedGatesIdle t := by
  cases m with
  | context m => exact h.contextMove m
  | lockView | echo | rewritten => exact h.congr (fun _ => rfl) (fun side => by cases side <;> rfl) rfl rfl
  | enabled g e => exact ((h.stored g e _).modCtx g _).enter ..
  | disabled g e => exact (((h.stored g e _).modCtx g _).enter ..).modPath g rfl

/-! ## Whole events -/

/-- Where nothing is under way nothing is to be said. -/
theorem closedGatesIdle_of_idle {s : State} (none : ∀ f, ¬UnderWay s f) : ClosedGatesIdle s :=
  (closedGatesIdle_iff s).2 fun f under => absurd under (none f)

theorem SystemRx.cut_none_ne (r : SystemRx) (lead : LeadWord) (f : DataFrame) :
    r.cut (fun _ => false) ≠ .awaitingTarget lead (.admitted f) :=
  fun h => Bool.false_ne_true (SystemRx.admitted_of_cut h).2

/-- A soft reset cuts every data frame under way (R82, R195). -/
theorem not_underWay_clearForSoftReset (s : State) (f : DataFrame) : ¬UnderWay s.clearForSoftReset f := by
  have cut : s.clearForSoftReset.fsu.holds = (s.fsu.cut fun _ => false).holds
      ∧ s.clearForSoftReset.fsu.systemRx = (s.fsu.cut fun _ => false).systemRx
      ∧ s.clearForSoftReset.fsu.lineTx = (s.fsu.cut fun _ => false).lineTx
      ∧ s.clearForSoftReset.fsu.systemTx = (s.fsu.cut fun _ => false).systemTx := by
    unfold State.clearForSoftReset Fsu.softReset
    exact ⟨rfl, rfl, rfl, rfl⟩
  obtain ⟨holds, systemRx, lineTx, systemTx⟩ := cut
  rintro (⟨side, l, on⟩ | ⟨l, x, on, is⟩ | ⟨l, lead, on⟩)
  · have gone : (Tab.get (s.clearForSoftReset.tx side) l).content = (Tab.get (s.tx side) l).content.filter (TxFrame.kept fun _ => false) := by
      cases side with
      | line =>
        rw [State.tx, lineTx, Fsu.cut, Tab.get_map]
        exact TxLane.content_cut ..
      | system =>
        rw [State.tx, systemTx, Fsu.cut, Tab.get_build]
        exact TxLane.content_cut ..
    rw [gone, List.mem_filter] at on
    exact Bool.false_ne_true on.2
  · rw [holds, Fsu.cut, Tab.get_map, List.mem_filter] at on
    exact Bool.false_ne_true on.2
  · rw [systemRx, Fsu.cut, Tab.get_map] at on
    exact SystemRx.cut_none_ne _ lead f on

theorem ClosedGatesIdle.rebuildContext {s : State} (h : ClosedGatesIdle s) (g : Index) : ClosedGatesIdle (s.rebuildContext g) := by
  unfold State.rebuildContext
  split
  · have waits := (h.modCtx g fun c => { c with bound := some (s.entry g).fields, stale := false }).enter g .waiting .none none
    exact (ContextMoves.applyStart (by rw [state_enter]; decide)).keep (fun _ _ => ClosedGatesIdle.contextMove) waits
  · exact h

theorem closedGatesIdle_rebuildFold (is : List Index) (s : State) (h : ClosedGatesIdle s) :
    ClosedGatesIdle (is.foldl State.rebuildContext s) := by
  induction is generalizing s with
  | nil => exact h
  | cons g rest ih => exact ih _ (h.rebuildContext g)

theorem closedGatesIdle_softReset (s : State) : ClosedGatesIdle s.softReset := by
  have kept := softReset_kept s
  have built : ClosedGatesIdle (rebuilt s) :=
    closedGatesIdle_rebuildFold indices _ (closedGatesIdle_of_idle (not_underWay_clearForSoftReset s))
  refine built.of (fun g => by rw [kept.path]) fun f under => .inl (under.congr (fun side l on => ?_) kept.holds kept.systemRx)
  rwa [kept.content] at on

theorem tx_assertReset (s : State) (side : Side) (l : Index) :
    Tab.get (s.assertReset.tx side) l = (Tab.get (s.tx side) l).abandon := by
  unfold State.assertReset
  cases side <;> exact Tab.get_map ..

theorem not_underWay_assertReset (s : State) (f : DataFrame) : ¬UnderWay s.assertReset f := by
  have blank : s.assertReset.fsu.holds = Tab.fill [] ∧ s.assertReset.fsu.systemRx = Tab.fill .none := by
    unfold State.assertReset
    exact ⟨rfl, rfl⟩
  obtain ⟨holds, systemRx⟩ := blank
  rintro (⟨side, l, on⟩ | ⟨l, x, on, is⟩ | ⟨l, lead, on⟩)
  · rw [tx_assertReset] at on
    exact List.not_mem_nil on
  · rw [holds, Tab.get_fill] at on
    exact List.not_mem_nil on
  · rw [systemRx, Tab.get_fill] at on
    cases on

/-- Holds that only run down hold the same frames. -/
theorem underWay_tick {s : State} {f : DataFrame} (h : UnderWay s.tick f) : UnderWay s f := by
  cases run : s.inReset with
  | true => rwa [State.tick, if_pos run] at h
  | false =>
    obtain ⟨now, contexts, holds, timer, elapsed, sws, same, ticked⟩ := tick_only s run
    rw [same] at h
    cases h with
    | sending side l on => exact .sending side l (by cases side <;> exact on)
    | judged l lead on => exact .judged l lead on
    | held l x on is =>
      simp only [ticked, Tab.get_map, List.mem_map] at on
      obtain ⟨old, here, rfl⟩ := on
      exact .held l old here is

theorem path_tick (s : State) (g : Index) : s.tick.path g = s.path g := by
  cases run : s.inReset with
  | true => rw [State.tick, if_pos run]
  | false =>
    obtain ⟨now, contexts, holds, timer, elapsed, sws, same, -⟩ := tick_only s run
    rw [same]
    rfl

theorem ClosedGatesIdle.event {s t : State} (h : ClosedGatesIdle s) (e : Event s t) : ClosedGatesIdle t := by
  cases e with
  | hardReset => exact closedGatesIdle_of_idle (not_underWay_assertReset s)
  | softReset => exact closedGatesIdle_softReset s
  | frame e => exact h.of e.only.gate (underWay_frameEvent h e)
  | tick => exact h.of (fun g => by rw [path_tick]) fun _ under => .inl (underWay_tick under)
  | judged bits none =>
    obtain ⟨ciu, notices, same⟩ := judgeRead_only s bits
    rw [same]
    exact h.congr (fun _ => rfl) (fun side => by cases side <;> rfl) rfl rfl
  | probeSent k g i slot free bytes timeout =>
    have sent : ClosedGatesIdle (s.send .line (laneAt g i.val) (.probe bytes)) :=
      h.of (fun _ => rfl) fun f under => .inl (underWay_send (fun _ x => by cases x) under)
    exact sent.setPsc _
  | echoSent l free bytes =>
    have sent : ClosedGatesIdle (s.send .line l (.echo bytes)) :=
      h.of (fun _ => rfl) fun f under => .inl (underWay_send (fun _ x => by cases x) under)
    exact sent.congr (fun _ => rfl) (fun side => by cases side <;> rfl) rfl rfl
  | responseSent l bytes queue taken free =>
    have sent : ClosedGatesIdle (s.send .system l (.response bytes)) :=
      h.of (fun _ => rfl) fun f under => .inl (underWay_send (fun _ x => by cases x) under)
    exact sent.congr (fun _ => rfl) (fun side => by cases side <;> rfl) rfl rfl
  | @ended u m before =>
    have moved : ClosedGatesIdle u := m.keep (fun _ _ => ClosedGatesIdle.move) h
    obtain ⟨-, -, -, holds, systemRx, -, content, -⟩ := endEvent_rest u before
    refine moved.of (fun g => by rw [path_endEvent]) fun f under => .inl (under.congr (fun side l on => ?_) holds systemRx)
    rwa [content] at on
  | released | aside | requested | answered | noticesRead | marks | taken | classEntry | profile | frameClass | settings | identity =>
    exact h.congr (fun _ => rfl) (fun side => by cases side <;> rfl) rfl rfl

/-- Every step keeps it that a group whose gate is CLOSED has no data frame under way. -/
theorem closedGatesIdle_step {s t : State} (h : ClosedGatesIdle s) (run : step s = .next t) : ClosedGatesIdle t :=
  step_keeps (fun _ _ _ idle => idle.congr (fun _ => rfl) (fun side => by cases side <;> rfl) rfl rfl)
    (fun _ _ => ClosedGatesIdle.event) h run

/-- The gate that goes with each state, state by state (R13). -/
theorem gateOf_cases (st : GroupState) : gateOf st = match st with
    | .verified => .openVerified
    | .degraded => .openDegraded
    | .unplanned | .waiting | .acquiring | .discovering | .agreeing | .quarantined | .held | .lost => .closed := by
  cases st <;> rfl

/-- Settles O57, by the changes every event falls apart into: each of them keeps each context valid, and brings no frame of a group
whose gate is CLOSED under way. -/
theorem contextsStayValid : Obligations.ContextsStayValid := by
  unfold Obligations.ContextsStayValid
  refine ⟨fun s t valid run => ?_, fun s t => closedGatesIdle_step⟩
  have after := contextsValid_step valid run
  exact ⟨after, fun g => (after.gate g).trans (gateOf_cases _)⟩

end Sys2Proof.Machine
end

section
/-! The two arbiters settled after every event (R5, R112 to R115). -/

namespace Sys2Proof.Machine

/-! ## The probe arbiter -/

theorem IsCandidate.waits {p : Psc} {c : ProbeRequest} (h : IsCandidate p c) : c ∈ p.queue ∧ c.inFlight = false :=
  candidate_mem (candidate_eq_some_iff.2 h)

theorem IsCandidate.unique {p : Psc} {c d : ProbeRequest} (hc : IsCandidate p c) (hd : IsCandidate p d) : c = d :=
  Option.some.inj ((candidate_eq_some_iff.2 hc).symm.trans (candidate_eq_some_iff.2 hd))

/-- After the grant attempts of an event the slots do not suffice for the candidate, if there is one (R115). -/
theorem GrantsMade.settled {width : Index → Nat} {p q : Psc} (h : GrantsMade width p q) (c : ProbeRequest) (is : IsCandidate q c) :
    ¬SlotsSuffice width q c := by
  induction h with
  | none flying =>
    obtain ⟨mem, waits⟩ := is.waits
    exact absurd (flying c mem) (by rw [waits]; decide)
  | blocked candidate fails => exact candidate.unique is ▸ fails
  | granted _ _ _ _ ih => exact ih is

theorem grantsSettled_grant (s : State) : GrantsSettled s.grant :=
  (grantsSettled_iff _).2 fun c is => (grantsMade_grant s).settled c is

/-- It looks at the queue, the burst holder, which slots are FREE, and the widths. -/
theorem GrantsSettled.congr {s t : State} (h : GrantsSettled s) (queue : t.psc.queue = s.psc.queue)
    (holder : t.psc.holder = s.psc.holder)
    (free : ∀ k, (Tab.get t.psc.slots k).state = .free ↔ (Tab.get s.psc.slots k).state = .free)
    (width : ∀ g, boundWidth t g = boundWidth s g) : GrantsSettled t := by
  rw [grantsSettled_iff] at h ⊢
  have widths : boundWidth t = boundWidth s := funext width
  have slots : ∀ c, SlotsSuffice (boundWidth t) t.psc c ↔ SlotsSuffice (boundWidth s) s.psc c := fun c => by
    unfold SlotsSuffice
    simp only [queue, holder, free, widths]
  have candidates : ∀ c, IsCandidate t.psc c ↔ IsCandidate s.psc c := fun c => by
    unfold IsCandidate
    rw [queue, holder]
  exact fun c is suffice => h c ((candidates c).1 is) ((slots c).1 suffice)

theorem GrantsSettled.same {s t : State} (h : GrantsSettled s) (psc : t.psc = s.psc) (buc : t.buc = s.buc) : GrantsSettled t :=
  h.congr (by rw [psc]) (by rw [psc]) (fun k => by rw [psc]) (fun g => by unfold boundWidth State.ctx; rw [buc])

theorem grantsSettled_of_empty {s : State} (queue : s.psc.queue = []) : GrantsSettled s :=
  (grantsSettled_iff s).2 fun _ is => absurd (queue ▸ is.waits.1) List.not_mem_nil

theorem boundWidth_of_ctx {s t : State} {g : Index} (ctx : t.ctx g = s.ctx g) : boundWidth t g = boundWidth s g := by
  unfold boundWidth
  rw [ctx]

/-! ## The transmit arbiters -/

/-- It looks at what is under way and what waits on each lane, and at the inserted frames. -/
theorem LanesSettled.congr {s t : State} (h : LanesSettled s) (tx : ∀ side, t.tx side = s.tx side)
    (waits : ∀ side l, insertedWaits s side l = true → insertedWaits t side l = true) : LanesSettled t := by
  intro side l free
  rw [tx] at free ⊢
  exact (h side l free).imp_right (waits side l)

theorem LanesSettled.same {s t : State} (h : LanesSettled s) (tx : ∀ side, t.tx side = s.tx side) (ers : t.ers = s.ers)
    (psc : t.psc = s.psc) (queue : t.mga.queue = s.mga.queue) : LanesSettled t :=
  h.congr tx fun side l waits => by
    cases side <;> simpa [insertedWaits, ers, psc, queue] using waits

/-- An inserted frame leaves on one lane; those of the other lanes wait as they did (R5). -/
theorem LanesSettled.send {s t : State} {side : Side} {l : Index} {f : TxFrame} (h : LanesSettled s)
    (tx : ∀ d, t.tx d = (s.send side l f).tx d)
    (waits : ∀ d m, (d = side → m ≠ l) → insertedWaits s d m = true → insertedWaits t d m = true) : LanesSettled t := by
  intro d m free
  rw [tx] at free ⊢
  unfold State.send at free ⊢
  by_cases there : d = side
  · subst there
    by_cases here : m = l
    · subst here
      rw [get_tx_modTx_same] at free
      cases free
    · rw [get_tx_modTx_ne _ _ _ here] at free ⊢
      exact (h d m free).imp_right (waits d m fun _ => here)
  · rw [tx_modTx_other _ _ _ there] at free ⊢
    exact (h d m free).imp_right (waits d m fun e => absurd e there)

theorem probeWaits_iff (p : Psc) (l : Index) :
    probeWaits p l = true ↔ ∃ k g i, (Tab.get p.slots k).state = .granted g i ∧ laneAt g i.val = l := by
  unfold probeWaits
  rw [Tab.any_iff]
  refine exists_congr fun k => ?_
  constructor
  · intro h
    split at h
    · next g i slot => exact ⟨g, i, slot, beq_iff_eq.1 h⟩
    · cases h
  · rintro ⟨g, i, slot, lane⟩
    rw [slot]
    exact beq_iff_eq.2 lane

/-- A response taken is one that answers on the lane; the other entries stay in their order (R183). -/
theorem takeResponse_eq_some {l : Index} {q rest : List Entry} {bytes : List Byte} (h : takeResponse l q = some (bytes, rest)) :
    ∃ ahead e behind, q = ahead ++ e :: behind ∧ rest = ahead ++ behind ∧ e.state = .answering bytes ∧ e.request.lane = l := by
  induction q generalizing rest with
  | nil => cases h
  | cons x xs ih =>
    have later : (takeResponse l xs).map (fun y => (y.1, x :: y.2)) = some (bytes, rest) →
        ∃ ahead e behind, x :: xs = ahead ++ e :: behind ∧ rest = ahead ++ behind ∧ e.state = .answering bytes ∧ e.request.lane = l := by
      intro found
      obtain ⟨⟨b, r⟩, taken, same⟩ := Option.map_eq_some_iff.1 found
      cases same
      obtain ⟨ahead, e, behind, rfl, rfl, state, lane⟩ := ih taken
      exact ⟨x :: ahead, e, behind, rfl, rfl, state, lane⟩
    unfold takeResponse at h
    split at h
    · next b state =>
      split at h
      · next lane =>
        cases h
        exact ⟨[], x, xs, rfl, rfl, state, lane⟩
      · exact later h
    · exact later h

theorem Entry.answersOn_iff (e : Entry) (l : Index) : e.answersOn l = true ↔ (∃ bytes, e.state = .answering bytes) ∧ e.request.lane = l := by
  unfold Entry.answersOn
  split
  · next bytes state => simp [state]
  · next state => simp [state]

/-- The end of an execution takes no answer away that waits to leave (R184). -/
theorem mem_answerFirst {response : Option (List Byte)} {q : List Entry} {e : Entry} (mem : e ∈ q) {bytes : List Byte}
    (answering : e.state = .answering bytes) : e ∈ answerFirst response q := by
  induction q with
  | nil => cases mem
  | cons x xs ih =>
    unfold answerFirst
    rcases List.mem_cons.1 mem with rfl | later
    · rw [answering]
      exact List.mem_cons_self
    · split
      · split
        · exact List.mem_cons_of_mem _ later
        · exact later
      · exact List.mem_cons_of_mem _ (ih later)

/-- The entries that answer keep inserted frames waiting on the system lanes; the line lanes do not look at the queue. -/
theorem insertedWaits_setQueue {s : State} {queue : List Entry} (kept : ∀ e l, e ∈ s.mga.queue → e.answersOn l = true → e ∈ queue)
    (side : Side) (l : Index) (waits : insertedWaits s side l = true) :
    insertedWaits { s with mga := { s.mga with queue := queue } } side l = true := by
  cases side with
  | line => exact waits
  | system =>
    obtain ⟨e, mem, answers⟩ := List.any_eq_true.1 waits
    exact List.any_eq_true.2 ⟨e, kept e l mem answers, answers⟩

/-! ## Both through every event -/

/-- Both arbiters settled. -/
structure ArbitersSettled (s : State) : Prop where
  lanes : LanesSettled s
  grants : GrantsSettled s

theorem ArbitersSettled.same {s t : State} (h : ArbitersSettled s) (tx : ∀ side, t.tx side = s.tx side) (ers : t.ers = s.ers)
    (psc : t.psc = s.psc) (buc : t.buc = s.buc) (queue : t.mga.queue = s.mga.queue) : ArbitersSettled t :=
  ⟨h.lanes.same tx ers psc queue, h.grants.same psc buc⟩

theorem LanesSettled.frameEvent {s t : State} (h : LanesSettled s) (e : FrameEvent s t) : LanesSettled t := by
  cases e with
  | systemRx => exact h.same (fun side => by cases side <;> rfl) rfl rfl rfl
  | arbitrated | handled | unaddressed | holdEnded | frameEnded => exact lanesSettled_arbitrate _

/-- The end of an event leaves both arbiters settled (R5, R112). -/
theorem arbitersSettled_endEvent (s before : State) : ArbitersSettled (s.endEvent before) where
  lanes := by
    unfold State.endEvent
    exact lanesSettled_arbitrate _
  grants := by
    obtain ⟨buc, -, -, -, -, psc, -⟩ := endEvent_rest s before
    exact (grantsSettled_grant s).same psc buc

theorem arbitersSettled_softReset (s : State) : ArbitersSettled s.softReset where
  lanes := by
    rw [softReset_eq]
    exact lanesSettled_arbitrate _
  grants := by
    obtain ⟨r, kept⟩ : ∃ r, SoftResetKept r s.softReset := ⟨_, softReset_kept s⟩
    have width : ∀ g, boundWidth s.softReset g = boundWidth r.grant g := fun g => boundWidth_of_ctx (kept.ctx g)
    exact (grantsSettled_grant r).congr (by rw [kept.psc]) (by rw [kept.psc]) (fun k => by rw [kept.psc]) width

theorem psc_assertReset (s : State) : s.assertReset.psc = Psc.reset := by
  unfold State.assertReset State.heldInReset
  rfl

theorem arbitersSettled_assertReset (s : State) : ArbitersSettled s.assertReset where
  lanes side l _ := by
    rw [tx_assertReset]
    exact .inl rfl
  grants := grantsSettled_of_empty (by rw [psc_assertReset]; rfl)

/-- A granted probe leaves on its lane (R117). -/
theorem ArbitersSettled.probeSent {s : State} (h : ArbitersSettled s) {k : Fin 8} {g : Index} {i : Fin 4}
    (slot : (Tab.get s.psc.slots k).state = .granted g i) (bytes : List Byte) (timeout : Nat) :
    ArbitersSettled { s.send .line (laneAt g i.val) (.probe bytes) with
      psc := { s.psc with slots := Tab.upd s.psc.slots k fun sl => { sl with state := sentSlot s.psc.now timeout g i } } } where
  grants := h.grants.congr rfl rfl
    (fun k' => by
      by_cases here : k' = k
      · subst here
        simp [Tab.get_upd_same, sentSlot, slot]
      · simp [Tab.get_upd_ne _ _ here])
    fun _ => rfl
  lanes := by
    refine h.lanes.send (side := .line) (l := laneAt g i.val) (f := .probe bytes) (fun d => by cases d <;> rfl) fun d m other waits => ?_
    cases d with
    | system => exact waits
    | line =>
      refine Bool.or_eq_true_iff.2 ((Bool.or_eq_true_iff.1 waits).imp id fun probe => ?_)
      obtain ⟨k', g', i', granted, lane⟩ := (probeWaits_iff ..).1 probe
      have apart : k' ≠ k := by
        rintro rfl
        rw [slot] at granted
        cases granted
        exact other rfl lane.symm
      exact (probeWaits_iff ..).2 ⟨k', g', i', by rw [Tab.get_upd_ne _ _ apart]; exact granted, lane⟩

/-- A pending echo leaves on its lane (R107). -/
theorem ArbitersSettled.echoSent {s : State} (h : ArbitersSettled s) (l : Index) (bytes : List Byte) :
    ArbitersSettled ((s.send .line l (.echo bytes)).setEcho l none) where
  grants := h.grants.same rfl rfl
  lanes := by
    refine h.lanes.send (side := .line) (l := l) (f := .echo bytes) (fun d => by cases d <;> rfl) fun d m other waits => ?_
    cases d with
    | system => exact waits
    | line =>
      refine Bool.or_eq_true_iff.2 ((Bool.or_eq_true_iff.1 waits).imp (fun echo => ?_) id)
      rw [State.setEcho, Tab.get_set_ne _ _ (other rfl)]
      exact echo

/-- A response leaves on its system lane, and its entry with it (R183). -/
theorem ArbitersSettled.responseSent {s : State} (h : ArbitersSettled s) {l : Index} {bytes : List Byte} {queue : List Entry}
    (taken : takeResponse l s.mga.queue = some (bytes, queue)) :
    ArbitersSettled { s.send .system l (.response bytes) with mga := { s.mga with queue := queue } } where
  grants := h.grants.same rfl rfl
  lanes := by
    refine h.lanes.send (side := .system) (l := l) (f := .response bytes) (fun d => by cases d <;> rfl) fun d m other waits => ?_
    cases d with
    | line => exact waits
    | system =>
      obtain ⟨ahead, e, behind, before, rfl, -, lane⟩ := takeResponse_eq_some taken
      obtain ⟨x, mem, answers⟩ := List.any_eq_true.1 waits
      refine List.any_eq_true.2 ⟨x, ?_, answers⟩
      have differs : x ≠ e := by
        rintro rfl
        exact other rfl (((Entry.answersOn_iff x m).1 answers).2.symm.trans lane)
      rw [before] at mem
      simpa [differs] using mem

theorem ArbitersSettled.event {s t : State} (h : ArbitersSettled s) (e : Event s t) : ArbitersSettled t := by
  cases e with
  | hardReset => exact arbitersSettled_assertReset s
  | softReset => exact arbitersSettled_softReset s
  | ended m before => exact arbitersSettled_endEvent _ before
  | frame e => exact ⟨h.lanes.frameEvent e, h.grants.same e.only.psc e.only.buc⟩
  | probeSent k g i slot free bytes timeout => exact h.probeSent slot bytes timeout
  | echoSent l free bytes => exact h.echoSent l bytes
  | responseSent l bytes queue taken free => exact h.responseSent taken
  | requested r room =>
    exact ⟨h.lanes.congr (fun side => by cases side <;> rfl) (insertedWaits_setQueue fun e l mem _ => List.mem_append_left _ mem),
      h.grants.same rfl rfl⟩
  | answered r a =>
    refine ⟨h.lanes.congr (fun side => by cases side <;> rfl) (insertedWaits_setQueue fun e l mem answers => ?_), h.grants.same rfl rfl⟩
    obtain ⟨⟨bytes, answering⟩, -⟩ := (e.answersOn_iff l).1 answers
    exact mem_answerFirst mem answering
  | judged bits none =>
    obtain ⟨ciu, notices, same⟩ := judgeRead_only s bits
    rw [same]
    exact h.same (fun side => by cases side <;> rfl) rfl rfl rfl rfl
  | tick =>
    cases run : s.inReset with
    | true =>
      rw [State.tick, if_pos run]
      exact h
    | false =>
      obtain ⟨now, contexts, holds, timer, elapsed, sws, same, -⟩ := tick_only s run
      have width : ∀ g, boundWidth s.tick g = boundWidth s g := fun g => by
        unfold boundWidth
        rw [ctx_tick s run g]
        rfl
      rw [same] at width ⊢
      exact ⟨h.lanes.congr (fun side => by cases side <;> rfl) fun side l waits => by cases side <;> exact waits,
        h.grants.congr rfl rfl (fun _ => .rfl) width⟩
  | aside lfr lineRx malformed late sws timer elapsed =>
    exact ⟨h.lanes.congr (fun side => by cases side <;> rfl) fun side l waits => by cases side <;> exact waits,
      h.grants.congr rfl rfl (fun _ => .rfl) fun _ => rfl⟩
  | released | noticesRead | marks | taken | classEntry | profile | frameClass | settings | identity =>
    exact h.same (fun side => by cases side <;> rfl) rfl rfl rfl rfl

/-- Every step leaves both arbiters settled. -/
theorem arbitersSettled_step {s t : State} (h : ArbitersSettled s) (run : step s = .next t) : ArbitersSettled t :=
  step_keeps (fun _ _ _ settled => settled.same (fun side => by cases side <;> rfl) rfl rfl rfl rfl)
    (fun _ _ => ArbitersSettled.event) h run

/-- Settles O60: each event ends with the arbiters' turn, or touches neither what they look at nor the frames that wait for them. -/
theorem arbitersStaySettled : Obligations.ArbitersStaySettled := by
  unfold Obligations.ArbitersStaySettled
  intro s t lanes grants run
  have after := arbitersSettled_step ⟨lanes, grants⟩ run
  exact ⟨after.lanes, after.grants, (grantsSettled_iff t).1 after.grants⟩

end Sys2Proof.Machine
end

section
/-! The queues and marks through every event, where an ABSENT record's class, shape and ready are clear, as R42 leaves them: what the
hypothesis of O56's second half lacks (R43, R49, R183, R193). -/

namespace Sys2Proof.Machine

/-! ## The Notice Queue -/

/-- What QueuesValid says of the Notice Queue (R193). -/
structure NoticesValid (q : List Notice) : Prop where
  subjects : ∀ n ∈ q, n.subject < 80
  distinct : (q.map Notice.subject).Nodup

theorem noticesValid_nil : NoticesValid [] := ⟨nofun, List.nodup_nil⟩

/-- A posting keeps the subjects in their order, and adds its own at the tail if none has it (R193). -/
theorem subjects_postNotice (q : List Notice) (k : Nat) (c : NoticeContent) (a : Time) :
    (postNotice q k c a).map Notice.subject
      = if k ∈ q.map Notice.subject then q.map Notice.subject else q.map Notice.subject ++ [k] := by
  induction q with
  | nil => rfl
  | cons n rest ih =>
    unfold postNotice
    by_cases own : n.subject = k
    · simp [own]
    · have own' : k ≠ n.subject := fun e => own e.symm
      rw [if_neg own, List.map_cons, ih, List.map_cons]
      simp only [List.mem_cons, own', false_or]
      split <;> rfl

theorem noticesValid_iff (q : List Notice) :
    NoticesValid q ↔ (∀ k ∈ q.map Notice.subject, k < 80) ∧ (q.map Notice.subject).Nodup :=
  ⟨fun h => ⟨List.forall_mem_map.2 h.subjects, h.distinct⟩, fun h => ⟨List.forall_mem_map.1 h.1, h.2⟩⟩

theorem NoticesValid.post {q : List Notice} (h : NoticesValid q) {k : Nat} (subject : k < 80) (c : NoticeContent) (a : Time) :
    NoticesValid (postNotice q k c a) := by
  rw [noticesValid_iff] at h ⊢
  rw [subjects_postNotice]
  split
  · exact h
  · next new =>
    refine ⟨fun j mem => ?_, List.nodup_append.2 ⟨h.2, List.nodup_singleton k, fun x mem y is => ?_⟩⟩
    · exact (List.mem_append.1 mem).elim (h.1 j) fun is => List.mem_singleton.1 is ▸ subject
    · rw [List.mem_singleton.1 is]
      exact fun same => new (same ▸ mem)

theorem NoticesValid.postGroup {s : State} (h : NoticesValid s.notices) (g : Index) : NoticesValid (s.postGroup g).notices :=
  h.post (Nat.lt_trans g.isLt (by decide)) _ _

theorem NoticesValid.drop {q : List Notice} (h : NoticesValid q) (n : Nat) : NoticesValid (q.drop n) :=
  ⟨fun x mem => h.subjects x (List.mem_of_mem_drop mem), h.distinct.sublist ((List.drop_sublist n q).map Notice.subject)⟩

/-- Postings one after another. -/
theorem noticesValid_fold {α β : Type} {f : β → α → β} {notices : β → List Notice}
    (each : ∀ b a, NoticesValid (notices b) → NoticesValid (notices (f b a))) (as : List α) (b : β) (h : NoticesValid (notices b)) :
    NoticesValid (notices (as.foldl f b)) := by
  induction as generalizing b with
  | nil => exact h
  | cons a rest ih => exact ih _ (each b a h)

theorem NoticesValid.endEvent {s : State} (h : NoticesValid s.notices) (before : State) : NoticesValid (s.endEvent before).notices := by
  unfold State.endEvent postChangedGroups
  rw [notices_arbitrate]
  refine noticesValid_fold (notices := State.notices) (fun t g valid => ?_) indices s.grant h
  split
  · exact valid.postGroup g
  · exact valid

theorem NoticesValid.postEnabledGroups {s : State} (h : NoticesValid s.notices) : NoticesValid s.postEnabledGroups.notices := by
  unfold State.postEnabledGroups
  refine noticesValid_fold (notices := State.notices) (fun t g valid => ?_) indices s h
  split
  · exact valid.postGroup g
  · exact valid

theorem NoticesValid.noticedByRead {q : List Notice} (h : NoticesValid q) (s : State) (bits : List Bool) (p : Fin 16) :
    NoticesValid (noticedByRead s bits q p) := by
  unfold Machine.noticedByRead
  split
  · exact h.post (by omega) _ _
  · exact h

theorem NoticesValid.recomputeUnplanned {s : State} (h : NoticesValid s.notices) (p : Fin 16) :
    NoticesValid (s.recomputeUnplanned p).notices := by
  unfold State.recomputeUnplanned
  dsimp only
  split
  · exact h
  · exact h.post (by omega) _ _

/-! ## Records and port change events -/

/-- An ABSENT record's class, shape and ready are clear, as R42 leaves them. -/
def InventoryRecord.Clear (r : InventoryRecord) : Prop := r.present = false → r.cls = 0 ∧ r.shape = .whole ∧ r.ready = false

/-- The change is one that a port with this record shows (R49). -/
def PortChange.Shown (r : InventoryRecord) : PortChange → Prop
  | .removed => r.present = false
  | .arrived | .replaced => r.present = true
  | .ready b => r.present = true ∧ r.ready = b

/-- Between clear records the change is one that the new record shows: what replaces or turns ready is there (R49). -/
theorem shown_of_portChangeOf {old new : InventoryRecord} (clear : old.Clear) (clear' : new.Clear) {e : PortChange}
    (change : portChangeOf old new = some e) : e.Shown new := by
  have absent : old.present = false → new.present = false → portChangeOf old new = none := fun was is => by
    obtain ⟨cls, shape, ready⟩ := clear was
    obtain ⟨cls', shape', ready'⟩ := clear' is
    exact portChangeOf_same (is.trans was.symm) (cls'.trans cls.symm) (shape'.trans shape.symm) (ready'.trans ready.symm)
  unfold portChangeOf at change absent
  cases is : new.present with
  | true =>
    cases was : old.present <;> simp only [was, is] at change
    · cases change
      exact is
    · simp only [Bool.not_true, Bool.false_and, Bool.true_and, Bool.false_eq_true, if_false] at change
      split_ifs at change with replaced ready
      · cases change
        exact is
      · cases change
        exact ⟨is, rfl⟩
  | false =>
    cases was : old.present with
    | true =>
      simp only [was, is, Bool.not_true, Bool.false_and, Bool.false_eq_true, if_false, Bool.not_false, Bool.true_and, if_true] at change
      cases change
      exact is
    | false =>
      rw [absent was is] at change
      cases change

/-- A judged byte leaves a clear record (R42, R45). -/
theorem clear_recordAfterByte (plan : Tab PlanEntry 64) (p : Fin 16) {old : InventoryRecord} (b : Byte) (clear : old.Clear) :
    (recordAfterByte plan p old b).Clear := by
  unfold recordAfterByte
  split
  · exact clear
  · split
    · exact fun _ => ⟨rfl, rfl, rfl⟩
    · exact fun absent => nomatch absent

theorem mem_handedFor {p : Fin 16} {old new : InventoryRecord} {e : HandedEvent} :
    e ∈ handedFor p old new ↔ ∃ c j, portChangeOf old new = some c ∧ e = { group := cell p j, change := c } := by
  unfold handedFor
  simp only [List.mem_flatMap, Option.mem_toList, List.mem_map, List.mem_finRange, true_and]
  constructor
  · rintro ⟨c, change, j, rfl⟩
    exact ⟨c, j, change, rfl⟩
  · rintro ⟨c, j, change, rfl⟩
    exact ⟨c, change, j, rfl⟩

theorem cell_injective (p : Fin 16) : Function.Injective (cell p) := fun i j same => by
  have lanes := congrArg laneOf same
  rwa [laneOf_cell, laneOf_cell] at lanes

/-- A read hands on at most one event to each context (R49). -/
theorem groups_handed_nodup (old new : Fin 16 → InventoryRecord) {ps : List (Fin 16)} (d : ps.Nodup) :
    ((ps.flatMap fun p => handedFor p (old p) (new p)).map HandedEvent.group).Nodup := by
  rw [List.map_flatMap]
  refine List.nodup_flatMap.2 ⟨fun p _ => ?_, d.imp fun {p q} apart => ?_⟩
  · unfold handedFor
    cases portChangeOf (old p) (new p) with
    | none => exact List.nodup_nil
    | some c =>
      simp only [Option.toList_some, List.flatMap_cons, List.flatMap_nil, List.append_nil, List.map_map]
      exact (List.nodup_finRange 4).map (cell_injective p)
  · intro g here there
    obtain ⟨x, memx, rfl⟩ := List.mem_map.1 here
    obtain ⟨y, memy, same⟩ := List.mem_map.1 there
    obtain ⟨c, j, -, rfl⟩ := mem_handedFor.1 memx
    obtain ⟨c', j', -, rfl⟩ := mem_handedFor.1 memy
    have ports := congrArg portOf same
    rw [portOf_cell, portOf_cell] at ports
    exact apart ports.symm

/-! ## The invariant -/

/-- QueuesValid with every record clear. -/
structure QueuesClear (s : State) : Prop where
  requests : s.mga.queue.length ≤ 4
  notices : NoticesValid s.notices
  marks : s.ciu.readPending = true → s.ciu.inProgress = true
  contexts : (s.ciu.handed.map HandedEvent.group).Nodup
  changes : ∀ e ∈ s.ciu.handed, e.change.Shown (s.record e.group)
  clear : ∀ p, (Tab.get s.ciu.records p).Clear

theorem queuesClear_iff (s : State) : QueuesClear s ↔ QueuesValid s ∧ ∀ p, (Tab.get s.ciu.records p).Clear := by
  have shown : ∀ e : HandedEvent, e.change.Shown (s.record e.group) ↔ match e.change with
      | .removed => (s.record e.group).present = false
      | .arrived | .replaced => (s.record e.group).present = true
      | .ready b => (s.record e.group).present = true ∧ (s.record e.group).ready = b := fun e => by
    cases e.change <;> rfl
  constructor
  · exact fun h => ⟨⟨h.requests, h.notices.subjects, h.notices.distinct, h.marks, h.contexts,
      fun e mem => (shown e).1 (h.changes e mem)⟩, h.clear⟩
  · exact fun ⟨h, clear⟩ => ⟨h.requests, ⟨h.subjects, h.distinct⟩, h.marks, h.contexts,
      fun e mem => (shown e).2 (h.changes e mem), clear⟩

/-- The record of each port is as it was but for its unplanned field. -/
def RecordsKept (s t : State) : Prop := ∀ p, ∃ u, Tab.get t.ciu.records p = { Tab.get s.ciu.records p with unplanned := u }

theorem recordsKept_of_records {s t : State} (same : t.ciu.records = s.ciu.records) : RecordsKept s t := fun p => ⟨_, by rw [same]⟩

theorem PortChange.Shown.kept {r : InventoryRecord} {e : PortChange} (h : e.Shown r) (u : Bool) : e.Shown { r with unplanned := u } := by
  cases e <;> exact h

theorem QueuesClear.of {s t : State} (h : QueuesClear s) (requests : t.mga.queue.length ≤ 4) (notices : NoticesValid t.notices)
    (marks : t.ciu.readPending = true → t.ciu.inProgress = true) (handed : t.ciu.handed.Sublist s.ciu.handed)
    (records : RecordsKept s t) : QueuesClear t where
  requests := requests
  notices := notices
  marks := marks
  contexts := h.contexts.sublist (handed.map _)
  changes e mem := by
    obtain ⟨u, same⟩ := records (portOf e.group)
    have shown := (h.changes e (handed.subset mem)).kept u
    rw [State.record, same]
    exact shown
  clear p := by
    obtain ⟨u, same⟩ := records p
    rw [same]
    exact h.clear p

/-- The inventory as it was but for unplanned fields, and the requests as they were. -/
theorem QueuesClear.congr {s t : State} (h : QueuesClear s) (notices : NoticesValid t.notices)
    (ciu : ∃ r, t.ciu = { s.ciu with records := r }) (records : RecordsKept s t) (mga : t.mga.queue = s.mga.queue) : QueuesClear t := by
  obtain ⟨r, ciu⟩ := ciu
  exact h.of (mga ▸ h.requests) notices (by rw [ciu]; exact h.marks) (by rw [ciu]) records

theorem QueuesClear.same {s t : State} (h : QueuesClear s) (notices : t.notices = s.notices) (ciu : t.ciu = s.ciu)
    (mga : t.mga.queue = s.mga.queue) : QueuesClear t :=
  h.congr (notices ▸ h.notices) ⟨_, ciu⟩ (recordsKept_of_records (by rw [ciu])) mga

theorem QueuesClear.recomputeUnplanned {s : State} (h : QueuesClear s) (p : Fin 16) : QueuesClear (s.recomputeUnplanned p) := by
  obtain ⟨kept, -, -, -, others, own⟩ := recomputeUnplanned_kept s p
  refine h.congr (h.notices.recomputeUnplanned p) kept.ciu (fun q => ?_) (by rw [kept.mga])
  by_cases here : q = p
  · rw [here]
    exact ⟨_, own⟩
  · exact ⟨_, others q here⟩

theorem QueuesClear.at {s t : State} {g : Index} (h : QueuesClear s) (e : EventAt g s t) (notices : t.notices = s.notices) :
    QueuesClear t :=
  h.same notices e.blocks.ciu (by rw [e.blocks.mga])

theorem QueuesClear.move {s t : State} (h : QueuesClear s) (m : Move s t) : QueuesClear t := by
  cases m with
  | context m => exact h.at m.eventAt m.notices
  | lockView | echo | rewritten => exact h.same rfl rfl rfl
  | enabled g e =>
    have stored : QueuesClear (s.storeEntry g e) := h.same rfl rfl rfl
    exact (stored.recomputeUnplanned (portOf g)).at ((EventAt.modCtx ..).trans (.enter ..)) (notices_enter ..)
  | disabled g e =>
    have stored : QueuesClear (s.storeEntry g e) := h.same rfl rfl rfl
    exact (stored.recomputeUnplanned (portOf g)).at (EventAt.disableContext ..) (notices_enter ..)

/-- A read with nothing left waiting hands on what its bytes show (R49, R50). -/
theorem QueuesClear.judgeRead {s : State} (h : QueuesClear s) (none : s.ciu.handed = []) (bits : List Bool) :
    QueuesClear (s.judgeRead bits) := by
  have ports : (List.finRange 16).reverse.Nodup := List.nodup_reverse.2 (List.nodup_finRange 16)
  have clear : ∀ p, (recordAfterRead s bits p).Clear := fun p => clear_recordAfterByte _ p _ (h.clear p)
  rw [judgeRead_eq, none, List.nil_append]
  exact
    { requests := h.requests
      notices := noticesValid_fold (notices := id) (fun q p valid => valid.noticedByRead s bits p) _ _ h.notices
      marks := h.marks
      contexts := groups_handed_nodup (Tab.get s.ciu.records) (recordAfterRead s bits) ports
      changes := fun e mem => by
        obtain ⟨p, -, mem⟩ := List.mem_flatMap.1 mem
        obtain ⟨c, j, change, rfl⟩ := mem_handedFor.1 mem
        simp only [State.record, portOf_cell, Tab.get_build]
        exact shown_of_portChangeOf (h.clear p) (clear p) change
      clear := fun p => by
        rw [Tab.get_build]
        exact clear p }

theorem queuesClear_assertReset (s : State) : QueuesClear s.assertReset := by
  have ciu : s.assertReset.ciu = Ciu.reset := by unfold State.assertReset; rfl
  have blank : s.assertReset.notices = [] ∧ s.assertReset.mga.queue = [] := by unfold State.assertReset; exact ⟨rfl, rfl⟩
  obtain ⟨notices, queue⟩ := blank
  exact
    { requests := by rw [queue]; exact Nat.zero_le 4
      notices := notices ▸ noticesValid_nil
      marks := by rw [ciu]; nofun
      contexts := by rw [ciu]; exact List.nodup_nil
      changes := by rw [ciu]; nofun
      clear := fun p => by
        have absent : Tab.get Ciu.reset.records p = InventoryRecord.absent := Tab.get_fill ..
        rw [ciu, absent]
        exact fun _ => ⟨rfl, rfl, rfl⟩ }

/-- Rebuilding the contexts posts no notice (R82). -/
theorem notices_rebuilt (s : State) : (rebuilt s).notices = [] := by
  have each : ∀ (t : State) (g : Index), (t.rebuildContext g).notices = t.notices := fun t g => by
    unfold State.rebuildContext
    split
    · have waits := notices_enter (t.modCtx g fun c => { c with bound := some (t.entry g).fields, stale := false }) g .waiting .none none
      exact (ContextMoves.applyStart (by rw [state_enter]; decide)).keep (P := fun u => u.notices = t.notices)
        (fun _ _ same move => move.notices.trans same) waits
    · rfl
  have all : ∀ (is : List Index) (t : State), (is.foldl State.rebuildContext t).notices = t.notices := by
    intro is
    induction is with
    | nil => exact fun _ => rfl
    | cons g rest ih => exact fun t => (ih _).trans (each t g)
  exact (all indices _).trans (notices_clearForSoftReset s)

theorem QueuesClear.softReset {s : State} (h : QueuesClear s) : QueuesClear s.softReset := by
  have kept := softReset_kept s
  have blocks := blocks_rebuilt s
  have ciu := blocks.ciu.trans (ciu_clearForSoftReset s)
  have mga : s.softReset.mga = s.mga := (kept.mga.trans blocks.mga).trans (mga_clearForSoftReset s)
  have cleared : NoticesValid (rebuilt s).notices := by
    rw [notices_rebuilt]
    exact noticesValid_nil
  refine h.of (by rw [mga]; exact h.requests) (by rw [kept.notices]; exact cleared.postEnabledGroups) (fun _ => kept.marks) ?_
    (recordsKept_of_records ?_)
  · rw [kept.handed, ciu]
    exact List.nil_sublist _
  · rw [kept.records, ciu]

theorem QueuesClear.event {s t : State} (h : QueuesClear s) (e : Event s t) : QueuesClear t := by
  cases e with
  | hardReset => exact queuesClear_assertReset s
  | softReset => exact h.softReset
  | frame e => exact h.same e.only.notices e.only.blocks.ciu (by rw [e.only.blocks.mga])
  | judged bits none => exact h.judgeRead none bits
  | @ended u m before =>
    have moved : QueuesClear u := m.keep (fun _ _ => QueuesClear.move) h
    have blocks := BlocksKept.endEvent u before
    exact moved.congr (moved.notices.endEvent before) ⟨_, blocks.ciu⟩ (recordsKept_of_records (by rw [blocks.ciu])) (by rw [blocks.mga])
  | tick =>
    cases run : s.inReset with
    | true =>
      rw [State.tick, if_pos run]
      exact h
    | false =>
      obtain ⟨now, contexts, holds, timer, elapsed, sws, same, -⟩ := tick_only s run
      rw [same]
      exact h.of h.requests h.notices h.marks (List.Sublist.refl _) (recordsKept_of_records rfl)
  | responseSent l bytes queue taken free =>
    obtain ⟨ahead, e, behind, before, rfl, -, -⟩ := takeResponse_eq_some taken
    refine h.of ?_ h.notices h.marks (List.Sublist.refl _) (recordsKept_of_records rfl)
    have bound := h.requests
    rw [before] at bound
    simp only [List.length_append, List.length_cons] at bound ⊢
    omega
  | requested r room =>
    refine h.of ?_ h.notices h.marks (List.Sublist.refl _) (recordsKept_of_records rfl)
    rw [List.length_append]
    exact room
  | answered r a =>
    exact h.of ((length_answerFirst _ _).trans h.requests) h.notices h.marks (List.Sublist.refl _) (recordsKept_of_records rfl)
  | noticesRead n => exact h.congr (h.notices.drop n) ⟨_, rfl⟩ (recordsKept_of_records rfl) rfl
  | marks inProgress readPending valid => exact h.of h.requests h.notices valid (List.Sublist.refl _) (recordsKept_of_records rfl)
  | taken rest sub => exact h.of h.requests h.notices h.marks sub (recordsKept_of_records rfl)
  | aside => exact h.of h.requests h.notices h.marks (List.Sublist.refl _) (recordsKept_of_records rfl)
  | released | probeSent | echoSent | classEntry | profile | frameClass | settings | identity => exact h.same rfl rfl rfl

/-- Every step keeps the queues valid, and the records clear: what the second half of O56 says holds from a state whose ABSENT records
are clear. -/
theorem queuesValid_step {s t : State} (valid : QueuesValid s) (clear : ∀ p, (Tab.get s.ciu.records p).Clear) (run : step s = .next t) :
    QueuesValid t ∧ ∀ p, (Tab.get t.ciu.records p).Clear :=
  (queuesClear_iff t).1
    (step_keeps (fun _ _ _ kept => kept.same rfl rfl rfl) (fun _ _ => QueuesClear.event) ((queuesClear_iff s).2 ⟨valid, clear⟩) run)

end Sys2Proof.Machine
end

section
/-! Every command completes, and what an idle part does next (log 1, 2, 5, 17, 32). -/

namespace Sys2Proof.Machine

/-! ## The queue of commands -/

theorem Move.pending {s t : State} (m : Move s t) : t.pending = s.pending := by
  cases m with
  | context m => exact m.eventAt.blocks.pending
  | lockView | echo | rewritten => rfl
  | enabled g e =>
    exact ((EventAt.modCtx ..).trans (.enter ..)).blocks.pending.trans (recomputeUnplanned_kept _ _).1.pending
  | disabled g e => exact (EventAt.disableContext ..).blocks.pending.trans (recomputeUnplanned_kept _ _).1.pending

theorem Moves.pending {s t : State} (m : Moves s t) : t.pending = s.pending :=
  m.keep (P := fun u => u.pending = s.pending) (fun _ _ same move => move.pending.trans same) rfl

/-- No event takes a command out of the queue or puts one in. -/
theorem Event.pending {s t : State} (e : Event s t) : t.pending = s.pending := by
  cases e with
  | hardReset => unfold State.assertReset; rfl
  | softReset => exact ((softReset_kept s).pending.trans (blocks_rebuilt s).pending).trans (pending_clearForSoftReset s)
  | frame e => exact e.only.blocks.pending
  | judged bits =>
    obtain ⟨ciu, notices, same⟩ := judgeRead_only s bits
    rw [same]
  | tick =>
    cases run : s.inReset with
    | true => rw [State.tick, if_pos run]
    | false =>
      obtain ⟨now, contexts, holds, timer, elapsed, sws, same, -⟩ := tick_only s run
      rw [same]
  | @ended u m before => exact (BlocksKept.endEvent u before).pending.trans m.pending
  | probeSent | echoSent | responseSent | released | aside | requested | answered | noticesRead | marks | taken | classEntry | profile
  | frameClass | settings | identity => rfl

theorem Events.pending {s t : State} (e : Events s t) : t.pending = s.pending :=
  e.keep (P := fun u => u.pending = s.pending) (fun _ _ same event => event.pending.trans same) rfl

/-- Every command that is an event of the part answers a next state. -/
theorem exec_completes (c : Instr) (s : State) (wf : c.wellFormed = true) : ∃ t, exec c s = .next t := by
  cases c with
  | chainReadEnd bits => exact ⟨_, if_pos (beq_iff_eq.1 wf)⟩
  | _ => exact ⟨_, rfl⟩

/-- While the reset line is asserted only the line's own events act (log 5). -/
theorem exec_inReset (c : Instr) {s : State} (reset : s.inReset = true) (wf : c.wellFormed = true) (asserts : c ≠ .resetAssert)
    (releases : c ≠ .resetRelease) : exec c s = .next s := by
  cases c with
  | resetAssert => exact absurd rfl asserts
  | resetRelease => exact absurd rfl releases
  | chainReadEnd bits => exact (if_pos (beq_iff_eq.1 wf)).trans (unlessReset_inReset _ reset)
  | _ => exact congrArg Host.Outcome.next (if_pos reset)

/-- Settles O3: a command has its effect unless the part is in reset, and its events leave the queue alone. -/
theorem everyCommandCompletes : Obligations.EveryCommandCompletes := by
  unfold Obligations.EveryCommandCompletes
  refine ⟨fun c s wf => ?_, fun c s reset wf asserts releases => exec_inReset c reset wf asserts releases,
    fun bits s short => if_neg short⟩
  obtain ⟨t, run⟩ := exec_completes c s wf
  exact ⟨t, run, (exec_events c run).pending⟩

end Sys2Proof.Machine
end

section
/-! What is due in an idle part, and what a step of it does (log 1, 2, 32). -/

namespace Sys2Proof.Machine

/-! ## What is due -/

theorem mem_onlyIf {b : Bool} {c d : Instr} : c ∈ onlyIf b d ↔ b = true ∧ c = d := by
  cases b <;> simp [onlyIf]

/-- A response can be taken on a lane when an entry answers there. -/
theorem isSome_takeResponse (l : Index) (q : List Entry) : (takeResponse l q).isSome = true ↔ ∃ e ∈ q, e.answersOn l = true := by
  induction q with
  | nil => simp [takeResponse]
  | cons e rest ih =>
    unfold takeResponse Entry.answersOn
    split
    · next bytes state =>
      split
      · next lane => simp [state, lane]
      · next lane => simpa [state, lane, Entry.answersOn] using ih
    · next state => simpa [state, Entry.answersOn] using ih

theorem laneFree_iff (s : State) (side : Side) (l : Index) : laneFree s side l = true ↔ (Tab.get (s.tx side) l).underWay = none :=
  Option.isNone_iff_eq_none

theorem mem_dueExecutions {s : State} {c : Instr} :
    c ∈ dueExecutions s ↔ ∃ r, earliestWaiting s.mga.queue = some r ∧ c = rowOf r := by
  unfold dueExecutions
  cases earliestWaiting s.mga.queue <;> simp

theorem mem_dueOnLane {s : State} {l : Index} {c : Instr} : c ∈ dueOnLane s l ↔
    (c = .echoDeparture (portOf l) (laneOf l) ∧ Tab.get s.ers l ≠ none ∧ (Tab.get s.fsu.lineTx l).underWay = none)
    ∨ (c = .responseDeparture (portOf l) (laneOf l) ∧ (∃ e ∈ s.mga.queue, e.answersOn l = true)
        ∧ (Tab.get s.fsu.systemTx l).underWay = none)
    ∨ (∃ h rest, c = .deskewHoldExpiry (portOf l) (laneOf l) ∧ Tab.get s.fsu.holds l = h :: rest ∧ h.remaining = 0) := by
  have echo : (Tab.get s.ers l).isSome = true ↔ Tab.get s.ers l ≠ none := Option.isSome_iff_ne_none
  have hold : ((Tab.get s.fsu.holds l).head?.any fun h => h.remaining == 0) = true
      ↔ ∃ h rest, Tab.get s.fsu.holds l = h :: rest ∧ h.remaining = 0 := by
    cases Tab.get s.fsu.holds l <;> simp
  unfold dueOnLane
  rw [List.mem_append, List.mem_append, mem_onlyIf, mem_onlyIf, mem_onlyIf, Bool.and_eq_true, Bool.and_eq_true, echo, hold,
    laneFree_iff, laneFree_iff, isSome_takeResponse, or_assoc]
  refine or_congr and_comm (or_congr and_comm ⟨?_, ?_⟩)
  · rintro ⟨⟨h, rest, held, ended⟩, row⟩
    exact ⟨h, rest, row, held, ended⟩
  · rintro ⟨h, rest, row, held, ended⟩
    exact ⟨⟨h, rest, held, ended⟩, row⟩

theorem mem_dueAtSlot {s : State} {k : Fin 8} {c : Instr} : c ∈ dueAtSlot s k ↔
    (∃ g i, c = .probeDeparture k ∧ (Tab.get s.psc.slots k).state = .granted g i
      ∧ (Tab.get s.fsu.lineTx (laneAt g i.val)).underWay = none ∧ Tab.get s.ers (laneAt g i.val) = none)
    ∨ (∃ g i sendTime timeout deadline, c = .probeDeadlineExpiry k
        ∧ (Tab.get s.psc.slots k).state = .sent g i sendTime timeout deadline ∧ timeout ≤ (s.psc.now - sendTime).toNat) := by
  unfold dueAtSlot
  split
  · next state => simp [state]
  · next g i state =>
    rw [mem_onlyIf, Bool.and_eq_true, laneFree_iff, Option.isNone_iff_eq_none, State.tx, state]
    constructor
    · rintro ⟨⟨free, quiet⟩, row⟩
      exact .inl ⟨g, i, row, rfl, free, quiet⟩
    · rintro (⟨_, _, row, ⟨⟩, free, quiet⟩ | ⟨_, _, _, _, _, _, ⟨⟩, _⟩)
      exact ⟨⟨free, quiet⟩, row⟩
  · next g i sendTime timeout deadline state =>
    rw [mem_onlyIf, decide_eq_true_iff, state]
    constructor
    · rintro ⟨late, row⟩
      exact .inr ⟨g, i, sendTime, timeout, deadline, row, rfl, late⟩
    · rintro (⟨_, _, _, ⟨⟩, _⟩ | ⟨_, _, _, _, _, row, ⟨⟩, late⟩)
      exact ⟨late, row⟩

theorem mem_dueAtContext {s : State} {g : Index} {c : Instr} : c ∈ dueAtContext s g ↔
    (c = .lockTimerExpiry g ∧ (s.ctx g).timer = some { kind := .lock, remaining := 0 })
    ∨ (c = .agreementTimerExpiry g ∧ (s.ctx g).timer = some { kind := .agreement, remaining := 0 })
    ∨ (c = .retryTimerExpiry g ∧ (s.ctx g).timer = some { kind := .retry, remaining := 0 })
    ∨ (c = .agreementPollExpiry g ∧ (s.ctx g).poll = some 0) := by
  unfold dueAtContext
  rw [List.mem_append, mem_onlyIf, beq_iff_eq, ← or_assoc, ← or_assoc, and_comm (b := c = .agreementPollExpiry g)]
  refine or_congr_left ?_
  rcases (s.ctx g).timer with _ | ⟨kind, remaining⟩
  · simp
  · cases kind <;> simp [mem_onlyIf, and_comm]

theorem mem_dueRows {s : State} {c : Instr} : c ∈ dueRows s ↔
    c ∈ dueExecutions s ∨ (∃ l, c ∈ dueOnLane s l) ∨ (∃ k, c ∈ dueAtSlot s k) ∨ (∃ g, c ∈ dueAtContext s g)
    ∨ (c = .inventoryIntervalExpiry ∧ s.ciu.timer = some 0) ∨ (c = .sweepStep ∧ s.sws.timer = some 0) := by
  unfold dueRows
  simp only [List.mem_append, List.mem_flatMap, mem_onlyIf, mem_indices, List.mem_finRange, true_and, beq_iff_eq, or_assoc,
    and_comm (b := c = Instr.inventoryIntervalExpiry), and_comm (b := c = Instr.sweepStep)]

theorem dueEvents_running {s : State} (run : s.inReset = false) :
    dueEvents s = (dueRows s).map .row ++ match s.ciu.handed with
      | [] => []
      | _ :: _ => [.portChange] :=
  if_neg (by rw [run]; decide)

theorem row_mem_dueEvents {s : State} (run : s.inReset = false) (c : Instr) : .row c ∈ dueEvents s ↔ c ∈ dueRows s := by
  rw [dueEvents_running run]
  cases s.ciu.handed <;> simp

theorem portChange_mem_dueEvents {s : State} (run : s.inReset = false) : .portChange ∈ dueEvents s ↔ s.ciu.handed ≠ [] := by
  rw [dueEvents_running run]
  cases s.ciu.handed <;> simp

/-! ## What a step takes -/

theorem step_of_nextOwn {s t : State} {e : OwnEvent} (idle : s.pending = []) (own : nextOwn s = some (e, t)) : step s = e.run t := by
  unfold step
  rw [idle]
  dsimp only
  rw [own]

theorem step_of_nothing_due {s : State} (idle : s.pending = []) (none : nextOwn s = none) : step s = .next s.tick := by
  unfold step
  rw [idle]
  dsimp only
  rw [none]

theorem nextOwn_none {s : State} (due : dueEvents s = []) : nextOwn s = none := by
  unfold nextOwn
  rw [due]

theorem nextOwn_one {s : State} {e : OwnEvent} (due : dueEvents s = [e]) : nextOwn s = some (e, s) := by
  unfold nextOwn
  rw [due]

theorem nextOwn_several {s : State} {c d : OwnEvent} {rest : List OwnEvent} (due : dueEvents s = c :: d :: rest) :
    ∃ e ∈ dueEvents s, nextOwn s = some (e, { s with turn := s.turn + 1 }) := by
  have bound : Config.dueChoice s.turn % (rest.length + 2) < (c :: d :: rest).length := Nat.mod_lt _ (Nat.succ_pos _)
  refine ⟨(c :: d :: rest)[Config.dueChoice s.turn % (rest.length + 2)], ?_, ?_⟩
  · rw [due]
    exact List.getElem_mem _
  · unfold nextOwn
    rw [due]
    dsimp only
    rw [List.getD_eq_getElem _ _ bound]

/-- An idle part takes an event that is due, or a tick if there is none (log 1, 2). -/
theorem step_of_due {s : State} (idle : s.pending = []) :
    (dueEvents s = [] → step s = .next s.tick)
      ∧ (∀ e, dueEvents s = [e] → step s = e.run s)
      ∧ ∀ c d rest, dueEvents s = c :: d :: rest → ∃ e ∈ dueEvents s, step s = e.run { s with turn := s.turn + 1 } := by
  refine ⟨fun due => step_of_nothing_due idle (nextOwn_none due), fun e due => step_of_nextOwn idle (nextOwn_one due),
    fun c d rest due => ?_⟩
  obtain ⟨e, mem, own⟩ := nextOwn_several due
  exact ⟨e, mem, step_of_nextOwn idle own⟩

/-! ## The row of a request -/

theorem rowOf_unknown {r : ControlRequest} (unknown : r.code ∉ commandCodes) : rowOf r = .unknownCommand := by
  unfold rowOf
  split
  case h_20 => rfl
  all_goals
    next code => exact absurd (by rw [code]; decide) unknown

/-- The rows of the command codes but GROUP ACTION's. -/
theorem rowOf_code {r : ControlRequest} {x : Nat × Instr} (mem : x ∈ ([(1, .readIdentity), (2, .setIdentity), (16, .writePlanEntry),
    (17, .readPlanEntry), (18, .writeClassEntry), (19, .readClassEntry), (20, .writeProfile), (21, .readProfile),
    (22, .writeFrameClass), (23, .readFrameClass), (32, .writeSettings), (33, .readSettings), (48, .readGroup), (49, .readInventory),
    (50, .readNotices), (51, .readCounters), (80, .sweepControl), (96, .softReset)] : List (Nat × Instr))) (code : r.code = x.1) :
    rowOf r = x.2 := by
  unfold rowOf
  rw [code]
  fin_cases mem <;> rfl

/-- The row of a GROUP ACTION request (R191). -/
theorem rowOf_groupAction {r : ControlRequest} {a b : Byte} (code : r.code = 64) (args : r.args = [a, b]) :
    (b.getLsbD 2 = true → rowOf r = .groupActionHold)
      ∧ (b.getLsbD 2 = false → b.getLsbD 1 = true → rowOf r = .groupActionResume)
      ∧ (b.getLsbD 2 = false → b.getLsbD 1 = false → b.getLsbD 0 = true → rowOf r = .groupActionRecheck) := by
  have row : rowOf r = if wantsAction .hold r then .groupActionHold
      else if wantsAction .resume r then .groupActionResume else .groupActionRecheck := by
    unfold rowOf
    rw [code]
    rfl
  have wants : ∀ x, wantsAction x r = ((pickAction b).isNone || pickAction b == some x) := fun x => by
    simp [wantsAction, code, args]
  rw [row, wants, wants]
  refine ⟨fun hold => ?_, fun hold resume => ?_, fun hold resume recheck => ?_⟩
  · have pick : pickAction b = some .hold := if_pos hold
    rw [pick]
    rfl
  · have pick : pickAction b = some .resume := by rw [pickAction, hold, resume]; rfl
    rw [pick]
    rfl
  · have pick : pickAction b = some .recheck := by rw [pickAction, hold, resume, recheck]; rfl
    rw [pick]
    rfl

/-! ## The obligation -/

/-- What is due on the lanes, port by port and lane number by lane number. -/
theorem exists_mem_dueOnLane {s : State} {c : Instr} : (∃ l, c ∈ dueOnLane s l) ↔
    (∃ p j, c = .echoDeparture p j ∧ Tab.get s.ers (cell p j) ≠ none ∧ (Tab.get s.fsu.lineTx (cell p j)).underWay = none)
    ∨ (∃ p j, c = .responseDeparture p j ∧ (∃ e ∈ s.mga.queue, e.answersOn (cell p j) = true)
        ∧ (Tab.get s.fsu.systemTx (cell p j)).underWay = none)
    ∨ (∃ p j h rest, c = .deskewHoldExpiry p j ∧ Tab.get s.fsu.holds (cell p j) = h :: rest ∧ h.remaining = 0) := by
  have cells : (∃ l, c ∈ dueOnLane s l) ↔ ∃ p j, c ∈ dueOnLane s (cell p j) :=
    ⟨fun ⟨l, due⟩ => ⟨portOf l, laneOf l, by rwa [cell_portOf_laneOf]⟩, fun ⟨p, j, due⟩ => ⟨cell p j, due⟩⟩
  rw [cells]
  simp only [mem_dueOnLane, portOf_cell, laneOf_cell, exists_or]

theorem tick_inReset {s : State} (reset : s.inReset = true) : s.tick = s := if_pos reset

/-- One tick of a running part, with each context and each list of holds (R108; log 1). -/
theorem tick_running {s : State} (run : s.inReset = false) :
    ∃ (contexts : Tab Context 64) (holds : Tab (List HeldFrame) 64),
      s.tick =
        { s with
          psc := { s.psc with now := s.psc.now + 1 }
          buc := { s.buc with contexts := contexts }
          fsu := { s.fsu with holds := holds }
          ciu := { s.ciu with
            timer := s.ciu.timer.map fun n => n - 1
            elapsed := if s.ciu.inProgress then min (s.ciu.elapsed + 1) 130000 else s.ciu.elapsed }
          sws := { s.sws with timer := s.sws.timer.map fun n => n - 1 } }
      ∧ (s.psc.now + 1).toNat = (s.psc.now.toNat + 1) % 2 ^ 32
      ∧ (∀ g, Tab.get contexts g =
          { s.ctx g with
            timer := (s.ctx g).timer.map fun x => { x with remaining := x.remaining - 1 }
            poll := (s.ctx g).poll.map fun n => n - 1 })
      ∧ ∀ l, Tab.get holds l = (Tab.get s.fsu.holds l).map fun h => { h with remaining := h.remaining - 1 } :=
  ⟨_, _, if_neg (by rw [run]; decide), BitVec.toNat_add .., fun _ => Tab.get_map .., fun _ => Tab.get_map ..⟩

/-- Settles O2: what is due is read off the list of due events part by part, and a step takes one of them or a tick. -/
theorem emptyQueueTakesDueEventOrTick : Obligations.EmptyQueueTakesDueEventOrTick := by
  unfold Obligations.EmptyQueueTakesDueEventOrTick
  refine ⟨fun s idle => step_of_due idle, fun c s => rfl, fun s reset => ⟨tick_inReset reset, if_pos reset⟩, fun s run => tick_running run,
    fun s run => portChange_mem_dueEvents run, fun s run c => ?_,
    fun r => ⟨rowOf_unknown, fun x mem code => rowOf_code mem code, fun a b code args => rowOf_groupAction code args⟩⟩
  rw [row_mem_dueEvents run, mem_dueRows, mem_dueExecutions, exists_mem_dueOnLane]
  simp only [mem_dueAtSlot, mem_dueAtContext, exists_or, or_assoc]

end Sys2Proof.Machine
end

section
/-! Frames at the lanes and at the gates: admission, interception, malformed frames, the end of a frame, and the gate write (R3 to R18). -/

namespace Sys2Proof.Machine

/-! ## The gate's answer -/

/-- The traffic class is bits 11-9 of the lead word (01 section 1.2). -/
theorem trafficClass_eq (lead : LeadWord) : trafficClass lead = lead.toNat / 512 % 8 := by
  unfold trafficClass
  rw [BitVec.extractLsb'_toNat, Nat.shiftRight_eq_div_pow]

/-- Which classes a gate admits, state by state (R14). -/
theorem admits_eq (cpt : Cpt) (gate : GateState) (profile : Fin 8) (lead : LeadWord) :
    admits cpt gate profile (trafficClass lead) = match gate with
      | .closed => false
      | .openVerified => (Tab.get cpt.profiles profile).verified.getLsbD (lead.toNat / 512 % 8)
      | .openDegraded => (Tab.get cpt.profiles profile).degraded.getLsbD (lead.toNat / 512 % 8) := by
  rw [trafficClass_eq]
  cases gate <;> rfl

/-- The frame that goes on from lane l, where group g's steering map sends it (R17). -/
def steeredFrame (s : State) (side : Side) (g l : Index) (frame : Incoming) : DataFrame where
  lead := frame.lead
  content := frame.content
  source := side
  group := g
  out := laneAt g (steerOffset (s.path g).map (s.entry g).fields.width.lanes (offsetIn g l).val)

theorem judge_uncovered {s : State} {l : Index} (side : Side) (frame : Incoming) (free : covering s.cpt.plan l = none) :
    judge s side l frame = .fenced l := by
  unfold judge
  rw [free]

theorem judge_covered {s : State} {l g : Index} (side : Side) (frame : Incoming) (covered : covering s.cpt.plan l = some g) :
    judge s side l frame = if admits s.cpt (s.path g).gate (s.path g).profile (trafficClass frame.lead)
      then .admitted (steeredFrame s side g l frame) else .fenced g := by
  unfold judge
  rw [covered]
  rfl

theorem judge_admitted {s : State} {l g : Index} (side : Side) {frame : Incoming} (covered : covering s.cpt.plan l = some g)
    (passes : admits s.cpt (s.path g).gate (s.path g).profile (trafficClass frame.lead) = true) :
    judge s side l frame = .admitted (steeredFrame s side g l frame) := by
  rw [judge_covered side frame covered, if_pos passes]

theorem judge_fenced {s : State} {l g : Index} (side : Side) {frame : Incoming} (covered : covering s.cpt.plan l = some g)
    (stopped : admits s.cpt (s.path g).gate (s.path g).profile (trafficClass frame.lead) = false) :
    judge s side l frame = .fenced g := by
  rw [judge_covered side frame covered, if_neg (by rw [stopped]; decide)]

/-! ## Settled lanes -/

theorem LanesSettled.setSystemRx {s : State} (h : LanesSettled s) (l : Index) (r : SystemRx) : LanesSettled (s.setSystemRx l r) :=
  h.same (fun side => by cases side <;> rfl) rfl rfl rfl

theorem LanesSettled.setLineRx {s : State} (h : LanesSettled s) (l : Index) (r : LineRx) : LanesSettled (s.setLineRx l r) :=
  h.same (fun side => by cases side <;> rfl) rfl rfl rfl

theorem LanesSettled.setHolds {s : State} (h : LanesSettled s) (l : Index) (held : List HeldFrame) : LanesSettled (s.setHolds l held) :=
  h.same (fun side => by cases side <;> rfl) rfl rfl rfl

theorem LanesSettled.modPath {s : State} (h : LanesSettled s) (g : Index) (f : GroupPath → GroupPath) : LanesSettled (s.modPath g f) :=
  h.same (fun side => by cases side <;> rfl) rfl rfl rfl

theorem LanesSettled.clearRx {s : State} (h : LanesSettled s) (side : Side) (l : Index) : LanesSettled (s.clearRx side l) := by
  cases side with
  | system => exact h.setSystemRx l .none
  | line => exact h.setLineRx l .none

/-! ## Judgements carried out -/

/-- A fenced frame is counted once (R14, R16). -/
theorem handle_fenced {s : State} (h : LanesSettled s) (l i : Index) :
    (s.handle l (.fenced i)).arbitrate = s.modPath i fun q => { q with fenced := satInc q.fenced } :=
  arbitrate_settled (h.modPath i _)

/-- An admitted frame from the system side is offered to its line transmit lane (R14, R5). -/
theorem handle_system {s : State} (h : LanesSettled s) (l : Index) {f : DataFrame} (source : f.source = .system) :
    (s.handle l (.admitted f)).arbitrate = s.offerFrame .line f := by
  have passed : s.handle l (.admitted f) = s.buffer .line f := by
    unfold State.handle
    dsimp only
    rw [source]
  rw [passed, buffer_arbitrate h]

/-- An admitted frame from the line side is held for its line lane's compensation (R18). -/
theorem handle_line {s : State} (h : LanesSettled s) (l : Index) {f : DataFrame} (source : f.source = .line) :
    (s.handle l (.admitted f)).arbitrate = s.setHolds l
      (Tab.get s.fsu.holds l ++ [{ frame := f, remaining := Tab.get (s.path f.group).comps (offsetIn f.group l) }]) := by
  have held : s.handle l (.admitted f) = s.setHolds l
      (Tab.get s.fsu.holds l ++ [{ frame := f, remaining := Tab.get (s.path f.group).comps (offsetIn f.group l) }]) := by
    unfold State.handle
    dsimp only
    rw [source]
    rfl
  rw [held, arbitrate_settled (h.setHolds l _)]

/-! ## Lead words -/

theorem leadWord_system {s : State} (run : s.inReset = false) (p : Fin 16) (j : Fin 4) (frame : Incoming) :
    exec (.leadWordArrival .system p j frame) s = .next (s.systemLead (cell p j) frame).arbitrate := by
  show execLeadWordArrival .system p j frame s = _
  unfold execLeadWordArrival
  rw [unlessReset_running _ run]

theorem leadWord_line {s : State} (run : s.inReset = false) {p : Fin 16} {j : Fin 4} (locked : s.rx (cell p j) = .locked)
    (frame : Incoming) : exec (.leadWordArrival .line p j frame) s = .next (s.lineLead (cell p j) frame).arbitrate := by
  show execLeadWordArrival .line p j frame s = _
  unfold execLeadWordArrival
  rw [unlessReset_running _ run]
  exact congrArg Host.Outcome.next (if_pos locked)

/-- Data goes to the gate; from the line side a control frame does too (R9, R10). -/
theorem leadWord_data {s : State} (run : s.inReset = false) {side : Side} {p : Fin 16} {j : Fin 4} {frame : Incoming}
    (locked : side = .line → s.rx (cell p j) = .locked)
    (data : actionOf s frame.lead = .passData ∨ side = .line ∧ actionOf s frame.lead = .control) :
    exec (.leadWordArrival side p j frame) s
      = .next ((s.clearRx side (cell p j)).handle (cell p j) (judge s side (cell p j) frame)).arbitrate := by
  cases side with
  | system =>
    have pass : actionOf s frame.lead = .passData := data.resolve_right fun x => nomatch x.1
    rw [leadWord_system run]
    unfold State.systemLead
    rw [pass]
    rfl
  | line =>
    rw [leadWord_line run (locked rfl)]
    unfold State.lineLead
    rcases data with pass | ⟨-, control⟩
    · rw [pass]
      rfl
    · rw [control]
      rfl

/-- Settles O11: no gate admits the frame, so it is fenced, and the lanes are settled already. -/
theorem fencedDataFrameIsCounted : Obligations.FencedDataFrameIsCounted := by
  unfold Obligations.FencedDataFrameIsCounted
  intro s side p j frame i run settled
  dsimp only
  intro locked data stopped
  have fenced : judge s side (cell p j) frame = .fenced i := by
    rcases stopped with ⟨free, rfl⟩ | ⟨covered, stopped⟩
    · exact judge_uncovered side frame free
    · exact judge_fenced side covered ((admits_eq ..).trans stopped)
  rw [leadWord_data run locked data, fenced, handle_fenced (settled.clearRx side _)]

/-- Settles O12: the gate admits the frame where its steering map sends it, from the line side by way of a hold. -/
theorem admittedFramesAreSteered : Obligations.AdmittedFramesAreSteered := by
  unfold Obligations.AdmittedFramesAreSteered
  dsimp only
  refine ⟨fun s p j frame g run settled covered passes => ?_, fun s p j h rest run settled held => ?_⟩
  · have admitted := (admits_eq s.cpt (s.path g).gate (s.path g).profile frame.lead).trans passes
    refine ⟨fun data => ?_, fun locked data => ?_⟩
    · rw [leadWord_data (side := .system) run nofun (.inl data), judge_admitted .system covered admitted]
      exact congrArg Host.Outcome.next (handle_system (settled.clearRx .system _) _ rfl)
    · rw [leadWord_data (side := .line) run (fun _ => locked) (data.imp_right fun control => ⟨rfl, control⟩), judge_admitted .line covered admitted]
      exact congrArg Host.Outcome.next (handle_line (settled.clearRx .line _) _ rfl)
  · have ends : exec (.deskewHoldExpiry p j) s = .next ((s.setHolds (cell p j) rest).buffer .system h.frame).arbitrate := by
      show execDeskewHoldExpiry p j s = _
      unfold execDeskewHoldExpiry
      rw [unlessReset_running _ run, held]
      rfl
    rw [ends, buffer_arbitrate (settled.setHolds _ _)]

/-- Settles O13: only data is judged; each other action is intercepted or discarded by its side. -/
theorem otherFramesInterceptedOrDiscarded : Obligations.OtherFramesInterceptedOrDiscarded := by
  unfold Obligations.OtherFramesInterceptedOrDiscarded
  intro s p j frame run settled
  have line : ∀ r, s.rx (cell p j) = .locked → s.lineLead (cell p j) frame = s.setLineRx (cell p j) r →
      exec (.leadWordArrival .line p j frame) s = .next (s.setLineRx (cell p j) r) := fun r locked lead => by
    rw [leadWord_line run locked, lead, arbitrate_settled (settled.setLineRx _ r)]
  have system : ∀ r, s.systemLead (cell p j) frame = s.setSystemRx (cell p j) r →
      exec (.leadWordArrival .system p j frame) s = .next (s.setSystemRx (cell p j) r) := fun r lead => by
    rw [leadWord_system run, lead, arbitrate_settled (settled.setSystemRx _ r)]
  refine ⟨fun locked => ⟨fun probe => line _ locked ?_, fun echo => line _ locked ?_, fun drop => line _ locked ?_⟩,
    fun control => system _ ?_, fun other => system _ ?_⟩
  · unfold State.lineLead
    rw [probe]
  · unfold State.lineLead
    rw [echo]
  · unfold State.lineLead
    rw [drop]
  · unfold State.systemLead
    rw [control]
  · unfold State.systemLead
    rcases other with probe | echo | drop
    · rw [probe]
    · rw [echo]
    · rw [drop]

/-! ## Target fields -/

/-- The part a control frame's target fields address (R10). -/
theorem addressed_iff (id : Identity) (target : BitVec 16) : addressed id target = true ↔
    (id.assigned = true ∧ target.toNat / 16 = id.chassis ∧ (target.toNat % 16 = id.unit ∨ target.toNat % 16 = 15))
      ∨ (id.assigned = false ∧ target.toNat / 16 = 4095) := by
  unfold addressed chassisOf unitOf
  cases id.assigned <;> simp

theorem targetFields_addressed {s : State} (run : s.inReset = false) {p : Fin 16} {j : Fin 4} {lead : LeadWord} {target : BitVec 16}
    {jd : Judgement} (waits : Tab.get s.fsu.systemRx (cell p j) = .awaitingTarget lead jd)
    (mine : addressed s.mga.identity target = true) :
    exec (.targetFieldsArrival p j target) s = .next (s.setSystemRx (cell p j) (.control lead target)) := by
  show execTargetFieldsArrival p j target s = _
  unfold execTargetFieldsArrival
  rw [unlessReset_running _ run, waits]
  exact congrArg Host.Outcome.next (if_pos mine)

theorem targetFields_other {s : State} (run : s.inReset = false) {p : Fin 16} {j : Fin 4} {lead : LeadWord} {target : BitVec 16}
    {jd : Judgement} (waits : Tab.get s.fsu.systemRx (cell p j) = .awaitingTarget lead jd)
    (other : ¬addressed s.mga.identity target = true) :
    exec (.targetFieldsArrival p j target) s = .next (((s.setSystemRx (cell p j) .none).handle (cell p j) jd).arbitrate) := by
  show execTargetFieldsArrival p j target s = _
  unfold execTargetFieldsArrival
  rw [unlessReset_running _ run, waits]
  exact congrArg Host.Outcome.next (if_neg other)

/-- Settles O14: the target fields decide whether the part keeps the frame or the gate's answer of its lead word is carried out. -/
theorem controlFrameJudgedByItsTarget : Obligations.ControlFrameJudgedByItsTarget := by
  unfold Obligations.ControlFrameJudgedByItsTarget
  intro s p j lead target jd run settled waits
  dsimp only
  rw [← addressed_iff]
  have cleared := settled.setSystemRx (cell p j) .none
  refine ⟨fun mine => targetFields_addressed run waits mine, fun other i fenced => ?_, fun other f admitted source => ?_⟩
  · rw [targetFields_other run waits other, fenced, handle_fenced cleared]
  · rw [targetFields_other run waits other, admitted, handle_system cleared _ source]

/-! ## Malformed frames -/

theorem readProbe_malformed {rest : List Byte} (bad : rest.length ≠ 10 ∨ 15 < at8 rest 7 ∨ 3 < at8 rest 8) : readProbe rest = none :=
  if_neg (by omega)

theorem readEcho_malformed {rest : List Byte} (bad : rest.length ≠ 12 ∨ 15 < at8 rest 7 ∨ 3 < at8 rest 8) : readEcho rest = none :=
  if_neg (by omega)

theorem readRequest_malformed {rest : List Byte} (lead : LeadWord) (target : BitVec 16) (l : Index)
    (bad : rest.length < 4 ∨ 120 < at8 rest 3 ∨ rest.length - 4 < at8 rest 3) : readRequest lead target l rest = none :=
  if_neg (by omega)

/-- Settles O15: each reading fails on a malformed frame, and the counter goes up. -/
theorem malformedFramesAreCounted : Obligations.MalformedFramesAreCounted := by
  unfold Obligations.MalformedFramesAreCounted
  intro s p j rest run
  dsimp only
  refine ⟨?_, fun locked => ?_, fun a rx bad => ?_, fun a rx bad => ?_, fun lead target rx bad => ?_⟩
  · show execShortFrameDiscard .system p j s = _
    unfold execShortFrameDiscard
    rw [unlessReset_running _ run]
    rfl
  · show execShortFrameDiscard .line p j s = _
    unfold execShortFrameDiscard
    rw [unlessReset_running _ run]
    exact congrArg Host.Outcome.next (if_pos locked)
  · show execProbeReceived p j rest s = _
    unfold execProbeReceived
    rw [unlessReset_running _ run, rx]
    dsimp only
    rw [readProbe_malformed bad]
    rfl
  · show execEchoReceived p j rest s = _
    unfold execEchoReceived
    rw [unlessReset_running _ run, rx]
    dsimp only
    rw [readEcho_malformed bad]
    rfl
  · show execControlRequestReceived p j rest s = _
    unfold execControlRequestReceived
    rw [unlessReset_running _ run, rx]
    dsimp only
    rw [readRequest_malformed _ _ _ bad]
    rfl

/-! ## The end of a frame, and the gate write -/

/-- Settles O16: among settled lanes only the lane whose frame has ended takes another. -/
theorem frameEndGivesTheLaneOn : Obligations.FrameEndGivesTheLaneOn := by
  unfold Obligations.FrameEndGivesTheLaneOn
  intro s side p j f abortMark run settled underWay
  show execFrameUnderWayEnd side p j abortMark s = _
  unfold execFrameUnderWayEnd
  rw [unlessReset_running _ run, finish_arbitrate settled side _ abortMark underWay]

/-- Settles O17: the frames the gate write keeps are those the obligation says it admits. -/
theorem gateWriteCutsFramesUnderWay : Obligations.GateWriteCutsFramesUnderWay := by
  unfold Obligations.GateWriteCutsFramesUnderWay
  intro s g gate profile
  dsimp only
  refine ⟨by rw [path_writeGate], by rw [path_writeGate], ?_, fun h ne => path_writeGate_ne s gate profile ne⟩
  convert framesCut_writeGate s g gate profile using 1
  funext f
  exact congrArg ((f.group != g) || ·) (admits_eq ..).symm

end Sys2Proof.Machine
end

section
/-! The reset line, the state after reset, and the lane fronts (R1 to R3, R20). -/

namespace Sys2Proof.Machine

/-! ## The part held in reset, and after it -/

theorem path_heldInReset (g : Index) : State.heldInReset.path g = GroupPath.reset := Tab.get_fill ..

theorem ctx_heldInReset (g : Index) : State.heldInReset.ctx g = Context.reset := Tab.get_fill ..

theorem entry_heldInReset (g : Index) : State.heldInReset.entry g = { enabled := false, fields := PlanFields.reset } := Tab.get_fill ..

theorem ctx_reset (g : Index) : State.reset.ctx g = Context.reset := Tab.get_fill ..

theorem path_reset (g : Index) : State.reset.path g = GroupPath.reset := Tab.get_fill ..

theorem slots_reset (k : Fin 8) : Tab.get State.reset.psc.slots k = { generation := 0, state := .free } := Tab.get_fill ..

theorem tx_reset (side : Side) (l : Index) : Tab.get (State.reset.tx side) l = TxLane.reset := by
  cases side <;> exact Tab.get_fill ..

/-- Settles O4, block by block. -/
theorem resetAssertLoadsHardwareReset : Obligations.ResetAssertLoadsHardwareReset := by
  unfold Obligations.ResetAssertLoadsHardwareReset
  intro s
  refine ⟨s.assertReset, rfl, rfl, fun g => (path_assertReset s g).trans (path_heldInReset g), fun side l => ?_, fun l => Tab.get_fill ..,
    fun k => Tab.get_build .., rfl, fun l => ⟨Tab.get_fill .., Tab.get_fill .., Tab.get_fill ..⟩,
    fun g => (entry_assertReset s g).trans (entry_heldInReset g), fun c => Tab.get_build .., fun p => Tab.get_fill ..,
    fun p => Tab.get_fill .., rfl, rfl, rfl, rfl, fun g => (ctx_assertReset s g).trans (ctx_heldInReset g), fun l => Tab.get_fill ..,
    rfl, rfl, rfl, rfl, fun k => Tab.get_fill .., fun l => Tab.get_fill .., rfl, rfl, rfl, rfl, rfl, rfl⟩
  rw [tx_assertReset]
  exact ⟨rfl, rfl⟩

/-- Where the Sweep Scheduler is not OFF its step timer starts (R167). -/
theorem startStepTimer_on {s : State} (on : s.sws.mode ≠ .off) :
    s.startStepTimer = { s with sws := { s.sws with timer := some (1000 * s.mga.settings.sweepInterval) } } := by
  unfold State.startStepTimer
  rw [if_neg on]
  rfl

/-- The release of a part in reset starts a chain read and the step timer, unless a read is under way or the scheduler OFF (R20). -/
theorem execResetRelease_inReset {s : State} (reset : s.inReset = true) (idle : s.ciu.inProgress = false) (on : s.sws.mode ≠ .off) :
    exec .resetRelease s = .next
      { s with
        inReset := false
        ciu := { s.ciu with inProgress := true, timer := some (1000000 * s.mga.settings.inventoryInterval), elapsed := 0 }
        sws := { s.sws with timer := some (1000 * s.mga.settings.sweepInterval) } } := by
  have read : ({ s with inReset := false } : State).triggerRead = ({ s with inReset := false } : State).startRead :=
    if_neg (by rw [idle]; decide)
  have timer := startStepTimer_on (s := ({ s with inReset := false } : State).startRead) on
  show execResetRelease s = _
  unfold execResetRelease
  rw [if_pos reset, read]
  exact congrArg Host.Outcome.next timer

/-- Settles O5. -/
theorem releaseStartsReadAndSweep : Obligations.ReleaseStartsReadAndSweep := by
  unfold Obligations.ReleaseStartsReadAndSweep
  exact ⟨fun s reset idle on => execResetRelease_inReset reset idle on, execResetRelease_inReset rfl rfl (by decide)⟩

/-- No context is past a verdict right after reset. -/
theorem openRecordsConsistent_reset : OpenRecordsConsistent State.reset := by
  intro g passed
  rw [ctx_reset] at passed
  rcases passed with ⟨⟨⟩⟩ | ⟨⟨⟩⟩ | ⟨⟨⟩⟩

theorem recordsInRange_reset : RecordsInRange State.reset := by
  have cleared : ∀ g i, Tab.get (State.reset.ctx g).record.lanes i = LaneRecord.cleared := fun g i => by
    rw [ctx_reset]
    exact Tab.get_fill ..
  exact
    { estimate := fun g i E is => by rw [cleared] at is; cases is
      length := fun g i n is => by rw [cleared] at is; cases is
      comp := fun g i n is => by rw [cleared] at is; cases is
      missRun := fun g i => by rw [cleared]; exact Nat.zero_le 3
      echoCount := fun g i => by rw [cleared]; exact Nat.zero_le 16
      skew := fun g n is => by rw [ctx_reset] at is; cases is
      loaded := fun g i => by
        have zero : Tab.get GroupPath.reset.comps i = 0 := Tab.get_fill ..
        rw [path_reset, zero]
        exact Nat.zero_le 63 }

/-- With no request and every slot FREE the scheduler is consistent, whatever it is for. -/
theorem schedulerConsistent_of_empty {s : State} (queue : s.psc.queue = []) (holder : s.psc.holder = none)
    (free : ∀ k, (Tab.get s.psc.slots k).state = .free) : SchedulerConsistent s where
  oneRequest := by rw [queue]; exact List.nodup_nil
  holder h is := by rw [holder] at is; cases is
  owned k g is := by rw [free] at is; cases is
  flying r mem := absurd (queue ▸ mem) List.not_mem_nil
  offsets k k' g i is := by rw [free] at is; cases is
  rounds r mem := absurd (queue ▸ mem) List.not_mem_nil

theorem lanesDistinct_of_empty {s : State} (queue : s.psc.queue = []) (free : ∀ k, (Tab.get s.psc.slots k).state = .free) :
    LanesDistinct s where
  planned r mem := absurd (queue ▸ mem) List.not_mem_nil
  covered k g i is := by rw [free] at is; cases is
  oneProbe k k' g i g' i' is := by rw [free] at is; cases is

theorem queuesValid_reset : QueuesValid State.reset where
  requests := Nat.zero_le _
  subjects n mem := absurd mem List.not_mem_nil
  distinct := List.nodup_nil
  marks pending := by cases pending
  contexts := List.nodup_nil
  changes e mem := absurd mem List.not_mem_nil

theorem closedGatesIdle_reset : ClosedGatesIdle State.reset := by
  refine closedGatesIdle_of_idle fun f => ?_
  rintro (⟨side, l, on⟩ | ⟨l, x, on, is⟩ | ⟨l, lead, on⟩)
  · rw [tx_reset] at on
    exact List.not_mem_nil on
  · have none : Tab.get State.reset.fsu.holds l = [] := Tab.get_fill ..
    rw [none] at on
    exact List.not_mem_nil on
  · have none : Tab.get State.reset.fsu.systemRx l = .none := Tab.get_fill ..
    rw [none] at on
    cases on

/-- Settles O55: right after reset tables hold their reset values, every context is UNPLANNED and every queue empty. -/
theorem resetStateIsValid : Obligations.ResetStateIsValid := by
  unfold Obligations.ResetStateIsValid
  have free : ∀ k, (Tab.get State.reset.psc.slots k).state = .free := fun k => by rw [slots_reset]
  exact ⟨tablesValid_heldInReset.congr rfl rfl rfl rfl, queuesValid_reset,
    contextsValid_heldInReset.congr (fun _ => rfl) (fun _ => rfl) (fun _ => rfl) rfl, openRecordsConsistent_reset,
    recordsInRange_reset, schedulerConsistent_of_empty rfl rfl free, lanesDistinct_of_empty rfl free,
    fun side l _ => .inl (by rw [tx_reset]; rfl), grantsSettled_of_empty rfl, closedGatesIdle_reset⟩

/-! ## Lane fronts -/

theorem lfr_endEvent (s before : State) : (s.endEvent before).lfr = s.lfr := by
  obtain ⟨-, -, -, -, -, -, -, -, receive⟩ := endEvent_rest s before
  exact receive.lfr

/-- What the lane front events change of the front, the lock view and the frame in reception of a lane. -/
theorem loseLock_receive (s : State) (l : Index) (into : RxState) :
    (s.loseLock l into).lfr = Tab.set s.lfr l { state := into, polarity := (Tab.get s.lfr l).polarity }
      ∧ (s.loseLock l into).buc.lockView
        = Tab.set s.buc.lockView l { locked := false, polarity := (Tab.get s.buc.lockView l).polarity }
      ∧ (s.loseLock l into).fsu.lineRx = Tab.set s.fsu.lineRx l .none := by
  obtain ⟨lfr, lineRx, view⟩ := lossEvent_receive ((s.setFront l fun f => { f with state := into }).setLineRx l .none) l
  unfold State.loseLock
  dsimp only
  obtain ⟨-, -, -, -, -, -, -, -, receive⟩ :=
    endEvent_rest (((s.setFront l fun f => { f with state := into }).setLineRx l .none).lossEvent l) s
  exact ⟨receive.lfr.trans lfr, receive.lockView.trans view, receive.lineRx.trans lineRx⟩

theorem lockAchieved_receive (s : State) (l : Index) (inverted : Bool) :
    let t := ((s.setFront l fun _ => { state := .locked, polarity := inverted }).lockEvent l inverted).endEvent s
    t.lfr = Tab.set s.lfr l { state := .locked, polarity := inverted }
      ∧ t.buc.lockView = Tab.set s.buc.lockView l { locked := true, polarity := inverted } ∧ t.fsu.lineRx = s.fsu.lineRx := by
  obtain ⟨lfr, lineRx, view⟩ := lockEvent_receive (s.setFront l fun _ => { state := .locked, polarity := inverted }) l inverted
  obtain ⟨-, -, -, -, -, -, -, -, receive⟩ :=
    endEvent_rest ((s.setFront l fun _ => { state := .locked, polarity := inverted }).lockEvent l inverted) s
  exact ⟨receive.lfr.trans lfr, receive.lockView.trans view, receive.lineRx.trans lineRx⟩

/-- Settles O7, row by row of the table of R1. -/
theorem laneFrontFollowsItsTable : Obligations.LaneFrontFollowsItsTable := by
  unfold Obligations.LaneFrontFollowsItsTable
  intro s p j inverted run
  refine ⟨fun dark => ?_, fun acquiring => ?_, fun acquiring => ?_, fun locked => ⟨?_, ?_⟩⟩
  · show execSignalDetected p j s = _
    unfold execSignalDetected
    rw [unlessReset_running _ run]
    exact congrArg Host.Outcome.next (if_pos dark)
  · show execSignalLost p j s = _
    unfold execSignalLost
    rw [unlessReset_running _ run, acquiring]
    rfl
  · refine ⟨_, ?_, lockAchieved_receive s (cell p j) inverted⟩
    show execLockAchieved p j inverted s = _
    unfold execLockAchieved
    rw [unlessReset_running _ run]
    exact congrArg Host.Outcome.next (if_pos acquiring)
  · refine ⟨_, ?_, loseLock_receive s (cell p j) .acquiring⟩
    show execLockLost p j s = _
    unfold execLockLost
    rw [unlessReset_running _ run]
    exact congrArg Host.Outcome.next (if_pos locked)
  · refine ⟨_, ?_, loseLock_receive s (cell p j) .dark⟩
    show execSignalLost p j s = _
    unfold execSignalLost
    rw [unlessReset_running _ run, locked]

end Sys2Proof.Machine
end

section
/-! The read commands, and the writes of profiles, the Frame Class Table and the settings (R8, R35, R36, R185 to R190). -/

namespace Sys2Proof.Machine

/-! ## Commands that only read -/

/-- The answer of a command that only reads. -/
theorem execute_read {s : State} {r : ControlRequest} {mine : ControlRequest → Bool} (c : Command) (out : s.inReset = false)
    (first : earliestWaiting s.mga.queue = some r) (own : mine r = true) (fits : c.lengths.contains r.args.length = true)
    {reply : Reply} (body : c.body r.args s = (s, reply)) : s.execute mine c = .next (s.respond r reply) := by
  rw [execute_body c out first own fits, body]

theorem hasCode_of {n : Nat} {r : ControlRequest} (code : r.code = n) : hasCode n r = true := beq_iff_eq.2 code

theorem byte_toNat (a : Byte) : byte a.toNat = a := (BitVec.ofNat_toNat 8 a).trans (BitVec.setWidth_eq a)

/-- A lookup of one byte in a table finds the entry of that index. -/
theorem indexArg_byte {a : Byte} {rest : List Byte} {bound : Nat} (h : a.toNat < bound) :
    indexArg (at8 (a :: rest) 0) bound = some ⟨a.toNat, h⟩ := indexArg_of_lt h

theorem indexArg_byte_none {a : Byte} {rest : List Byte} {bound : Nat} (h : bound ≤ a.toNat) :
    indexArg (at8 (a :: rest) 0) bound = none := indexArg_of_le h

theorem body_readProfile_at {s : State} {a : Byte} (h : a.toNat < 8) :
    readProfileCommand.body [a] s = (s, .ok [a, (Tab.get s.cpt.profiles ⟨a.toNat, h⟩).verified,
      (Tab.get s.cpt.profiles ⟨a.toNat, h⟩).degraded]) := by
  unfold readProfileCommand
  dsimp only
  rw [indexArg_byte h]
  dsimp only [profileResult]
  rw [byte_toNat]

theorem body_readProfile_refused {s : State} {a : Byte} (h : 8 ≤ a.toNat) :
    readProfileCommand.body [a] s = (s, .refuse .index) := by
  unfold readProfileCommand
  dsimp only
  rw [indexArg_byte_none h]

theorem body_readGroup_at {s : State} {a : Byte} (h : a.toNat < 64) :
    readGroupCommand.body [a] s = (s, .ok (groupResult s ⟨a.toNat, h⟩)) := by
  unfold readGroupCommand
  dsimp only
  rw [indexArg_byte h]

theorem body_readGroup_refused {s : State} {a : Byte} (h : 64 ≤ a.toNat) :
    readGroupCommand.body [a] s = (s, .refuse .index) := by
  unfold readGroupCommand
  dsimp only
  rw [indexArg_byte_none h]

theorem frameClassResult_eq (s : State) :
    frameClassResult s = (List.finRange 16).map fun k => byte (Tab.get s.fsu.classTable k).code := by
  unfold frameClassResult
  rw [Tab.list_eq, List.map_map]
  rfl

/-- The lane offsets of a snapshot, in order (R189). -/
theorem flatMap_offsets {α : Type} (w : Width) (f : Fin 4 → List α) :
    ((List.finRange 4).filter fun i => decide (i.val < w.lanes)).flatMap f = (List.range w.lanes).flatMap fun i => f (Fin.ofNat 4 i) := by
  cases w <;> rfl

theorem mul_bit (n : Nat) (b : Bool) : n * bit b = if b then n else 0 := by
  cases b
  · exact Nat.mul_zero n
  · exact Nat.mul_one n

theorem mul_bit_isNone {α : Type} (n : Nat) (o : Option α) [Decidable (o = none)] :
    n * bit o.isNone = if o = none then n else 0 := by
  cases o <;> simp [bit]

theorem mul_bit_isSome {α : Type} (n : Nat) (o : Option α) [Decidable (o = none)] :
    n * bit o.isSome = if o = none then 0 else n := by
  cases o <;> simp [bit]

theorem bit_isSome {α : Type} (o : Option α) [Decidable (o = none)] : bit o.isSome = if o = none then 0 else 1 := by
  cases o <;> simp [bit]

theorem bit_isNone {α : Type} (o : Option α) [Decidable (o = none)] : bit o.isNone = if o = none then 1 else 0 := by
  cases o <;> simp [bit]

theorem timerCode_eq (o : Option StateTimer) : timerCode o = match o with
    | none => 0
    | some { kind := .lock, .. } => 1
    | some { kind := .agreement, .. } => 2
    | some { kind := .retry, .. } => 3 := by
  rcases o with _ | ⟨kind, remaining⟩
  · rfl
  · cases kind <;> rfl

theorem viewByte_eq (o : Option View) : viewByte o = match o with
    | none => 255
    | some v => v.code := by
  cases o <;> rfl

theorem mergedBytes_eq (o : Option Merged) : mergedBytes o = match o with
    | none => [0, 0, 0, 0, 0, 0]
    | some m => bytes16 (16 * m.far.chassis + m.far.unit)
        ++ [byte m.far.port, byte m.far.lane, byte (portOf m.back).val, byte (laneOf m.back).val] := by
  cases o <;> rfl

theorem laneMapByte_eq (o : Option LaneMap) : laneMapByte o = match o with
    | none => 255
    | some .straight => 0
    | some .reversed => 1 := by
  rcases o with _ | m
  · rfl
  · cases m <;> rfl

/-- Settles O41: each command's body is what is stored, written out byte by byte. -/
theorem readsAnswerAndChangeNothing : Obligations.ReadsAnswerAndChangeNothing := by
  unfold Obligations.ReadsAnswerAndChangeNothing
  intro s r out first answers refuses settings port group laneEntry
  have stored : ∀ x, inventoryBytes x = port x := fun x => by
    simp only [inventoryBytes, mul_bit]
    rfl
  have head : ∀ g, groupPart s g = group g := fun g => by
    simp only [groupPart, mul_bit_isNone, bit_isSome, timerCode_eq, viewByte_eq, laneMapByte_eq]
    simp only [mul_bit]
    rfl
  have lane : ∀ (g : Index) (i : Nat), i < 4 → lanePart s g (Fin.ofNat 4 i) = laneEntry g i := fun g i lt => by
    have offset : (Fin.ofNat 4 i).val = i := Nat.mod_eq_of_lt lt
    simp only [lanePart, mul_bit_isNone, mul_bit_isSome, mergedBytes_eq, offset]
    simp only [mul_bit, bit_isNone]
    rfl
  have snapshot : ∀ g, groupResult s g = group g ++ (List.range (boundWidth s g)).flatMap (laneEntry g) := fun g => by
    unfold groupResult
    rw [head]
    refine congrArg (group g ++ ·) ((flatMap_offsets _ _).trans (List.flatMap_congr fun i mem => lane g i ?_))
    exact Nat.lt_of_lt_of_le (List.mem_range.1 mem) (boundWidth_lanes s g).2
  refine ⟨fun code args => ?_, fun a code args => ⟨fun h => ?_, fun h => ?_⟩, fun code args => ?_, fun code args => ?_,
    fun a code args => ⟨fun h => ?_, fun h => ?_⟩, fun code args => ?_, fun code args => ?_⟩
  · exact execute_read readIdentityCommand out first (hasCode_of code) (by rw [args]; rfl) rfl
  · exact execute_read readProfileCommand out first (hasCode_of code) (by rw [args]; rfl) (by rw [args]; exact body_readProfile_at h)
  · exact execute_read readProfileCommand out first (hasCode_of code) (by rw [args]; rfl) (by rw [args]; exact body_readProfile_refused h)
  · exact execute_read readFrameClassCommand out first (hasCode_of code) (by rw [args]; rfl)
      (congrArg (fun x => (s, Reply.ok x)) (frameClassResult_eq s))
  · exact execute_read readSettingsCommand out first (hasCode_of code) (by rw [args]; rfl) rfl
  · exact execute_read readGroupCommand out first (hasCode_of code) (by rw [args]; rfl)
      (by rw [args, body_readGroup_at h, snapshot]; rfl)
  · exact execute_read readGroupCommand out first (hasCode_of code) (by rw [args]; rfl) (by rw [args]; exact body_readGroup_refused h)
  · refine execute_read readInventoryCommand out first (hasCode_of code) (by rw [args]; rfl) (congrArg (fun x => (s, Reply.ok x)) ?_)
    rw [Tab.list_eq, List.flatMap_map]
    exact List.flatMap_congr fun p _ => stored _
  · exact execute_read readCountersCommand out first (hasCode_of code) (by rw [args]; rfl) rfl

end Sys2Proof.Machine
end

section
/-! The writes of profiles, the Frame Class Table and the Operating Settings (R8, R36, R188). -/

namespace Sys2Proof.Machine

/-! ## Profiles -/

/-- The degraded set is a subset of the verified set bit by bit (R36). -/
theorem subset_iff (v d : BitVec 8) : d &&& ~~~v = 0 ↔ ∀ c, c < 8 → d.getLsbD c = true → v.getLsbD c = true := by
  constructor
  · intro none c lt on
    have bit := congrArg (BitVec.getLsbD · c) none
    simpa [lt, on] using bit
  · intro sub
    refine BitVec.eq_of_getLsbD_eq fun c lt => ?_
    have bit := sub c lt
    cases on : d.getLsbD c <;> simp_all

theorem body_writeProfile_index {s : State} {a v d : Byte} (h : 8 ≤ a.toNat) :
    writeProfileCommand.body [a, v, d] s = (s, .refuse .index) := by
  unfold writeProfileCommand
  dsimp only
  rw [indexArg_byte_none h]

theorem body_writeProfile_subset {s : State} {a v d : Byte} (h : a.toNat < 8) (bad : d &&& ~~~v ≠ 0) :
    writeProfileCommand.body [a, v, d] s
      = (s, { status := .badArgument, detail := .subset, result := profileResult s ⟨a.toNat, h⟩ }) := by
  unfold writeProfileCommand
  dsimp only
  rw [indexArg_byte h]
  exact if_pos bad

theorem body_writeProfile_stored {s : State} {a v d : Byte} (h : a.toNat < 8) (good : d &&& ~~~v = 0) :
    writeProfileCommand.body [a, v, d] s
      = ({ s with cpt := { s.cpt with profiles := Tab.set s.cpt.profiles ⟨a.toNat, h⟩ { verified := v, degraded := d } } },
        .ok [a, v, d]) := by
  have result : profileResult
      { s with cpt := { s.cpt with profiles := Tab.set s.cpt.profiles ⟨a.toNat, h⟩ { verified := v, degraded := d } } } ⟨a.toNat, h⟩
      = [a, v, d] := by
    unfold profileResult
    rw [Tab.get_set_same, byte_toNat]
  unfold writeProfileCommand
  dsimp only
  rw [indexArg_byte h]
  refine (if_neg (not_not.2 good)).trans ?_
  exact Prod.ext rfl (congrArg Reply.ok result)

/-! ## The Frame Class Table -/

/-- A written code names the action that has it (R185, R187). -/
theorem actionOfCode_eq_some {b : Byte} {x : Action} : actionOfCode b = some x ↔ b.toNat = x.code := by
  unfold actionOfCode
  split
  case h_6 =>
    constructor
    · nofun
    · intro code
      cases x <;> simp_all [Action.code]
  all_goals
    next code =>
      rw [code]
      cases x <;> simp [Action.code]

theorem action_code_le (x : Action) : x.code ≤ 4 := by
  cases x <;> decide

/-- Sixteen codes that each name an action are the table they spell (R187). -/
theorem readFrameClass_eq_some {args : List Byte} {table : Tab Action 16}
    (codes : ∀ k : Fin 16, at8 args k.val = (Tab.get table k).code) : readFrameClass args = some table := by
  have named : ∀ k : Fin 16, actionOfCode (args.getD k.val 0) = some (Tab.get table k) := fun k => actionOfCode_eq_some.2 (codes k)
  have built : (Tab.build fun k : Fin 16 => (actionOfCode (args.getD k.val 0)).getD .drop) = table :=
    Tab.ext fun k => by rw [Tab.get_build, named]; rfl
  unfold readFrameClass
  rw [if_pos (List.all_eq_true.2 fun k _ => by rw [named]; rfl), built]

theorem readFrameClass_eq_none {args : List Byte} (k : Fin 16) (code : 4 < at8 args k.val) : readFrameClass args = none := by
  refine if_neg fun all => ?_
  obtain ⟨x, named⟩ := Option.isSome_iff_exists.1 (List.all_eq_true.1 all k (List.mem_finRange k))
  have is := actionOfCode_eq_some.1 named
  have bound := action_code_le x
  unfold at8 at code
  omega

theorem kindCount_eq (table : Tab Action 16) (x : Action) :
    kindCount table x = ((List.finRange 16).filter fun k => Tab.get table k = x).length := rfl

/-- Exactly one PROBE, exactly one ECHO and at least one CONTROL (R8). -/
theorem kindMapHolds_iff (table : Tab Action 16) : kindMapHolds table = true ↔
    kindCount table .probe = 1 ∧ kindCount table .echo = 1 ∧ 1 ≤ kindCount table .control := by
  unfold kindMapHolds
  rw [Bool.and_eq_true, Bool.and_eq_true, beq_iff_eq, beq_iff_eq, decide_eq_true_iff, and_assoc]

theorem body_writeFrameClass_refused {s : State} {args : List Byte} (none : (readFrameClass args).filter kindMapHolds = none) :
    writeFrameClassCommand.body args s = (s, { status := .badArgument, detail := .kindMap, result := frameClassResult s }) := by
  unfold writeFrameClassCommand
  dsimp only
  rw [none]

theorem body_writeFrameClass_stored {s : State} {args : List Byte} {table : Tab Action 16} (read : readFrameClass args = some table)
    (valid : kindMapHolds table = true) : writeFrameClassCommand.body args s
      = ({ s with fsu := { s.fsu with classTable := table } },
        .ok (frameClassResult { s with fsu := { s.fsu with classTable := table } })) := by
  unfold writeFrameClassCommand
  dsimp only
  rw [read, Option.filter_some, if_pos valid]

/-- The sixteen codes written are the sixteen codes answered. -/
theorem frameClassResult_of_codes {s : State} {args : List Byte} (length : args.length = 16)
    (codes : ∀ k : Fin 16, at8 args k.val = (Tab.get s.fsu.classTable k).code) : frameClassResult s = args := by
  rw [frameClassResult_eq]
  refine List.ext_getElem (by rw [List.length_map, List.length_finRange, length]) fun i lt _ => ?_
  rw [List.length_map, List.length_finRange] at lt
  rw [List.getElem_map, List.getElem_finRange]
  have code := codes ⟨i, lt⟩
  unfold at8 at code
  rw [List.getD_eq_getElem _ _ (by omega)] at code
  exact (congrArg byte code.symm).trans (byte_toNat _)

/-! ## Settings -/

/-- Each written field is stored clamped into its range (R188). -/
theorem readSettingsBytes_eq (args : List Byte) : readSettingsBytes args =
    { probeTimeout := max 1 (min 1000 (at16 args 0)), discoveryRounds := max 1 (min 16 (at8 args 2))
      smoothing := min 7 (at8 args 3), pathOffset := min 1023 (at16 args 4)
      lockTimeout := max 10 (min 2000 (at16 args 6)), agreementTimeout := max 10 (min 10000 (at16 args 8))
      sweepInterval := max 100 (min 100000 (at32 args 10)), hysteresis := max 1 (min 15 (at8 args 14))
      inventoryInterval := max 10 (min 1000 (at16 args 15)) } := by
  unfold readSettingsBytes
  simp only [clamp_eq _ _ _ (Nat.zero_le _), clamp_eq 1 1000 _ (by decide), clamp_eq 1 16 _ (by decide),
    clamp_eq 10 2000 _ (by decide), clamp_eq 10 10000 _ (by decide), clamp_eq 100 100000 _ (by decide), clamp_eq 1 15 _ (by decide),
    clamp_eq 10 1000 _ (by decide), Nat.zero_max]

/-- Settles O44, command by command. -/
theorem tableWritesStoreOrRefuse : Obligations.TableWritesStoreOrRefuse := by
  unfold Obligations.TableWritesStoreOrRefuse
  intro s r out first answer refuse
  refine ⟨fun a v d code args => ?_, fun code length => ?_, fun code length => ?_⟩
  · have run : exec .writeProfile s = _ :=
      execute_body writeProfileCommand out first (hasCode_of code) (by rw [args]; rfl)
    rw [args] at run
    refine ⟨fun h => ?_, fun h => ?_⟩
    · rw [run, body_writeProfile_index h]
      rfl
    · intro old new
      refine ⟨fun ⟨c, lt, on, outside⟩ => ?_, fun sub => ?_⟩
      · have bad : d &&& ~~~v ≠ 0 := fun none => by simp [(subset_iff v d).1 none c lt on] at outside
        rw [run, body_writeProfile_subset h bad, profileResult, byte_toNat]
      · rw [run, body_writeProfile_stored h ((subset_iff v d).2 sub)]
        rfl
  · intro stored
    have run : exec .writeFrameClass s = _ :=
      execute_body writeFrameClassCommand out first (hasCode_of code) (by rw [length]; rfl)
    have refused : (readFrameClass r.args).filter kindMapHolds = none → exec .writeFrameClass s = .next (refuse .kindMap stored) :=
      fun none => by rw [run, body_writeFrameClass_refused none, frameClassResult_eq]
    refine ⟨fun ⟨k, high⟩ => refused (by rw [readFrameClass_eq_none k high]; rfl), fun table codes => ?_⟩
    intro count allowed
    refine ⟨fun bad => ?_, fun good => ?_⟩
    · refine refused ?_
      rw [readFrameClass_eq_some codes, Option.filter_some, if_neg fun holds => bad ((kindMapHolds_iff table).1 holds)]
    · have valid : kindMapHolds table = true := (kindMapHolds_iff table).2 good
      rw [run, body_writeFrameClass_stored (readFrameClass_eq_some codes) valid, frameClassResult_of_codes length codes]
      rfl
  · intro written
    have run : exec .writeSettings s = _ :=
      execute_body writeSettingsCommand out first (hasCode_of code) (by rw [length]; rfl)
    rw [run]
    unfold writeSettingsCommand
    dsimp only
    rw [readSettingsBytes_eq]
    rfl

end Sys2Proof.Machine
end

section
/-! The Cable Class Table, reads of the plan, and the tests and bytes of a plan write (R22 to R24, R29, R33, R187). -/

namespace Sys2Proof.Machine

/-! ## The Cable Class Table -/

theorem body_writeClass_index {s : State} {a b c : Byte} (h : 8 ≤ a.toNat) :
    writeClassCommand.body [a, b, c] s = (s, .refuse .index) := by
  unfold writeClassCommand
  dsimp only
  rw [indexArg_byte_none h]

theorem body_writeClass_stored {s : State} {a b c : Byte} (h : a.toNat < 8) :
    writeClassCommand.body [a, b, c] s
      = ({ s with cpt := { s.cpt with
            classD := Tab.set s.cpt.classD ⟨a.toNat, h⟩ (max 3000 (min 8000 (256 * b.toNat + c.toNat))) } },
        .ok (a :: bytes16 (max 3000 (min 8000 (256 * b.toNat + c.toNat))))) := by
  have stored : clamp 3000 8000 (at16 [a, b, c] 1) = max 3000 (min 8000 (256 * b.toNat + c.toNat)) :=
    clamp_eq _ _ _ (by decide)
  unfold writeClassCommand
  dsimp only
  rw [indexArg_byte h]
  dsimp only [classResult]
  rw [stored, Tab.get_set_same, byte_toNat]

theorem body_readClass_index {s : State} {a : Byte} (h : 8 ≤ a.toNat) : readClassCommand.body [a] s = (s, .refuse .index) := by
  unfold readClassCommand
  dsimp only
  rw [indexArg_byte_none h]

theorem body_readClass_at {s : State} {a : Byte} (h : a.toNat < 8) :
    readClassCommand.body [a] s = (s, .ok (a :: bytes16 (Tab.get s.cpt.classD ⟨a.toNat, h⟩))) := by
  unfold readClassCommand
  dsimp only
  rw [indexArg_byte h]
  dsimp only [classResult]
  rw [byte_toNat]

/-- Settles O43: a write and a read of the Cable Class Table, each in range and out of it. -/
theorem classEntriesAreClampedAndRead : Obligations.ClassEntriesAreClampedAndRead := by
  unfold Obligations.ClassEntriesAreClampedAndRead
  intro s r out first refused
  refine ⟨fun a b c code args => ?_, fun a code args => ?_⟩
  · have run : exec .writeClassEntry s = _ :=
      execute_body writeClassCommand out first (hasCode_of code) (by rw [args]; rfl)
    rw [args] at run
    refine ⟨fun h => ?_, fun h => ?_⟩
    · rw [run, body_writeClass_stored h]
      rfl
    · rw [run, body_writeClass_index h]
      rfl
  · have read : ∀ {reply : Reply}, readClassCommand.body [a] s = (s, reply) → exec .readClassEntry s = .next (s.respond r reply) :=
      fun body => execute_read readClassCommand out first (hasCode_of code) (by rw [args]; rfl) (by rw [args]; exact body)
    exact ⟨fun h => read (body_readClass_at h), fun h => read (body_readClass_index h)⟩

/-! ## The bytes of a plan entry -/

theorem byte_mod (n : Nat) : byte (n % 256) = byte n := BitVec.eq_of_toNat_eq (by simp [byte])

theorem bytes16_mod (n : Nat) : bytes16 n = [byte (n / 256), byte (n % 256)] := by rw [byte_mod]; rfl

/-- A stored entry byte by byte (10 section 10.5; log 30). -/
theorem entryBytes_eq (g : Index) (e : PlanEntry) : entryBytes g e =
    [byte g.val, (if e.enabled then 1 else 0), byte e.fields.width.lanes,
     byte (e.fields.farChassis / 256), byte (e.fields.farChassis % 256), byte e.fields.farUnit, byte e.fields.farPort,
     byte e.fields.farFirstLane, e.fields.allowed,
     byte ((if e.fields.reversal then 2 else 0) + (if e.fields.inversion then 1 else 0)),
     byte (e.fields.lengthMin / 256), byte (e.fields.lengthMin % 256),
     byte (e.fields.lengthMax / 256), byte (e.fields.lengthMax % 256),
     byte e.fields.skewLimit, byte e.fields.profile.val, byte e.fields.retry] := by
  have enabled : byte (bit e.enabled) = if e.enabled then 1 else 0 := by cases e.enabled <;> rfl
  unfold entryBytes
  rw [enabled, bytes16_mod, bytes16_mod, bytes16_mod, mul_bit]
  rfl

theorem body_readPlan_at {s : State} {a : Byte} (h : a.toNat < 64) :
    readPlanCommand.body [a] s = (s, .ok (entryBytes ⟨a.toNat, h⟩ (s.entry ⟨a.toNat, h⟩))) := by
  unfold readPlanCommand
  dsimp only
  rw [indexArg_byte h]

theorem body_readPlan_index {s : State} {a : Byte} (h : 64 ≤ a.toNat) : readPlanCommand.body [a] s = (s, .refuse .index) := by
  unfold readPlanCommand
  dsimp only
  rw [indexArg_byte_none h]

/-- Settles O42: the stored entry in its seventeen bytes, or INDEX. -/
theorem readPlanEntryReturnsTheStoredEntry : Obligations.ReadPlanEntryReturnsTheStoredEntry := by
  unfold Obligations.ReadPlanEntryReturnsTheStoredEntry
  intro s r a out first code args shown
  have read : ∀ {reply : Reply}, readPlanCommand.body [a] s = (s, reply) → exec .readPlanEntry s = .next (s.respond r reply) :=
    fun body => execute_read readPlanCommand out first (hasCode_of code) (by rw [args]; rfl) (by rw [args]; exact body)
  refine ⟨fun h => read ?_, fun h => read (body_readPlan_index h)⟩
  rw [body_readPlan_at h, entryBytes_eq]
  rfl

/-! ## The command of a plan write -/

theorem body_writePlan_index {s : State} {args : List Byte} (h : 64 ≤ at8 args 0) :
    writePlanCommand.body args s = (s, .refuse .index) := by
  unfold writePlanCommand
  dsimp only
  rw [indexArg_of_le h]

theorem indexArg_val {n bound : Nat} {g : Fin bound} (h : n = g.val) : indexArg n bound = some g := by
  subst h
  exact indexArg_of_lt g.isLt

theorem body_writePlan_refused {s : State} {args : List Byte} {g : Index} {d : Detail} (index : at8 args 0 = g.val)
    (bad : validateEntry s.cpt.plan g (readEntry args) = .error d) :
    writePlanCommand.body args s = (s, { status := .badArgument, detail := d, result := entryBytes g (s.entry g) }) := by
  unfold writePlanCommand
  dsimp only
  rw [indexArg_val index]
  dsimp only
  rw [bad]

theorem body_writePlan_accepted {s : State} {args : List Byte} {g : Index} {e : PlanEntry} (index : at8 args 0 = g.val)
    (valid : validateEntry s.cpt.plan g (readEntry args) = .ok e) :
    writePlanCommand.body args s
      = ((s.acceptEntry g e).endEvent s, .ok (entryBytes g (((s.acceptEntry g e).endEvent s).entry g))) := by
  unfold writePlanCommand
  dsimp only
  rw [indexArg_val index]
  dsimp only
  rw [valid]

/-! ## The tests of a plan write -/

theorem widthOf_eq_none {n : Nat} : widthOf n = none ↔ ¬(n = 1 ∨ n = 2 ∨ n = 4) := by
  unfold widthOf
  split <;> simp_all

theorem widthOf_lanes (w : Width) : widthOf w.lanes = some w := by cases w <;> rfl

theorem lanes_injective {v w : Width} (h : v.lanes = w.lanes) : v = w :=
  Option.some.inj (by rw [← widthOf_lanes v, h, widthOf_lanes])

/-- Entry g of width w covers a lane of its own port, from its first lane on (R21). -/
theorem covers_iff {g l : Index} {w : Width} : covers g w l = true
    ↔ portOf l = portOf g ∧ (laneOf g).val ≤ (laneOf l).val ∧ (laneOf l).val < (laneOf g).val + w.lanes := by
  unfold covers
  rw [Bool.and_eq_true, Bool.and_eq_true, beq_iff_eq, decide_eq_true_iff, decide_eq_true_iff, and_assoc, eq_comm]

/-- Another enabled entry covers a lane that entry g would cover with width w (R24). -/
theorem overlaps_iff {plan : Tab PlanEntry 64} {g : Index} {w : Width} : overlaps plan g w = true
    ↔ ∃ h l : Index, h ≠ g ∧ (Tab.get plan h).enabled = true ∧ covers h (Tab.get plan h).fields.width l = true
      ∧ covers g w l = true := by
  unfold overlaps
  simp only [List.any_eq_true, mem_indices, true_and, Bool.and_eq_true, bne_iff_ne, and_assoc, exists_and_left]
  exact exists_congr fun h => and_congr_right fun _ => and_congr_right fun _ => exists_congr fun l => and_comm

/-- One test of a chain: where its cause applies it decides, else the tests behind it do. -/
theorem firstCause {α : Type} {x y : Except Detail α} {d : Detail} {cause pass rest : Prop} [Decidable cause]
    (chain : x = if cause then .error d else y) (test : ¬pass ↔ cause) (behind : pass → x = y → rest) :
    (¬pass → x = .error d) ∧ (pass → rest) :=
  ⟨fun fails => chain.trans (if_pos (test.1 fails)), fun holds => behind holds (chain.trans (if_neg fun c => test.2 c holds))⟩

/-- The tests behind that of the width, in their order (R23). -/
theorem validateEntry_of_width {plan : Tab PlanEntry 64} {g : Index} {w : WrittenEntry} {width : Width}
    (written : widthOf w.width = some width) :
    validateEntry plan g w =
      if (laneOf g).val % w.width ≠ 0 ∨ 3 < w.farFirstLane ∨ w.farFirstLane % w.width ≠ 0 then .error .align
      else if w.enabled && overlaps plan g width then .error .overlap
      else if 4094 < w.farChassis ∨ 14 < w.farUnit ∨ 15 < w.farPort then .error .farId
      else if w.allowed = 0 then .error .classSet
      else if w.lengthMax < w.lengthMin then .error .window
      else if 63 < w.skewLimit then .error .skewLimit
      else if 7 < w.profile then .error .profile
      else if (Tab.get plan g).enabled ∧ w.enabled ∧ (Tab.get plan g).fields.width ≠ width then .error .lockedWidth
      else .ok { enabled := w.enabled, fields := w.fields width } := by
  unfold validateEntry
  rw [written]

theorem validateEntry_of_no_width {plan : Tab PlanEntry 64} {g : Index} {w : WrittenEntry} (bad : widthOf w.width = none) :
    validateEntry plan g w = .error .width := by
  unfold validateEntry
  rw [bad]

/-- A lane number is aligned to a width as its group index is: a port has four lanes (R21). -/
theorem laneOf_mod {g : Index} {n : Nat} (width : n = 1 ∨ n = 2 ∨ n = 4) : (laneOf g).val % n = g.val % n := by
  show g.val % 4 % n = g.val % n
  rcases width with rfl | rfl | rfl <;> omega

/-- Settles O45: the chain of tests, one after another. -/
theorem planWriteChecksInOrder : Obligations.PlanWriteChecksInOrder := by
  unfold Obligations.PlanWriteChecksInOrder
  refine ⟨fun plan g w => ?_, fun s r out first code length index => ?_⟩
  · intro old width align overlap farId kept chain
    refine ⟨fun bad => validateEntry_of_no_width (widthOf_eq_none.2 bad), fun good => ?_⟩
    obtain ⟨wide, written⟩ := Option.ne_none_iff_exists'.1 fun unread => widthOf_eq_none.1 unread good
    have lanes := lanes_widthOf written
    have atAlign : ¬align ↔ (laneOf g).val % w.width ≠ 0 ∨ 3 < w.farFirstLane ∨ w.farFirstLane % w.width ≠ 0 := by
      rw [laneOf_mod good]
      simp only [align]
      omega
    have atOverlap : ¬¬overlap ↔ (w.enabled && overlaps plan g wide) = true := by
      simp only [not_not, Bool.and_eq_true, overlaps_iff, covers_iff (g := g), lanes, overlap]
    have atFarId : ¬farId ↔ 4094 < w.farChassis ∨ 14 < w.farUnit ∨ 15 < w.farPort := by
      simp only [farId]
      omega
    have atKept : ¬kept ↔ (Tab.get plan g).enabled ∧ w.enabled ∧ (Tab.get plan g).fields.width ≠ wide := by
      have same : old.fields.width.lanes = w.width ↔ old.fields.width = wide := by
        rw [← lanes]
        exact ⟨lanes_injective, congrArg _⟩
      simp only [kept, same, Classical.not_imp]
      rfl
    refine firstCause (validateEntry_of_width written) atAlign fun _ eq => ?_
    refine firstCause eq atOverlap fun _ eq => ?_
    refine firstCause eq atFarId fun _ eq => ?_
    refine firstCause eq not_not fun _ eq => ?_
    refine firstCause eq Nat.not_le fun _ eq => ?_
    refine firstCause eq Nat.not_le fun _ eq => ?_
    refine firstCause eq Nat.not_le fun profile eq => ?_
    refine firstCause eq atKept fun _ eq => ?_
    exact ⟨_, eq, rfl, lanes, Nat.mod_eq_of_lt (Nat.lt_succ_of_le profile), rfl⟩
  · exact execute_read writePlanCommand out first (hasCode_of code) (by rw [length]; rfl) (body_writePlan_index index)

end Sys2Proof.Machine
end

section
/-! Plan writes by their kind: refused, storing, restating and changing ones, and those that enable or disable an entry (R22, R25 to R28,
R47, R48, R57). -/

namespace Sys2Proof.Machine

/-! ## The kinds of an accepted write -/

/-- Entry e stored at g, with the unplanned field of its port recomputed (R25, R47). -/
def State.replan (s : State) (g : Index) (e : PlanEntry) : State := (s.storeEntry g e).recomputeUnplanned (portOf g)

theorem acceptEntry_enable {s : State} {g : Index} {e : PlanEntry} (off : (s.entry g).enabled = false) (on : e.enabled = true) :
    s.acceptEntry g e = (s.replan g e).bindAndStart g e.fields := by
  unfold State.acceptEntry State.replan
  simp only [off, on]

theorem acceptEntry_disable {s : State} {g : Index} {e : PlanEntry} (on : (s.entry g).enabled = true) (off : e.enabled = false) :
    s.acceptEntry g e = (s.replan g e).disableContext g := by
  unfold State.acceptEntry State.replan
  simp only [off, on]

theorem acceptEntry_store {s : State} {g : Index} {e : PlanEntry} (old : (s.entry g).enabled = false) (new : e.enabled = false) :
    s.acceptEntry g e = s.storeEntry g e := by
  unfold State.acceptEntry
  simp only [old, new]

theorem acceptEntry_change {s : State} {g : Index} {e : PlanEntry} (old : (s.entry g).enabled = true) (new : e.enabled = true)
    (ne : e ≠ s.entry g) : s.acceptEntry g e = (s.storeEntry g e).modCtx g fun c => { c with stale := true } := by
  unfold State.acceptEntry
  simp only [old, new, if_neg ne]

theorem storeEntry_entry (s : State) (g : Index) : s.storeEntry g (s.entry g) = s := by
  have same : Tab.set s.cpt.plan g (Tab.get s.cpt.plan g) = s.cpt.plan := Tab.upd_id s.cpt.plan g
  unfold State.storeEntry State.entry
  rw [same]

theorem acceptEntry_restate (s : State) (g : Index) : s.acceptEntry g (s.entry g) = s := by
  cases h : (s.entry g).enabled
  · rw [acceptEntry_store h h, storeEntry_entry]
  · unfold State.acceptEntry
    simp only [h, if_true, storeEntry_entry]

theorem cpt_replan (s : State) (g : Index) (e : PlanEntry) :
    (s.replan g e).cpt = { s.cpt with plan := Tab.set s.cpt.plan g e } := (recomputeUnplanned_kept _ _).1.cpt

/-- An accepted write, whatever its kind, stores its entry and changes no other table (R25). -/
theorem cpt_acceptEntry (s : State) (g : Index) (e : PlanEntry) :
    (s.acceptEntry g e).cpt = { s.cpt with plan := Tab.set s.cpt.plan g e } := by
  unfold State.acceptEntry
  dsimp only
  split
  · exact (EventAt.bindAndStart ..).blocks.cpt.trans (cpt_replan s g e)
  · exact (EventAt.disableContext ..).blocks.cpt.trans (cpt_replan s g e)
  · split <;> rfl
  · rfl

theorem entry_acceptEntry_endEvent (s : State) (g : Index) (e : PlanEntry) : ((s.acceptEntry g e).endEvent s).entry g = e := by
  unfold State.entry
  rw [(BlocksKept.endEvent ..).cpt, cpt_acceptEntry]
  exact Tab.get_set_same ..

/-- The command of an accepted write: its effects to the end of the event, answered with the entry (R25, R187). -/
theorem exec_writePlan_accepted {s : State} {r : ControlRequest} {g : Index} {e : PlanEntry} (out : s.inReset = false)
    (first : earliestWaiting s.mga.queue = some r) (code : r.code = 16) (length : r.args.length = 17) (index : at8 r.args 0 = g.val)
    (valid : validateEntry s.cpt.plan g (readEntry r.args) = .ok e) :
    exec .writePlanEntry s = .next (((s.acceptEntry g e).endEvent s).respond r (.ok (entryBytes g e))) := by
  have run : exec .writePlanEntry s = _ :=
    execute_body writePlanCommand out first (hasCode_of code) (by rw [length]; rfl)
  rw [run, body_writePlan_accepted index valid, entry_acceptEntry_endEvent]

/-! ## Writes that move no context -/

/-- An entry stored disturbs neither arbiter, nor does the stale mark (R5, R112). -/
theorem endEvent_storeEntry {s : State} {g : Index} {e : PlanEntry} (lanes : LanesSettled s) (grants : GrantsSettled s) :
    (s.storeEntry g e).endEvent s = s.storeEntry g e :=
  endEvent_settled (fun _ => groupChanged_self _) lanes grants

theorem endEvent_markStale {s t : State} {g : Index} (ctx : ∀ h, t.ctx h = s.ctx h) (lanes : LanesSettled t) (grants : GrantsSettled t) :
    (t.modCtx g fun c => { c with stale := true }).endEvent s = t.modCtx g fun c => { c with stale := true } := by
  have each : ∀ h, ∃ stale, (t.modCtx g fun c => { c with stale := true }).ctx h = { s.ctx h with stale := stale } := fun h => by
    by_cases e : h = g
    · subst e
      exact ⟨true, by rw [ctx_modCtx_same, ctx]⟩
    · exact ⟨(s.ctx h).stale, by rw [ctx_modCtx_ne _ _ e, ctx]⟩
  have widths : boundWidth (t.modCtx g fun c => { c with stale := true }) = boundWidth t := funext fun h => by
    obtain ⟨stale, eq⟩ := each h
    unfold boundWidth
    rw [eq, ctx]
  refine endEvent_settled (fun h => ?_) lanes (fun c found => ?_)
  · obtain ⟨stale, eq⟩ := each h
    rw [eq]
    exact groupChanged_self (s.ctx h)
  · rw [widths]
    exact grants c found

/-- Settles O46: a refused write, and the three kinds of accepted write that move no context, each with settled arbiters. -/
theorem planWritesThatMoveNoContext : Obligations.PlanWritesThatMoveNoContext := by
  unfold Obligations.PlanWritesThatMoveNoContext
  intro s r g out lanes grants first code length index shown written checked stored answer
  have answered : ∀ {e : PlanEntry} {t : State}, checked = .ok e → (s.acceptEntry g e).endEvent s = t →
      exec .writePlanEntry s = .next (answer t e) := fun {e t} valid ends => by
    rw [exec_writePlan_accepted out first code length index valid, ends, entryBytes_eq]
    rfl
  refine ⟨fun d bad => ?_, fun e valid same => answered valid ?_, fun e valid old new => answered valid ?_,
    fun e valid old new ne => answered valid ?_⟩
  · have refused := execute_read writePlanCommand out first (hasCode_of code) (by rw [length]; rfl) (body_writePlan_refused index bad)
    rw [entryBytes_eq] at refused
    exact refused
  · rw [same, acceptEntry_restate]
    exact endEvent_settled (fun _ => groupChanged_self _) lanes grants
  · rw [acceptEntry_store old new]
    exact endEvent_storeEntry lanes grants
  · rw [acceptEntry_change old new ne]
    exact endEvent_markStale (fun _ => rfl) lanes grants

/-! ## The port of a write that moves a context -/

theorem unplannedField_eq (plan : Tab PlanEntry 64) (p : Fin 16) (present : Bool) :
    unplannedField plan p present = (present && decide (∃ j : Fin 4, covering plan (cell p j) = none)) := by
  have uncovered : uncoveredLane plan p = decide (∃ j : Fin 4, covering plan (cell p j) = none) := by
    rw [Bool.eq_iff_iff]
    simp [uncoveredLane]
  rw [unplannedField, uncovered]

/-- Recomputing a port's unplanned field posts its notice just where that has changed its record (R47, R48). -/
theorem notices_recomputeUnplanned (s : State) (p : Fin 16) :
    (s.recomputeUnplanned p).notices
      = if Tab.get (s.recomputeUnplanned p).ciu.records p = Tab.get s.ciu.records p then s.notices
        else portNoticed s (s.recomputeUnplanned p) s.notices p := by
  obtain ⟨-, -, -, -, -, record⟩ := recomputeUnplanned_kept s p
  by_cases same : unplannedField s.cpt.plan p (Tab.get s.ciu.records p).present = (Tab.get s.ciu.records p).unplanned
  · rw [if_pos (by rw [record, same])]
    unfold State.recomputeUnplanned
    rw [if_pos same]
  · rw [if_neg fun eq => same (congrArg InventoryRecord.unplanned (record.symm.trans eq))]
    unfold State.recomputeUnplanned portNoticed
    rw [if_neg same]
    rfl

theorem record_replan (s : State) (g : Index) (e : PlanEntry) :
    (s.replan g e).record g
      = { s.record g with
          unplanned := (s.record g).present
            && decide (∃ j : Fin 4, covering (Tab.set s.cpt.plan g e) (cell (portOf g) j) = none) } := by
  obtain ⟨-, -, -, -, -, record⟩ := recomputeUnplanned_kept (s.storeEntry g e) (portOf g)
  rw [unplannedField_eq] at record
  exact record

/-- What a write that moves context g does beside it: the entry stored, the port's record and the notices, in the order port, group (R25, R47,
R48, R57; log 9). -/
structure PlanMoved (g : Index) (e : PlanEntry) (s u : State) : Prop where
  cpt : u.cpt = { s.cpt with plan := Tab.set s.cpt.plan g e }
  others : ∀ h, h ≠ g → u.ctx h = s.ctx h ∧ u.path h = s.path h
  records : ∀ p, p ≠ portOf g → Tab.get u.ciu.records p = Tab.get s.ciu.records p
  record : Tab.get u.ciu.records (portOf g)
    = { s.record g with
        unplanned := (s.record g).present && decide (∃ j : Fin 4, covering u.cpt.plan (cell (portOf g) j) = none) }
  notices : u.notices
    = groupNoticed s u (if u.record g = s.record g then s.notices else portNoticed s u s.notices (portOf g)) g
  receive : ReceiveKept s u
  mga : u.mga = s.mga
  sws : u.sws = s.sws
  now : u.psc.now = s.psc.now

/-- An operation at context g on the part with the entry stored, taken to the end of the event. -/
theorem PlanMoved.endEvent {g : Index} {e : PlanEntry} {s t : State} (at_g : EventAt g (s.replan g e) t)
    (posts : t.notices = (s.replan g e).notices) : PlanMoved g e s (t.endEvent s) := by
  obtain ⟨kept, own, -, -, records, -⟩ := recomputeUnplanned_kept (s.storeEntry g e) (portOf g)
  obtain ⟨-, -, -, -, -, -, -, -, ends⟩ := endEvent_rest t s
  have stored : ReceiveKept s (s.storeEntry g e) := ⟨rfl, rfl, rfl, rfl, rfl⟩
  have blocks : BlocksKept (s.replan g e) (t.endEvent s) := at_g.blocks.trans (.endEvent ..)
  have cpt : (t.endEvent s).cpt = { s.cpt with plan := Tab.set s.cpt.plan g e } := blocks.cpt.trans (cpt_replan s g e)
  have others : ∀ h, h ≠ g → t.ctx h = s.ctx h := fun h ne => (at_g.others.contexts h ne).trans (own h).1
  exact
    { cpt := cpt
      others := fun h ne => ⟨(ctx_endEvent ..).trans (others h ne),
        (path_endEvent ..).trans ((at_g.others.paths h ne).trans (own h).2)⟩
      records := fun p ne => by rw [blocks.ciu]; exact records p ne
      record := by rw [blocks.ciu, cpt]; exact record_replan s g e
      notices := by
        have posted := notices_recomputeUnplanned (s.storeEntry g e) (portOf g)
        rw [notices_endEvent t s (at_g.blocks.now.trans kept.now), groupNoticed_only others, posts]
        unfold groupNoticed portNoticed State.record
        rw [ctx_endEvent, blocks.ciu]
        unfold State.replan
        rw [posted]
        rfl
      receive := ((stored.trans kept.receive).trans at_g.receive).trans ends
      mga := blocks.mga.trans kept.mga
      sws := blocks.sws.trans kept.sws
      now := blocks.now.trans kept.now }

/-! ## An enabling write -/

theorem notices_bindAndStart (s : State) (g : Index) (b : PlanFields) : (s.bindAndStart g b).notices = s.notices := by
  unfold State.bindAndStart
  rw [notices_applyStart, notices_enter, notices_modCtx]

/-- The start test reads nothing that a plan write changes (R59). -/
theorem startTest_replan (s : State) (g : Index) (e : PlanEntry) : startTest (s.replan g e) g = startTest s g := by
  have mga : (s.replan g e).mga = s.mga := (recomputeUnplanned_kept _ _).1.mga
  unfold startTest
  rw [mga, record_replan]

/-- A context enabled by a write, at the end of the event: it waits with the reason of the start test; where that passes it has entered
ACQUIRING, or with all its lanes locked DISCOVERING (R58 to R61). -/
theorem enabled_outcome {s u : State} {g : Index} {e : PlanEntry} (granted : Granted ((s.replan g e).bindAndStart g e.fields) u) :
    (∀ x, startTest s g = some x → Waits u g x)
      ∧ (startTest s g = none →
        if (List.range e.fields.width.lanes).all fun i => (Tab.get s.buc.lockView (laneAt g i)).locked then
          StartsDiscovery u g s.mga.settings.discoveryRounds
        else InState u g .acquiring .none none
          ∧ (u.ctx g).timer = some { kind := .lock, remaining := 1000000 * s.mga.settings.lockTimeout }) := by
  obtain ⟨kept, -⟩ := recomputeUnplanned_kept (s.storeEntry g e) (portOf g)
  obtain ⟨-, -, w, at_g, width, waits, test, view, eq⟩ := bindAndStart_outcome (s.replan g e) g e.fields
  have mga : w.mga = s.mga := at_g.blocks.mga.trans kept.mga
  have locked : allLocked w g
      = (List.range e.fields.width.lanes).all fun i => (Tab.get s.buc.lockView (laneAt g i)).locked := by
    unfold allLocked
    rw [width, view.trans kept.receive.lockView]
    rfl
  have outcome := waits_or_starts waits
  rw [test, startTest_replan, ← eq] at outcome
  refine ⟨fun x fails => ?_, fun passes => ?_⟩
  · rw [fails] at outcome
    exact granted.waits outcome
  · rw [passes] at outcome
    have starts := granted.acquiresOrDiscovers outcome
    unfold AcquiresOrDiscovers at starts
    rw [locked, mga] at starts
    split_ifs at starts ⊢
    · exact starts
    · exact ⟨starts.inState, by rw [starts.timer, mga]; rfl⟩

/-- Settles O47: the entry stored and bound, then the start test, to the end of the event. -/
theorem enablingWriteStartsTheContext : Obligations.EnablingWriteStartsTheContext := by
  unfold Obligations.EnablingWriteStartsTheContext
  intro s r g e out first code length index shown written valid off on
  have run := exec_writePlan_accepted out first code length index valid
  rw [acceptEntry_enable off on, entryBytes_eq] at run
  have moved : PlanMoved g e s (((s.replan g e).bindAndStart g e.fields).endEvent s) :=
    .endEvent (.bindAndStart ..) (notices_bindAndStart ..)
  obtain ⟨bound, fresh, -⟩ := bindAndStart_outcome (s.replan g e) g e.fields
  obtain ⟨waits, starts⟩ := enabled_outcome (.endEvent ((s.replan g e).bindAndStart g e.fields) s)
  refine ⟨_, run, moved.cpt, by rw [ctx_endEvent, bound], by rw [ctx_endEvent, fresh], ?_, moved.others, moved.records, moved.record,
    moved.notices, moved.receive, moved.mga, moved.sws, moved.now⟩
  cases test : startTest s g with
  | some x => exact waits x test
  | none => exact starts test

/-! ## A disabling write -/

theorem notices_disableContext (s : State) (g : Index) : (s.disableContext g).notices = s.notices := by
  unfold State.disableContext
  rw [notices_modPath, notices_enter, notices_modCtx]

/-- A disabled context holds what a context in hardware reset holds (R27, R53). -/
theorem ctx_disableContext (s : State) (g : Index) : (s.disableContext g).ctx g = Context.reset := by
  unfold State.disableContext
  rw [ctx_modPath, ctx_enter_same, ctx_modCtx_same]
  rfl

/-- What the FSU holds for a disabled context: the gate closed with its profile kept, map and compensations returned (R13, R27). -/
theorem path_disableContext (s : State) (g : Index) :
    ((s.disableContext g).path g).gate = .closed ∧ ((s.disableContext g).path g).profile = (s.path g).profile
      ∧ ((s.disableContext g).path g).map = .straight ∧ ((s.disableContext g).path g).comps = Tab.fill 0 := by
  unfold State.disableContext
  rw [path_modPath_same]
  refine ⟨gate_enter .., ?_, rfl, rfl⟩
  rw [profile_enter, ctx_modCtx_same, path_modCtx]
  rfl

theorem noProbeWork_disableContext (s : State) (g : Index) : NoProbeWork (s.disableContext g) g := by
  have idle := noProbeWork_enter (s.modCtx g fun c => { c with bound := none, stale := false }) g (st := .unplanned) .none none rfl
    (by decide)
  exact ⟨idle.slots, idle.queue, idle.holder⟩

/-- A disabled context has no data frame on a transmit lane (R15, R27). -/
theorem content_disableContext (s : State) (g : Index) (side : Side) (l : Index) (f : DataFrame) (own : f.group = g) :
    TxFrame.data f ∉ (Tab.get ((s.disableContext g).tx side) l).content := by
  unfold State.disableContext
  rw [tx_modPath]
  exact content_enter_closed _ _ _ _ rfl side l f own

/-- Settles O48: the entry stored and its context disabled, to the end of the event. -/
theorem disablingWriteEndsTheContext : Obligations.DisablingWriteEndsTheContext := by
  unfold Obligations.DisablingWriteEndsTheContext
  intro s r g e out first code length index shown written valid on off
  have run := exec_writePlan_accepted out first code length index valid
  rw [acceptEntry_disable on off, entryBytes_eq] at run
  have moved : PlanMoved g e s (((s.replan g e).disableContext g).endEvent s) :=
    .endEvent (.disableContext ..) (notices_disableContext ..)
  obtain ⟨-, own, -⟩ := recomputeUnplanned_kept (s.storeEntry g e) (portOf g)
  obtain ⟨-, -, -, -, -, -, content, -⟩ := endEvent_rest ((s.replan g e).disableContext g) s
  obtain ⟨gate, profile, map, comps⟩ := path_disableContext (s.replan g e) g
  rw [← path_endEvent _ s] at gate profile map comps
  have idle : NoProbeWork (((s.replan g e).disableContext g).endEvent s) g :=
    (Granted.endEvent ..).noProbeWork (noProbeWork_disableContext ..)
  exact ⟨_, run, moved.cpt, by rw [ctx_endEvent, ctx_disableContext], gate, profile.trans (congrArg GroupPath.profile (own g).2), map, comps,
    idle, fun side l f at_g => by rw [content]; exact content_disableContext _ _ side l f at_g, moved.others, moved.records, moved.record,
    moved.notices, moved.receive, moved.mga, moved.sws, moved.now⟩

end Sys2Proof.Machine
end

section
/-! The end of a chain read, said once: the bytes its bits make, the state it has judged, and what taking the events it hands on keeps
(R41, R43, R45, R49, R57). -/

namespace Sys2Proof.Machine

/-! ## The bytes of a read -/

theorem getLsbD_takeBit (b : Byte) (bit : Bool) {k : Nat} (h : k < 8) :
    (takeBit b bit).getLsbD k = if k = 0 then bit else b.getLsbD (k - 1) := by
  unfold takeBit
  rw [BitVec.getLsbD_or, BitVec.getLsbD_shiftLeft]
  cases k <;> cases bit <;> simp [h]

/-- Bits packed into a byte stand in it from the last taken up (R41). -/
theorem getLsbD_packBits (bits : List Bool) {k : Nat} (h : k < 8) : (packBits bits).getLsbD k = bits.reverse.getD k false := by
  induction bits using List.reverseRecOn generalizing k with
  | nil => simp [packBits]
  | append_singleton bits bit ih =>
    have last : packBits (bits ++ [bit]) = takeBit (packBits bits) bit := List.foldl_append ..
    rw [last, getLsbD_takeBit _ _ h, List.reverse_append, List.reverse_singleton, List.singleton_append]
    cases k with
    | zero => rfl
    | succ k => exact ih (by omega)

/-- The byte of a port, bit by bit, in a read of 128 bits (R41). -/
theorem getLsbD_portByte {bits : List Bool} (length : bits.length = 128) (p : Fin 16) {k : Nat} (h : k < 8) :
    (portByte bits p).getLsbD k = bits.getD (8 * (15 - p.val) + (7 - k)) false := by
  have eight : ((bits.drop (8 * (15 - p.val))).take 8).length = 8 := by
    rw [List.length_take, List.length_drop]
    omega
  unfold portByte
  rw [getLsbD_packBits _ h, List.getD_eq_getElem?_getD, List.getD_eq_getElem?_getD, List.getElem?_reverse (by omega), eight,
    List.getElem?_take_of_lt (by omega), List.getElem?_drop]

/-- A byte with the bits of a port's place in the read is that port's byte. -/
theorem eq_portByte {bits : List Bool} (length : bits.length = 128) {p : Fin 16} {b : Byte}
    (same : ∀ k, k < 8 → b.getLsbD k = bits.getD (8 * (15 - p.val) + (7 - k)) false) : b = portByte bits p :=
  BitVec.eq_of_getLsbD_eq fun k h => (same k h).trans (getLsbD_portByte length p h).symm

theorem shapeOf_eq_none {b : Byte} : shapeOf b = none ↔ (b.extractLsb' 2 2).toNat = 3 := by
  have field : (b.extractLsb' 2 2).toNat < 4 := (b.extractLsb' 2 2).isLt
  unfold shapeOf
  generalize (b.extractLsb' 2 2).toNat = code at field
  have codes : code = 0 ∨ code = 1 ∨ code = 2 ∨ code = 3 := by omega
  rcases codes with rfl | rfl | rfl | rfl <;> simp

/-- A byte is bad for its parity or its shape code (R40, R42). -/
theorem readChainByte_eq_none {b : Byte} :
    readChainByte b = none ↔ onesCount b % 2 = 0 ∨ (b.extractLsb' 2 2).toNat = 3 := by
  rw [← shapeOf_eq_none]
  unfold readChainByte
  cases shapeOf b with
  | none => simp
  | some shape =>
    by_cases odd : onesCount b % 2 = 1
    · cases b.getLsbD 7 <;> simp [odd]
    · have even : onesCount b % 2 = 0 := by omega
      simp [even]

/-! ## Notices -/

/-- The group notice of g is a matter of the context before and after, and of the time. -/
theorem groupNoticed_congr {s s' t t' : State} {g : Index} (before : s'.ctx g = s.ctx g) (after : t'.ctx g = t.ctx g)
    (now : s'.psc.now = s.psc.now) (q : List Notice) : groupNoticed s' t' q g = groupNoticed s t q g := by
  unfold groupNoticed
  rw [before, after, now]

/-- A context that comes out as it was has no notice (R57). -/
theorem groupNoticed_same {s t : State} {g : Index} (same : t.ctx g = s.ctx g) (q : List Notice) : groupNoticed s t q g = q := by
  unfold groupNoticed
  rw [same, if_pos ⟨rfl, rfl, rfl⟩]

/-- Elements that a fold skips may be left out of its list. -/
theorem foldl_of_sublist {α β : Type} {f : β → α → β} {l m : List α} (sub : l.Sublist m) (d : m.Nodup)
    (skip : ∀ a ∈ m, a ∉ l → ∀ b, f b a = b) (b : β) : m.foldl f b = l.foldl f b := by
  induction sub generalizing b with
  | slnil => rfl
  | @cons l m a sub ih =>
    obtain ⟨fresh, d⟩ := List.nodup_cons.1 d
    rw [List.foldl_cons, skip a (.head _) (fun mem => fresh (sub.subset mem))]
    exact ih d (fun x mem => skip x (.tail _ mem)) b
  | @cons_cons l m a sub ih =>
    obtain ⟨fresh, d⟩ := List.nodup_cons.1 d
    rw [List.foldl_cons, List.foldl_cons]
    refine ih d (fun x mem out => skip x (.tail _ mem) fun again => ?_) _
    rcases List.mem_cons.1 again with rfl | again
    · exact fresh mem
    · exact out again

/-- Contexts that take events one after another, each at most once, post their group notices in that order (R49, R57). -/
theorem notices_takeEvents (es : List HandedEvent) (s : State) (d : (es.map HandedEvent.group).Nodup) :
    (es.foldl State.takePortChange s).notices
      = (es.map HandedEvent.group).foldl (groupNoticed s (es.foldl State.takePortChange s)) s.notices := by
  induction es generalizing s with
  | nil => rfl
  | cons e rest ih =>
    rw [List.map_cons, List.nodup_cons] at d
    obtain ⟨fresh, d⟩ := d
    have first := EventAt.takePortChange s e
    have own : (rest.foldl State.takePortChange (s.takePortChange e)).ctx e.group = (s.takePortChange e).ctx e.group :=
      ((takeEvents_kept rest _).2.2 e.group fun x mem same => fresh (same ▸ List.mem_map_of_mem mem)).1
    rw [List.foldl_cons, ih _ d, List.map_cons, List.foldl_cons, notices_takePortChange,
      ← groupNoticed_congr (s := s) (t := s.takePortChange e) rfl own rfl]
    exact List.foldl_ext _ _ _ fun q g mem =>
      groupNoticed_congr (first.others.contexts g fun same => fresh (same ▸ mem)) rfl first.blocks.now q

/-! ## The read judged -/

/-- The port change events of a read, port 15's first (R49). -/
def handedByRead (s : State) (bits : List Bool) : List HandedEvent :=
  (List.finRange 16).reverse.flatMap fun p => handedFor p (Tab.get s.ciu.records p) (recordAfterRead s bits p)

/-- The part with a read judged and its marks settled, the events that wait set aside, before the others are taken (R43, R45, R50). -/
def State.readJudged (s : State) (bits : List Bool) : State :=
  { s with
    ciu :=
      { records := Tab.build (recordAfterRead s bits)
        inProgress := s.ciu.readPending
        readPending := false
        timer := if s.ciu.readPending then some (1000000 * s.mga.settings.inventoryInterval) else s.ciu.timer
        elapsed := 0
        handed := (handedByRead s bits).filter fun e => lastRoundFlies s e.group }
    notices := (List.finRange 16).reverse.foldl (noticedByRead s bits) s.notices }

/-- The events of a read that their contexts take within it (log 32). -/
def takenByRead (s : State) (bits : List Bool) : List HandedEvent :=
  (handedByRead s bits).filter fun e => !lastRoundFlies s e.group

/-- The part after the end of a read that finds no event waiting. -/
def State.readEnded (s : State) (bits : List Bool) : State :=
  (takenByRead s bits).foldl State.takePortChange (s.readJudged bits)

/-- What follows a read, in one expression (R43). -/
theorem afterRead_eq (s : State) :
    s.afterRead = { s with ciu := { s.ciu with
      inProgress := s.ciu.readPending
      readPending := false
      timer := if s.ciu.readPending then some (1000000 * s.mga.settings.inventoryInterval) else s.ciu.timer
      elapsed := 0 } } := by
  unfold State.afterRead
  cases pending : s.ciu.readPending <;> simp [State.startRead, msToNs, pending]

/-- The end of a read with no event waiting: the read judged, then each context's event (R45, R49). -/
theorem exec_chainReadEnd {s : State} {bits : List Bool} (run : s.inReset = false) (read : s.ciu.inProgress = true)
    (length : bits.length = 128) (none : s.ciu.handed = []) : exec (.chainReadEnd bits) s = .next (s.readEnded bits) := by
  have judged : (s.judgeRead bits).afterRead.takeHanded = s.readEnded bits := by
    rw [takeHanded_eq, afterRead_eq, judgeRead_eq, none]
    rfl
  show execChainReadEnd bits s = _
  unfold execChainReadEnd
  rw [if_pos length, unlessReset_running _ run, if_pos read, takeAllWaiting_nil none, judged]

/-- The end of a read with events waiting: they are taken first (log 32). -/
theorem exec_chainReadEnd_waiting {s : State} {bits : List Bool} (run : s.inReset = false) (read : s.ciu.inProgress = true)
    (length : bits.length = 128) : exec (.chainReadEnd bits) s = .next (s.takeAllWaiting.readEnded bits) := by
  have kept : s.takeAllWaiting.inReset = s.inReset := (takeEvents_kept s.ciu.handed _).1.inReset
  exact (execChainReadEnd_takeAllWaiting bits s run read).trans
    (exec_chainReadEnd (kept.trans run) (by rw [ciu_takeAllWaiting]; exact read) length (by rw [ciu_takeAllWaiting]))

/-- What no part of a read's end changes: plan, Management Agent, Sweep Scheduler, Frame Class Table, timestamp counter, receiving side. -/
structure KeptByRead (s t : State) : Prop where
  cpt : t.cpt = s.cpt
  mga : t.mga = s.mga
  sws : t.sws = s.sws
  classTable : t.fsu.classTable = s.fsu.classTable
  now : t.psc.now = s.psc.now
  receive : ReceiveKept s t

theorem KeptByRead.trans {s t u : State} (a : KeptByRead s t) (b : KeptByRead t u) : KeptByRead s u :=
  ⟨b.1.trans a.1, b.2.trans a.2, b.3.trans a.3, b.4.trans a.4, b.5.trans a.5, a.6.trans b.6⟩

theorem ReadKept.keptByRead {s t : State} (h : ReadKept s t) : KeptByRead s t :=
  ⟨h.cpt, h.mga, h.sws, h.classTable, h.now, h.receive⟩

theorem keptByRead_takeAllWaiting (s : State) : KeptByRead s s.takeAllWaiting :=
  have emptied : KeptByRead s { s with ciu := { s.ciu with handed := [] } } := ⟨rfl, rfl, rfl, rfl, rfl, ⟨rfl, rfl, rfl, rfl, rfl⟩⟩
  emptied.trans (takeEvents_kept s.ciu.handed _).1.keptByRead

theorem receiveKept_readJudged (s : State) (bits : List Bool) : ReceiveKept s (s.readJudged bits) := ⟨rfl, rfl, rfl, rfl, rfl⟩

theorem keptByRead_readJudged (s : State) (bits : List Bool) : KeptByRead s (s.readJudged bits) :=
  ⟨rfl, rfl, rfl, rfl, rfl, receiveKept_readJudged s bits⟩

theorem keptByRead_readEnded (s : State) (bits : List Bool) : KeptByRead s (s.readEnded bits) :=
  (keptByRead_readJudged s bits).trans (takeEvents_kept (takenByRead s bits) (s.readJudged bits)).1.keptByRead

theorem ciu_readEnded (s : State) (bits : List Bool) : (s.readEnded bits).ciu = (s.readJudged bits).ciu := (takeEvents_kept _ _).2.1

/-- A context takes at most one event of a read. -/
theorem groups_takenByRead_nodup (s : State) (bits : List Bool) : ((takenByRead s bits).map HandedEvent.group).Nodup :=
  (groups_handed_nodup (Tab.get s.ciu.records) (recordAfterRead s bits) (List.nodup_reverse.2 (List.nodup_finRange 16))).sublist
    (List.filter_sublist.map _)

theorem mem_takenByRead {s : State} {bits : List Bool} {e : HandedEvent} : e ∈ takenByRead s bits ↔
    (∃ p j c, portChangeOf (Tab.get s.ciu.records p) (recordAfterRead s bits p) = some c ∧ e = { group := cell p j, change := c })
      ∧ lastRoundFlies s e.group = false := by
  unfold takenByRead handedByRead
  simp only [List.mem_filter, List.mem_flatMap, mem_handedFor, List.mem_reverse, List.mem_finRange, true_and, Bool.not_eq_true']
  exact and_congr_left' ⟨fun ⟨p, c, j, h⟩ => ⟨p, j, c, h⟩, fun ⟨p, j, c, h⟩ => ⟨p, c, j, h⟩⟩

/-- A context that a read hands no event, or whose last round flies, is untouched (R49, R50). -/
theorem readEnded_untouched {s : State} {bits : List Bool} {p : Fin 16} {j : Fin 4}
    (out : portChangeOf (Tab.get s.ciu.records p) (recordAfterRead s bits p) = none ∨ lastRoundFlies s (cell p j) = true) :
    (s.readEnded bits).ctx (cell p j) = s.ctx (cell p j) ∧ (s.readEnded bits).path (cell p j) = s.path (cell p j) := by
  obtain ⟨ctx, path, -⟩ := (takeEvents_kept (takenByRead s bits) (s.readJudged bits)).2.2 (cell p j) fun e mem same => by
    obtain ⟨⟨p', j', c, change, rfl⟩, lands⟩ := mem_takenByRead.1 mem
    have port := congrArg portOf same
    simp only [portOf_cell] at port
    subst port
    rcases out with still | flies
    · rw [still] at change
      cases change
    · rw [show cell p' j' = cell p' j from same, flies] at lands
      cases lands
  exact ⟨ctx, path⟩

/-! ## The notices of a read -/

/-- The 64 contexts as a read reaches them: port 15's first, in a port by lane (R45; log 33). -/
def contextsFromPort15 : List Index := (List.finRange 16).reverse.flatMap fun p => (List.finRange 4).map (cell p)

theorem contextsFromPort15_nodup : contextsFromPort15.Nodup := by decide +kernel

theorem mem_contextsFromPort15 (g : Index) : g ∈ contextsFromPort15 := by
  simp only [contextsFromPort15, List.mem_flatMap, List.mem_reverse, List.mem_finRange, List.mem_map, true_and]
  exact ⟨portOf g, laneOf g, cell_portOf_laneOf g⟩

theorem groups_takenByRead_sublist (s : State) (bits : List Bool) :
    ((takenByRead s bits).map HandedEvent.group).Sublist contextsFromPort15 := by
  have port : ∀ (p : Fin 16) (old new : InventoryRecord),
      ((handedFor p old new).map HandedEvent.group).Sublist ((List.finRange 4).map (cell p)) := fun p old new => by
    unfold handedFor
    cases portChangeOf old new with
    | none => exact List.nil_sublist _
    | some c => simp [Function.comp_def]
  refine (List.filter_sublist.map _).trans ?_
  rw [handedByRead, List.map_flatMap]
  exact .flatMap_right _ fun p _ => port p _ _

/-- A read posts the notice of this port (R46). -/
def PostsPort (s : State) (bits : List Bool) (p : Fin 16) : Prop :=
  readChainByte (portByte bits p) = none ∨ recordAfterRead s bits p ≠ Tab.get s.ciu.records p

/-- The port notices of a read, from port 15 down, each with the record the read leaves (R46, R48). -/
theorem portNotices_readEnded (s : State) (bits : List Bool) {ports : List (Fin 16)} (down : ports.Pairwise fun a b => b < a)
    (posts : ∀ p, p ∈ ports ↔ PostsPort s bits p) (q : List Notice) :
    (List.finRange 16).reverse.foldl (noticedByRead s bits) q = ports.foldl (portNoticed s (s.readEnded bits)) q := by
  have all : (List.finRange 16).reverse.Nodup := List.nodup_reverse.2 (List.nodup_finRange 16)
  have sub : ports.Sublist (List.finRange 16).reverse :=
    List.sublist_of_subperm_of_pairwise
      (List.subperm_of_subset (down.imp fun h => ne_of_gt h) fun p _ => List.mem_reverse.2 (List.mem_finRange p)) down (by decide)
  rw [foldl_of_sublist (f := noticedByRead s bits) sub all fun p _ out q => if_neg fun h => out ((posts p).2 h)]
  refine List.foldl_ext _ _ _ fun q p mem => ?_
  have record : Tab.get (s.readEnded bits).ciu.records p = recordAfterRead s bits p := by
    rw [ciu_readEnded]
    exact Tab.get_build ..
  rw [portNoticed, record]
  exact if_pos ((posts p).1 mem)

/-- The notices of a read: the ports', then those of the contexts that have changed (R45, R46, R57; log 9, 33). -/
theorem notices_readEnded (s : State) (bits : List Bool) {ports : List (Fin 16)} (down : ports.Pairwise fun a b => b < a)
    (posts : ∀ p, p ∈ ports ↔ PostsPort s bits p) :
    (s.readEnded bits).notices
      = contextsFromPort15.foldl (groupNoticed s (s.readEnded bits)) (ports.foldl (portNoticed s (s.readEnded bits)) s.notices) := by
  have skip : ∀ g ∈ contextsFromPort15, g ∉ (takenByRead s bits).map HandedEvent.group → ∀ q,
      groupNoticed s (s.readEnded bits) q g = q := fun g _ out q =>
    groupNoticed_same ((takeEvents_kept _ _).2.2 g fun e mem same => out (same ▸ List.mem_map_of_mem mem)).1 q
  have taken := notices_takeEvents (takenByRead s bits) (s.readJudged bits) (groups_takenByRead_nodup s bits)
  rw [foldl_of_sublist (groups_takenByRead_sublist s bits) contextsFromPort15_nodup skip, ← portNotices_readEnded s bits down posts]
  exact taken

/-! ## The obligations on reads -/

/-- Settles O33: a trigger looks at the in-progress mark alone (R43). -/
theorem readTriggersFollowTheMarks : Obligations.ReadTriggersFollowTheMarks := by
  unfold Obligations.ReadTriggersFollowTheMarks
  intro s run
  have palert : exec .palertRise s = .next s.triggerRead := unlessReset_running _ run
  have interval : s.ciu.timer ≠ none →
      exec .inventoryIntervalExpiry s = .next (({ s with ciu := { s.ciu with timer := none } } : State).triggerRead) := fun runs => by
    obtain ⟨n, timer⟩ := Option.ne_none_iff_exists'.1 runs
    show execInventoryIntervalExpiry s = _
    unfold execInventoryIntervalExpiry
    rw [unlessReset_running _ run, timer]
  refine ⟨fun idle => ⟨?_, fun runs => ?_⟩, fun busy => ⟨?_, fun runs => ?_⟩⟩
  · rw [palert, State.triggerRead, if_neg (by rw [idle]; decide)]
    rfl
  · rw [interval runs, State.triggerRead, if_neg (by rw [idle]; decide)]
    rfl
  · rw [palert, State.triggerRead, if_pos busy]
  · rw [interval runs, State.triggerRead, if_pos busy]

/-- Settles O34: events that wait are taken first and leave records and plan; then the read is judged and its own events are taken. -/
theorem chainReadEndJudgesEveryPort : Obligations.ChainReadEndJudgesEveryPort := by
  unfold Obligations.ChainReadEndJudgesEveryPort
  intro s bits chain run read length packed bad old new posts fromPort15
  obtain rfl : chain = portByte bits := funext fun p => eq_portByte length (packed p)
  obtain ⟨-, -, others⟩ := takeEvents_kept s.ciu.handed { s with ciu := { s.ciu with handed := [] } }
  have ciu : s.takeAllWaiting.ciu = { s.ciu with handed := [] } := ciu_takeAllWaiting s
  have waited := keptByRead_takeAllWaiting s
  have record : ∀ p, recordAfterRead s.takeAllWaiting bits p = new p := fun p => by rw [recordAfterRead, ciu, waited.cpt]
  have kept := waited.trans (keptByRead_readEnded s.takeAllWaiting bits)
  have ended := ciu_readEnded s.takeAllWaiting bits
  refine ⟨s.takeAllWaiting.readEnded bits, exec_chainReadEnd_waiting run read length, fun p => ?_, fun none ports down posted => ?_,
    fun p j none same => ?_, fun pending => ?_, fun idle => ?_, kept.cpt, kept.mga, kept.sws, kept.classTable, kept.now, kept.receive⟩
  · rw [ended]
    exact (Tab.get_build ..).trans (record p)
  · rw [takeAllWaiting_nil none]
    exact notices_readEnded s bits down fun p => (posted p).trans (or_congr_left readChainByte_eq_none.symm)
  · simp only [Prod.mk.injEq] at same
    obtain ⟨present, cls, shape, ready⟩ := same
    have still : portChangeOf (Tab.get s.takeAllWaiting.ciu.records p) (recordAfterRead s.takeAllWaiting bits p) = Option.none := by
      rw [record p, ciu]
      exact portChangeOf_same present cls shape ready
    obtain ⟨ctx, path⟩ := readEnded_untouched (j := j) (.inl still)
    obtain ⟨ctx', path', -⟩ := others (cell p j) none
    exact ⟨ctx.trans ctx', path.trans path'⟩
  · simp only [ended, State.readJudged, ciu, pending, waited.mga, if_true, and_self]
  · simp only [ended, State.readJudged, ciu, idle, Bool.false_eq_true, if_false, and_self]

end Sys2Proof.Machine
end

section
/-! Port change events at their contexts: how each state takes each event, and that it stays so to the end of the read (R49, R50, R57,
R70 to R72). -/

namespace Sys2Proof.Machine

/-! ## How a context takes an event -/

/-- The ways in which a context can take a port change event. -/
inductive Reaction where
  | keep
  | retest
  | restart
  | leave (r : Reason)

/-- How a state takes a port change event (R60, R70 to R72). -/
def reaction : GroupState → PortChange → Reaction
  | .unplanned, _ => .keep
  | .waiting, _ => .retest
  | _, .removed => .leave .cableAbsent
  | .held, _ => .keep
  | _, .ready false => .leave .noReady
  | _, .replaced => .restart
  | _, .arrived | _, .ready true => .keep

/-- What a reaction does to context g of s. -/
def Reaction.run (s : State) (g : Index) : Reaction → State
  | .keep => s
  | .retest | .restart => s.applyStart g
  | .leave r => s.toWaiting g r

/-- What context g of t is after a reaction of it in s. -/
def Reaction.Acted (s t : State) (g : Index) : Reaction → Prop
  | .keep => t.ctx g = s.ctx g ∧ t.path g = s.path g
  | .retest => match startTest s g with
    | some w => t.ctx g = { s.ctx g with reason := w } ∧ t.path g = s.path g
    | none => AcquiresOrDiscovers s t g
  | .restart => StartTested s t g
  | .leave r => Waits t g (if s.mga.identity.assigned then r else .noIdentity)

theorem portChange_eq (s : State) (g : Index) (e : PortChange) : s.portChange g e = (reaction (s.ctx g).state e).run s g := by
  unfold State.portChange
  rcases e with _ | _ | _ | (_ | _) <;> cases (s.ctx g).state <;> rfl

theorem portChangeActs_iff (s t : State) (g : Index) (e : PortChange) :
    PortChangeActs s t g e ↔ (reaction (s.ctx g).state e).Acted s t g := by
  unfold PortChangeActs
  rcases e with _ | _ | _ | (_ | _) <;> cases (s.ctx g).state <;> rfl

/-- Exactly a WAITING context applies the start test to its reason alone (R60). -/
theorem reaction_eq_retest {st : GroupState} {e : PortChange} : reaction st e = .retest ↔ st = .waiting := by
  rcases e with _ | _ | _ | (_ | _) <;> cases st <;> simp [reaction]

/-- A context takes a port change event as R49 and R70 to R72 say. -/
theorem portChangeActs_portChange (s : State) (g : Index) (e : PortChange) : PortChangeActs s (s.portChange g e) g e := by
  rw [portChangeActs_iff, portChange_eq]
  cases how : reaction (s.ctx g).state e with
  | keep => exact ⟨rfl, rfl⟩
  | retest =>
    unfold Reaction.Acted
    cases test : startTest s g with
    | none =>
      rw [Reaction.run, State.applyStart, test]
      exact acquiresOrDiscovers_enterAcquiring s g
    | some w =>
      rw [Reaction.run, applyStart_waiting (reaction_eq_retest.1 how) test]
      exact ⟨ctx_modCtx_same .., rfl⟩
  | restart =>
    refine startTested_applyStart s g fun waiting => ?_
    rw [reaction_eq_retest.2 waiting] at how
    cases how
  | leave r => exact waits_enter ..

/-- What keeps context and path of g, and what holds of it in WAITING or on entry to ACQUIRING, keeps how it took its event. -/
theorem PortChangeActs.mono {s t u : State} {g : Index} {e : PortChange} (ctx : u.ctx g = t.ctx g) (path : u.path g = t.path g)
    (waits : ∀ r, Waits t g r → Waits u g r) (starts : AcquiresOrDiscovers s t g → AcquiresOrDiscovers s u g)
    (acted : PortChangeActs s t g e) : PortChangeActs s u g e := by
  rw [portChangeActs_iff] at acted ⊢
  cases how : reaction (s.ctx g).state e <;> rw [how] at acted
  case keep => exact ⟨ctx.trans acted.1, path.trans acted.2⟩
  case retest =>
    unfold Reaction.Acted at acted ⊢
    cases test : startTest s g <;> rw [test] at acted
    · exact starts acted
    · exact ⟨ctx.trans acted.1, path.trans acted.2⟩
  case restart =>
    unfold Reaction.Acted StartTested at acted ⊢
    cases test : startTest s g <;> rw [test] at acted
    · exact starts acted
    · exact waits _ acted
  case leave r => exact waits _ acted

/-- Entry to ACQUIRING is alike in two states that agree on context, lock view and Management Agent. -/
theorem AcquiresOrDiscovers.of_agree {s s' t : State} {g : Index} (ctx : s'.ctx g = s.ctx g)
    (view : s'.buc.lockView = s.buc.lockView) (mga : s'.mga = s.mga) (entered : AcquiresOrDiscovers s' t g) :
    AcquiresOrDiscovers s t g := by
  have locked : allLocked s' g = allLocked s g := allLocked_congr (by unfold boundWidth; rw [ctx]) view
  unfold AcquiresOrDiscovers at entered ⊢
  rw [locked, mga] at entered
  split_ifs at entered ⊢
  · exact entered
  · exact ⟨entered.inState, mga ▸ entered.timer, entered.poll, entered.record.trans (by rw [ctx]), entered.probes⟩

/-- A context takes an event alike in two states that agree at it, what waits aside. -/
theorem PortChangeActs.of_agree {s s' t : State} {g : Index} {e : PortChange} (ctx : s'.ctx g = s.ctx g) (path : s'.path g = s.path g)
    (view : s'.buc.lockView = s.buc.lockView) (record : s'.record g = s.record g) (mga : s'.mga = s.mga)
    (acted : PortChangeActs s' t g e) : PortChangeActs s t g e := by
  have sameTest : startTest s' g = startTest s g := by
    unfold startTest
    rw [record, mga]
  rw [portChangeActs_iff, ctx] at acted
  rw [portChangeActs_iff]
  cases how : reaction (s.ctx g).state e <;> rw [how] at acted
  case keep => exact ⟨acted.1.trans ctx, acted.2.trans path⟩
  case retest =>
    unfold Reaction.Acted at acted ⊢
    rw [sameTest] at acted
    cases test : startTest s g <;> rw [test] at acted
    · exact acted.of_agree ctx view mga
    · exact ⟨acted.1.trans (by rw [ctx]), acted.2.trans path⟩
  case restart =>
    unfold Reaction.Acted StartTested at acted ⊢
    rw [sameTest] at acted
    cases test : startTest s g <;> rw [test] at acted
    · exact AcquiresOrDiscovers.of_agree ctx view mga acted
    · exact acted
  case leave r =>
    unfold Reaction.Acted at acted ⊢
    rwa [mga] at acted

/-! ## Among the events of a read -/

/-- To the end of its own event a context stays as it took it. -/
theorem portChangeActs_takePortChange (s : State) (e : HandedEvent) : PortChangeActs s (s.takePortChange e) e.group e.change :=
  have granted := Granted.endEvent (s.portChange e.group e.change) s
  (portChangeActs_portChange s e.group e.change).mono (granted.ctx _) (granted.path _) (fun _ => granted.waits) granted.acquiresOrDiscovers

/-- The events of other contexts leave a context as it took its own. -/
theorem PortChangeActs.takeEvents {s t : State} {g : Index} {e : PortChange} (acted : PortChangeActs s t g e) (es : List HandedEvent)
    (others : ∀ x ∈ es, x.group ≠ g) : PortChangeActs s (es.foldl State.takePortChange t) g e := by
  induction es generalizing t with
  | nil => exact acted
  | cons x rest ih =>
    have kept : KeptAt g t (t.portChange x.group x.change) :=
      .ofEventAt (others x (.head _)).symm (.portChange ..) (.portChange ..)
    have granted := Granted.endEvent (t.portChange x.group x.change) t
    have changed := acted.mono kept.ctx kept.path (fun _ => kept.waits) kept.acquiresOrDiscovers
    exact ih (changed.mono (granted.ctx _) (granted.path _) (fun _ => granted.waits) granted.acquiresOrDiscovers)
      fun y mem => others y (.tail _ mem)

/-- Of events for different contexts, taken one after another, each is taken as it would be alone (R49). -/
theorem portChangeActs_takeEvents {es : List HandedEvent} (d : (es.map HandedEvent.group).Nodup) (s : State) {e : HandedEvent}
    (mem : e ∈ es) : PortChangeActs s (es.foldl State.takePortChange s) e.group e.change := by
  obtain ⟨before, behind, rfl⟩ := List.append_of_mem mem
  rw [List.map_append, List.map_cons, List.nodup_middle, List.nodup_cons, List.mem_append, not_or] at d
  obtain ⟨⟨first, last⟩, -⟩ := d
  have earlier : ∀ x ∈ before, x.group ≠ e.group := fun x here same => first (same ▸ List.mem_map_of_mem here)
  have later : ∀ x ∈ behind, x.group ≠ e.group := fun x here same => last (same ▸ List.mem_map_of_mem here)
  rw [List.foldl_append, List.foldl_cons]
  obtain ⟨kept, ciu, untouched⟩ := takeEvents_kept before s
  obtain ⟨ctx, path, -⟩ := untouched e.group earlier
  have alone := portChangeActs_takePortChange (before.foldl State.takePortChange s) e
  exact (alone.of_agree ctx path kept.receive.lockView (by unfold State.record; rw [ciu]) kept.mga).takeEvents behind later

/-- REMOVED takes every context but an UNPLANNED or WAITING one to WAITING (R70). -/
theorem waits_of_removed {s t : State} {g : Index} (acted : PortChangeActs s t g .removed) (planned : (s.ctx g).state ≠ .unplanned)
    (left : (s.ctx g).state ≠ .waiting) : Waits t g (if s.mga.identity.assigned then .cableAbsent else .noIdentity) := by
  have how : reaction (s.ctx g).state .removed = .leave .cableAbsent := by
    cases st : (s.ctx g).state
    case unplanned => exact absurd st planned
    case waiting => exact absurd st left
    all_goals rfl
  rw [portChangeActs_iff, how] at acted
  exact acted

/-! ## Which event, and when -/

/-- The kind of a port change event, by the old and the new record (R49). -/
theorem portChangeOf_kinds (old new : InventoryRecord) :
    (old.present = false → new.present = true → portChangeOf old new = some .arrived)
    ∧ (old.present = true → new.present = false → portChangeOf old new = some .removed)
    ∧ (old.present = new.present → (old.cls ≠ new.cls ∨ old.shape ≠ new.shape) → portChangeOf old new = some .replaced)
    ∧ (old.present = new.present → old.cls = new.cls → old.shape = new.shape →
      (old.ready ≠ new.ready → portChangeOf old new = some (.ready new.ready))
      ∧ (old.ready = new.ready → portChangeOf old new = none)) := by
  unfold portChangeOf
  refine ⟨fun was is => ?_, fun was is => ?_, fun same differ => ?_, fun same cls shape => ⟨fun differ => ?_, fun ready => ?_⟩⟩
  · simp [was, is]
  · simp [was, is]
  · simp [same, differ]
  · simp [same, cls, shape, differ]
  · simp [same, cls, shape, ready]

/-- A verdict can fall together with a read where the last round of a burst is in flight (R50). -/
theorem lastRoundFlies_iff {s : State} (consistent : SchedulerConsistent s) (g : Index) :
    lastRoundFlies s g = true ↔ (s.ctx g).state = .discovering
      ∧ ∃ r ∈ s.psc.queue, r.group = g ∧ r.kind = .burst ∧ r.rounds = 1 ∧ r.inFlight = true := by
  unfold lastRoundFlies
  simp only [Bool.and_eq_true, beq_iff_eq, Option.any_eq_true, and_assoc]
  refine and_congr_right' ⟨?_, ?_⟩
  · rintro ⟨r, found, flies⟩
    obtain ⟨mem, own⟩ := findRequest_some found
    exact ⟨r, mem, own, flies⟩
  · rintro ⟨r, mem, rfl, flies⟩
    exact ⟨r, findRequest_of_mem consistent.oneRequest mem, flies⟩

/-- What the end of a read does at a context of a changed port: nothing where the last round flies, its event elsewhere (R49, R50). -/
theorem readEnded_at {s : State} {bits : List Bool} {p : Fin 16} {e : PortChange}
    (change : portChangeOf (Tab.get s.ciu.records p) (recordAfterRead s bits p) = some e) (j : Fin 4) :
    (lastRoundFlies s (cell p j) = true →
      (s.readEnded bits).ctx (cell p j) = s.ctx (cell p j) ∧ (s.readEnded bits).path (cell p j) = s.path (cell p j))
    ∧ (lastRoundFlies s (cell p j) = false → PortChangeActs (s.readJudged bits) (s.readEnded bits) (cell p j) e) :=
  ⟨fun flies => readEnded_untouched (.inr flies), fun lands =>
    portChangeActs_takeEvents (e := { group := cell p j, change := e }) (groups_takenByRead_nodup s bits) _
      (mem_takenByRead.2 ⟨⟨p, j, e, change, rfl⟩, lands⟩)⟩

theorem ctx_readJudged (s : State) (bits : List Bool) (g : Index) : (s.readJudged bits).ctx g = s.ctx g := by
  unfold State.ctx
  rfl

/-- What REMOVED leaves of a context in the state after the read's judging, in the terms of the state before it (R70). -/
theorem waits_of_removed_readJudged {s t : State} {bits : List Bool} {g : Index}
    (acted : PortChangeActs (s.readJudged bits) t g .removed) (planned : (s.ctx g).state ≠ .unplanned)
    (left : (s.ctx g).state ≠ .waiting) : Waits t g (if s.mga.identity.assigned then .cableAbsent else .noIdentity) := by
  have waits := waits_of_removed acted
  rw [ctx_readJudged, (keptByRead_readJudged s bits).mga] at waits
  exact waits planned left

/-! ## The obligation -/

theorem othersKept_setHanded {s t : State} {g : Index} {es : List HandedEvent}
    (h : OthersKept g { s with ciu := { s.ciu with handed := es } } t) : OthersKept g s t :=
  ⟨h.contexts, h.paths, h.content, h.holds, h.probes, h.requests, h.notices⟩

theorem receiveKept_setHanded {s t : State} {es : List HandedEvent}
    (h : ReceiveKept { s with ciu := { s.ciu with handed := es } } t) : ReceiveKept s t :=
  ⟨h.lfr, h.lockView, h.ers, h.lineRx, h.late⟩

/-- The earliest event that waits, taken as an event of its own (R49, R50; log 32). -/
theorem run_portChange {s : State} {e : HandedEvent} {rest : List HandedEvent} (waits : s.ciu.handed = e :: rest) :
    ∃ t, OwnEvent.run .portChange s = .next t ∧ PortChangeActs s t e.group e.change
      ∧ t.ciu = { s.ciu with handed := rest } ∧ t.notices = groupNoticed s t s.notices e.group
      ∧ OthersKept e.group s t ∧ ReceiveKept s t ∧ t.cpt = s.cpt ∧ t.mga = s.mga ∧ t.sws = s.sws ∧ t.psc.now = s.psc.now := by
  have event := EventAt.takePortChange { s with ciu := { s.ciu with handed := rest } } e
  have acted := portChangeActs_takePortChange { s with ciu := { s.ciu with handed := rest } } e
  have notices := notices_takePortChange { s with ciu := { s.ciu with handed := rest } } e
  have run : OwnEvent.run .portChange s = .next s.takeWaiting := rfl
  rw [takeWaiting_cons waits] at run
  generalize State.takePortChange _ e = t at run event acted notices
  have acted : PortChangeActs s t e.group e.change := by refine .of_agree ?_ ?_ ?_ ?_ ?_ acted <;> rfl
  exact ⟨t, run, acted, event.blocks.ciu, notices, othersKept_setHanded event.others,
    receiveKept_setHanded event.receive, event.blocks.cpt, event.blocks.mga, event.blocks.sws, event.blocks.now⟩

/-- The end of a read takes what waits first, one event after another (log 32). -/
theorem exec_chainReadEnd_takes_waiting {s : State} (bits : List Bool) (run : s.inReset = false) (read : s.ciu.inProgress = true) :
    exec (.chainReadEnd bits) s = exec (.chainReadEnd bits)
      (s.ciu.handed.foldl (fun u e => (u.portChange e.group e.change).endEvent u) { s with ciu := { s.ciu with handed := [] } }) := by
  have waiting : s.ciu.handed.foldl (fun u e => (u.portChange e.group e.change).endEvent u) { s with ciu := { s.ciu with handed := [] } }
      = s.takeAllWaiting := rfl
  rw [waiting]
  exact execChainReadEnd_takeAllWaiting bits s run read

theorem readJudged_only (s : State) (bits : List Bool) :
    s.readJudged bits = { s with ciu := (s.readJudged bits).ciu, notices := (s.readJudged bits).notices } := rfl

theorem handed_readJudged (s : State) (bits : List Bool) :
    (s.readJudged bits).ciu.handed = (handedByRead s bits).filter fun e => lastRoundFlies s e.group := rfl

theorem readEnded_eq (s : State) (bits : List Bool) :
    s.readEnded bits = ((handedByRead s bits).filter fun e => !lastRoundFlies s e.group).foldl
      (fun u e => (u.portChange e.group e.change).endEvent u) (s.readJudged bits) := rfl

/-- Settles O35: each context of a changed port takes its event as alone, or has it wait, and what waits is taken first in its turn. -/
theorem portChangeActsOnTheContexts : Obligations.PortChangeActsOnTheContexts := by
  unfold Obligations.PortChangeActsOnTheContexts
  refine ⟨portChangeOf_kinds, fun s bits run read _ => exec_chainReadEnd_takes_waiting bits run read, ?_,
    fun s g consistent => lastRoundFlies_iff consistent g, fun s e rest => run_portChange⟩
  intro s bits run read length none old new change handed
  refine ⟨s.readJudged bits, s.readEnded bits, exec_chainReadEnd run read length none, readJudged_only s bits, fun p => Tab.get_build ..,
    handed_readJudged s bits, readEnded_eq s bits, ciu_readEnded s bits, fun p j e changed => ?_⟩
  obtain ⟨flies, lands⟩ := readEnded_at changed j
  refine ⟨flies, fun out => ⟨lands out, fun removed planned left => ?_⟩⟩
  rw [removed] at lands
  exact waits_of_removed_readJudged (lands out) planned left

end Sys2Proof.Machine
end

section
/-! Events at one context taken to their end, and two families of them: the state timers that expire (R65, R68, R79), and the probe views
that are accepted (R57, R99, R101 to R106). -/

namespace Sys2Proof.Machine

/-! ## To the end of an event at one context -/

theorem ContextMoves.eventAt {g : Index} {s t : State} (m : ContextMoves g s t) : EventAt g s t :=
  m.keep (P := EventAt g s) (fun _ _ kept move => kept.trans move.eventAt) (.refl g s)

theorem ContextMoves.notices {g : Index} {s t : State} (m : ContextMoves g s t) : t.notices = s.notices :=
  m.keep (P := fun u => u.notices = s.notices) (fun _ _ same move => move.notices.trans same) rfl

/-- The end of an event posts the notices of the changed groups in index order (R57). -/
theorem notices_endEvent_all {before t : State} (now : t.psc.now = before.psc.now) (posts : t.notices = before.notices) :
    (t.endEvent before).notices = indices.foldl (groupNoticed before (t.endEvent before)) before.notices := by
  rw [notices_endEvent t before now, posts]
  exact List.foldl_ext _ _ _ fun q g _ => groupNoticed_congr rfl (ctx_endEvent t before g).symm rfl q

/-- The end of an event that left every context but g alone posts at most the notice of g (R57). -/
theorem notices_endEvent_at {before t : State} {g : Index} (others : ∀ h, h ≠ g → t.ctx h = before.ctx h)
    (now : t.psc.now = before.psc.now) (posts : t.notices = before.notices) :
    (t.endEvent before).notices = groupNoticed before (t.endEvent before) before.notices g := by
  rw [notices_endEvent_all now posts, groupNoticed_only fun h ne => (ctx_endEvent ..).trans (others h ne)]

/-- What an event at context g is to the rest of the part: it touches that group alone and posts at most its notice (R57). -/
structure EndedAt (g : Index) (s t : State) : Prop where
  kept : EventAt g s t
  notices : t.notices = groupNoticed s t s.notices g

theorem ContextMoves.endedAt {g : Index} {s t : State} (m : ContextMoves g s t) : EndedAt g s (t.endEvent s) where
  kept := m.eventAt.endEvent
  notices := notices_endEvent_at m.eventAt.others.contexts m.eventAt.blocks.now m.notices

/-- A context that has entered another state has its notice posted (R57). -/
theorem groupNoticed_of_inState {s t : State} {g : Index} {st : GroupState} {r : Reason} {o : Option HoldOrigin}
    (entered : InState t g st r o) (left : (s.ctx g).state ≠ st) (q : List Notice) :
    groupNoticed s t q g = postNotice q g.val (.group st r o) s.psc.now := by
  unfold groupNoticed
  rw [entered.state, entered.reason, entered.origin, if_neg fun same => left same.1.symm]

/-! ## State timers -/

theorem runsTimer_of_eq {c : Context} {k : TimerKind} {n : Nat} (timer : c.timer = some { kind := k, remaining := n }) :
    runsTimer c k = true := by
  simp [runsTimer, timer]

theorem exec_lockTimerExpiry {s : State} {g : Index} (run : s.inReset = false) (timer : runsTimer (s.ctx g) .lock = true)
    (state : (s.ctx g).state = .acquiring ∨ (s.ctx g).state = .lost) :
    exec (.lockTimerExpiry g) s = .next ((s.quarantine g .lockTimeout).endEvent s) :=
  (unlessReset_running _ run).trans (congrArg Host.Outcome.next (if_pos ⟨timer, state⟩))

theorem exec_agreementTimerExpiry {s : State} {g : Index} (run : s.inReset = false) (timer : runsTimer (s.ctx g) .agreement = true)
    (state : (s.ctx g).state = .agreeing) :
    exec (.agreementTimerExpiry g) s = .next ((s.quarantine g .noAgreement).endEvent s) :=
  (unlessReset_running _ run).trans (congrArg Host.Outcome.next (if_pos ⟨timer, state⟩))

theorem exec_retryTimerExpiry {s : State} {g : Index} (run : s.inReset = false) (timer : runsTimer (s.ctx g) .retry = true)
    (state : (s.ctx g).state = .quarantined) : exec (.retryTimerExpiry g) s = .next ((s.applyStart g).endEvent s) :=
  (unlessReset_running _ run).trans (congrArg Host.Outcome.next (if_pos ⟨timer, state⟩))

/-- A started context that is quarantined, at the end of the event (R57, R78). -/
theorem quarantined_endEvent {s : State} {g : Index} (r : Reason) (started : Started s g) (left : (s.ctx g).state ≠ .quarantined) :
    Quarantined s ((s.quarantine g r).endEvent s) g r
      ∧ ((s.quarantine g r).endEvent s).notices = postNotice s.notices g.val (.group .quarantined r none) s.psc.now
      ∧ EventAt g s ((s.quarantine g r).endEvent s) := by
  have entered := (Granted.endEvent _ s).quarantined (quarantined_quarantine s g r)
  have ended := (ContextMoves.quarantine started r).endedAt
  exact ⟨entered, ended.notices.trans (groupNoticed_of_inState entered.inState left _), ended.kept⟩

/-- A context past WAITING taken through the start test, at the end of the event (R57, R59). -/
theorem startTested_endEvent {s : State} {g : Index} (started : Started s g) :
    StartTested s ((s.applyStart g).endEvent s) g ∧ (((s.applyStart g).endEvent s).ctx g).bound = (s.ctx g).bound
      ∧ EndedAt g s ((s.applyStart g).endEvent s) :=
  ⟨(Granted.endEvent _ s).startTested (startTested_applyStart s g started.2),
    (congrArg Context.bound (ctx_endEvent ..)).trans (bound_applyStart s g), (ContextMoves.applyStart started.1).endedAt⟩

/-- Settles O36: each timer's expiry is one change of state of its context, taken to the end of the event. -/
theorem expiredStateTimersAct : Obligations.ExpiredStateTimersAct := by
  unfold Obligations.ExpiredStateTimersAct
  intro s g n run
  refine ⟨fun timer state => ?_, fun timer state => ?_, fun timer state => ?_⟩
  · have started : Started s g := state.elim (.of_state · (by decide)) (.of_state · (by decide))
    obtain ⟨entered, notices, kept⟩ := quarantined_endEvent .lockTimeout started (by rcases state with e | e <;> rw [e] <;> decide)
    exact ⟨_, exec_lockTimerExpiry run (runsTimer_of_eq timer) state, entered, notices, kept.others, kept.blocks, kept.receive⟩
  · obtain ⟨entered, notices, kept⟩ := quarantined_endEvent .noAgreement (.of_state state (by decide)) (by rw [state]; decide)
    exact ⟨_, exec_agreementTimerExpiry run (runsTimer_of_eq timer) state, entered, notices, kept.others, kept.blocks, kept.receive⟩
  · obtain ⟨tested, bound, ended⟩ := startTested_endEvent (s := s) (g := g) (.of_state state (by decide))
    exact ⟨_, exec_retryTimerExpiry run (runsTimer_of_eq timer) state, tested, bound, ended.notices, ended.kept.others,
      ended.kept.blocks, ended.kept.receive⟩

/-! ## Accepted probe views -/

/-- A view that passes the acceptance test of R99 is applied to the covering context. -/
theorem viewReport_accepted {s : State} {l g : Index} {sender : FarEnd} {m : Merged} (v : View)
    (covered : covering s.cpt.plan l = some g) (merged : (Tab.get (s.ctx g).record.lanes (offsetIn g l)).merged = some m)
    (far : m.far = sender) (foreign : ¬(sender.chassis = s.mga.identity.chassis ∧ sender.unit = s.mga.identity.unit)) :
    s.viewReport l sender (some v) = s.applyView g v := by
  have accepted : acceptsReport s g l sender = true := by
    simpa [acceptsReport, merged, far, imp_iff_not_or] using foreign
  simp only [State.viewReport, covered, accepted, if_true]

/-- A well-formed probe received whole: its echo slot filled, its view reported, and the end of the event (R92, R96). -/
theorem exec_probeReceived {s : State} {p : Fin 16} {j : Fin 4} {rest : List Byte} {a : Time} {x : ProbeItems}
    (run : s.inReset = false) (arriving : Tab.get s.fsu.lineRx (cell p j) = .probe a) (read : readProbe rest = some x) :
    exec (.probeReceived p j rest) s = .next
      ((((s.setLineRx (cell p j) .none).setEcho (cell p j)
        (some { tag := x.tag, sendTime := x.sendTime, arrival := a })).viewReport (cell p j) x.sender x.view).endEvent s) := by
  show execProbeReceived p j rest s = _
  unfold execProbeReceived
  rw [unlessReset_running _ run]
  simp only [arriving, read]

/-- An accepted view that acts on a part which is at its context the part the event came to, taken to the end of the event (R57). -/
theorem viewActed_endEvent {s u : State} {g : Index} (v : View) (others : OthersKept g s u) (blocks : BlocksKept s u)
    (same : SameAt g s u) (posts : u.notices = s.notices) :
    ViewActed s ((u.applyView g v).endEvent s) g v
      ∧ ((u.applyView g v).endEvent s).notices = groupNoticed s ((u.applyView g v).endEvent s) s.notices g
      ∧ OthersKept g s ((u.applyView g v).endEvent s) ∧ BlocksKept s ((u.applyView g v).endEvent s) := by
  have moves := ContextMoves.applyView u g v
  have kept := others.trans moves.eventAt.others
  have blocks := blocks.trans moves.eventAt.blocks
  exact ⟨same.viewActed ((Granted.endEvent _ s).viewActed (viewActed_applyView u g v)),
    notices_endEvent_at kept.contexts blocks.now (moves.notices.trans posts), kept.trans (EventAt.ofEndEvent kept.contexts).others,
    blocks.trans (.endEvent ..)⟩

/-- Settles O19: the view table acts on the part whose echo slot is filled, which is at the context the part the probe came to. -/
theorem acceptedProbeViewActs : Obligations.AcceptedProbeViewActs := by
  unfold Obligations.AcceptedProbeViewActs
  intro s p j rest a x g v m run arriving read view covered merged far foreign
  have exec := exec_probeReceived run arriving read
  have applied := viewReport_accepted (s := (s.setLineRx (cell p j) .none).setEcho (cell p j) (some ⟨x.tag, x.sendTime, a⟩)) v
    covered merged far foreign
  rw [view, applied] at exec
  exact ⟨_, exec, viewActed_endEvent v
    ⟨fun _ _ => rfl, fun _ _ => rfl, fun side _ => by cases side <;> rfl, fun _ => rfl, fun _ _ _ _ => rfl, rfl, rfl⟩
    ⟨rfl, rfl, rfl, rfl, rfl, rfl, rfl, rfl, rfl, rfl⟩ ⟨rfl, rfl, rfl, rfl, rfl⟩ rfl⟩

end Sys2Proof.Machine
end

section
/-! LOCK and LOSS events at the contexts: those that are recorded only (R54, R62, R67, R69), the lock that starts a discovery (R62, R67), and
the loss that takes a running group to LOST (R66). -/

namespace Sys2Proof.Machine

/-! ## The lane's own part of an event -/

/-- What a LOCK event changes at its lane alone: front and lane lock view (R1, R2, R54). -/
def State.lockedAt (s : State) (l : Index) (inverted : Bool) : State :=
  (s.setFront l fun _ => { state := .locked, polarity := inverted }).setLockView l { locked := true, polarity := inverted }

/-- What a LOSS event changes at its lane alone: front, frame in interception and lane lock view (R1, R3, R54). -/
def State.lostAt (s : State) (l : Index) (into : RxState) : State :=
  ((s.setFront l fun f => { f with state := into }).setLineRx l .none).setLockView l
    { locked := false, polarity := (Tab.get s.buc.lockView l).polarity }

theorem lockEvent_uncovered {s : State} {l : Index} (inverted : Bool) (free : covering s.cpt.plan l = none) :
    (s.setFront l fun _ => { state := .locked, polarity := inverted }).lockEvent l inverted = s.lockedAt l inverted := by
  unfold State.lockEvent
  simp only [cpt_setLockView, cpt_setFront, free]
  rfl

theorem lockEvent_covered {s : State} {l g : Index} (inverted : Bool) (covered : covering s.cpt.plan l = some g) :
    (s.setFront l fun _ => { state := .locked, polarity := inverted }).lockEvent l inverted
      = (s.lockedAt l inverted).contextLock g := by
  unfold State.lockEvent
  simp only [cpt_setLockView, cpt_setFront, covered]
  rfl

theorem loseLock_uncovered {s : State} {l : Index} (into : RxState) (free : covering s.cpt.plan l = none) :
    s.loseLock l into = (s.lostAt l into).endEvent s := by
  unfold State.loseLock State.lossEvent
  simp only [cpt_setLockView, cpt_setLineRx, cpt_setFront, free]
  rfl

theorem loseLock_covered {s : State} {l g : Index} (into : RxState) (covered : covering s.cpt.plan l = some g) :
    s.loseLock l into = ((s.lostAt l into).contextLoss g).endEvent s := by
  unfold State.loseLock State.lossEvent
  simp only [cpt_setLockView, cpt_setLineRx, cpt_setFront, covered]
  rfl

theorem exec_lockAchieved {s : State} {p : Fin 16} {j : Fin 4} (inverted : Bool) (run : s.inReset = false)
    (acquiring : s.rx (cell p j) = .acquiring) :
    exec (.lockAchieved p j inverted) s = .next
      (((s.setFront (cell p j) fun _ => { state := .locked, polarity := inverted }).lockEvent (cell p j) inverted).endEvent s) :=
  (unlessReset_running _ run).trans (congrArg Host.Outcome.next (if_pos acquiring))

theorem exec_lockLost {s : State} {p : Fin 16} {j : Fin 4} (run : s.inReset = false) (locked : s.rx (cell p j) = .locked) :
    exec (.lockLost p j) s = .next (s.loseLock (cell p j) .acquiring) :=
  (unlessReset_running _ run).trans (congrArg Host.Outcome.next (if_pos locked))

theorem exec_signalLost {s : State} {p : Fin 16} {j : Fin 4} (run : s.inReset = false) (locked : s.rx (cell p j) = .locked) :
    exec (.signalLost p j) s = .next (s.loseLock (cell p j) .dark) := by
  show execSignalLost p j s = _
  unfold execSignalLost
  rw [unlessReset_running _ run, locked]

/-- Nothing of a group's frame speaks of a lane's front and lock. -/
theorem EventAt.afterLane {g : Index} {s t u : State} (lane : OthersKept g s t ∧ BlocksKept s t) (e : EventAt g t u) :
    OthersKept g s u ∧ BlocksKept s u :=
  ⟨lane.1.trans e.others, lane.2.trans e.blocks⟩

theorem lockedAt_kept (s : State) (l g : Index) (inverted : Bool) :
    OthersKept g s (s.lockedAt l inverted) ∧ BlocksKept s (s.lockedAt l inverted) :=
  ⟨⟨fun _ _ => rfl, fun _ _ => rfl, fun side _ => by cases side <;> rfl, fun _ => rfl, fun _ _ _ _ => rfl, rfl, rfl⟩,
    ⟨rfl, rfl, rfl, rfl, rfl, rfl, rfl, rfl, rfl, rfl⟩⟩

theorem lostAt_kept (s : State) (l g : Index) (into : RxState) :
    OthersKept g s (s.lostAt l into) ∧ BlocksKept s (s.lostAt l into) :=
  ⟨⟨fun _ _ => rfl, fun _ _ => rfl, fun side _ => by cases side <;> rfl, fun _ => rfl, fun _ _ _ _ => rfl, rfl, rfl⟩,
    ⟨rfl, rfl, rfl, rfl, rfl, rfl, rfl, rfl, rfl, rfl⟩⟩

/-! ## Events that are recorded only -/

/-- A LOCK event moves a context in ACQUIRING or LOST alone (R62, R67, R69). -/
theorem contextLock_idle {s : State} {g : Index} (idle : (s.ctx g).state ∈ [.quarantined, .held, .waiting, .unplanned]) :
    s.contextLock g = s := by
  unfold State.contextLock
  split
  case h_1 | h_2 =>
    next st =>
    rw [st] at idle
    exact absurd idle (by decide)
  all_goals rfl

/-- A LOSS event moves a context in DISCOVERING, AGREEING, VERIFIED or DEGRADED alone (R62, R66, R67, R69). -/
theorem contextLoss_idle {s : State} {g : Index}
    (idle : (s.ctx g).state ∈ [.quarantined, .held, .waiting, .unplanned] ∨ (s.ctx g).state ∈ [.acquiring, .lost]) :
    s.contextLoss g = s := by
  unfold State.contextLoss
  split
  case h_1 | h_2 | h_3 | h_4 =>
    next st =>
    rw [st] at idle
    exact absurd idle (by decide)
  all_goals rfl

/-- The end of an event that has changed a lane's front and lock alone: no arbiter sees it. -/
theorem endEvent_laneOnly {s t : State} (lanes : LanesSettled s) (grants : GrantsSettled s) (tx : ∀ side, t.tx side = s.tx side)
    (ers : t.ers = s.ers) (psc : t.psc = s.psc) (mga : t.mga = s.mga) (ctx : ∀ g, t.ctx g = s.ctx g) : t.endEvent s = t :=
  endEvent_settled (fun g => by rw [ctx]; exact groupChanged_self _) (lanes.same tx ers psc (by rw [mga]))
    (grants.congr (by rw [psc]) (by rw [psc]) (fun k => by rw [psc]) fun g => boundWidth_of_ctx (ctx g))

theorem lockEvent_recordedOnly {s : State} {l : Index} (inverted : Bool) (lanes : LanesSettled s) (grants : GrantsSettled s)
    (idle : covering s.cpt.plan l = none
      ∨ ∃ g, covering s.cpt.plan l = some g ∧ (s.ctx g).state ∈ [.quarantined, .held, .waiting, .unplanned]) :
    ((s.setFront l fun _ => { state := .locked, polarity := inverted }).lockEvent l inverted).endEvent s
      = s.lockedAt l inverted := by
  have recorded : (s.setFront l fun _ => { state := .locked, polarity := inverted }).lockEvent l inverted = s.lockedAt l inverted := by
    rcases idle with free | ⟨g, covered, state⟩
    · exact lockEvent_uncovered inverted free
    · rw [lockEvent_covered inverted covered]
      exact contextLock_idle state
  rw [recorded]
  exact endEvent_laneOnly lanes grants (fun side => by cases side <;> rfl) rfl rfl rfl fun _ => rfl

theorem loseLock_recordedOnly {s : State} {l : Index} (into : RxState) (lanes : LanesSettled s) (grants : GrantsSettled s)
    (idle : (covering s.cpt.plan l = none
        ∨ ∃ g, covering s.cpt.plan l = some g ∧ (s.ctx g).state ∈ [.quarantined, .held, .waiting, .unplanned])
      ∨ ∃ g, covering s.cpt.plan l = some g ∧ (s.ctx g).state ∈ [.acquiring, .lost]) :
    s.loseLock l into = s.lostAt l into := by
  have recorded : s.loseLock l into = (s.lostAt l into).endEvent s := by
    rcases idle with (free | ⟨g, covered, state⟩) | ⟨g, covered, state⟩
    · exact loseLock_uncovered into free
    · rw [loseLock_covered into covered, contextLoss_idle (s := s.lostAt l into) (.inl state)]
    · rw [loseLock_covered into covered, contextLoss_idle (s := s.lostAt l into) (.inr state)]
  rw [recorded]
  exact endEvent_laneOnly lanes grants (fun side => by cases side <;> rfl) rfl rfl rfl fun _ => rfl

/-- Settles O10: no context is moved, and the settled arbiters see no difference. -/
theorem lockAndLossRecordedOnly : Obligations.LockAndLossRecordedOnly := by
  unfold Obligations.LockAndLossRecordedOnly
  intro s p j inverted run lanes grants coveredBy idle setView unlocked lost
  refine ⟨fun acquiring idle => ?_, fun locked idle => ?_⟩
  · rw [exec_lockAchieved inverted run acquiring, lockEvent_recordedOnly inverted lanes grants idle]
    rfl
  · rw [exec_lockLost run locked, exec_signalLost run locked, loseLock_recordedOnly .acquiring lanes grants idle,
      loseLock_recordedOnly .dark lanes grants idle]
    exact ⟨rfl, rfl⟩

/-! ## The lock that completes a group's lanes -/

theorem contextLock_complete {s : State} {g : Index} (waits : (s.ctx g).state = .acquiring ∨ (s.ctx g).state = .lost)
    (all : allLocked s g = true) : s.contextLock g = s.enter g .discovering .none none := by
  unfold State.contextLock
  rcases waits with st | st <;> simp only [st, all, if_true]

theorem contextLock_incomplete {s : State} {g : Index} (waits : (s.ctx g).state = .acquiring ∨ (s.ctx g).state = .lost)
    (some : allLocked s g = false) : s.contextLock g = s := by
  unfold State.contextLock
  rcases waits with st | st <;> simp only [st, some, Bool.false_eq_true, if_false]

/-- All lanes are locked once lane l is, where each is l or was locked before (R54). -/
theorem allLocked_lockedAt (s : State) (l g : Index) (inverted : Bool) :
    allLocked (s.lockedAt l inverted) g = true
      ↔ ∀ i < boundWidth s g, laneAt g i = l ∨ (Tab.get s.buc.lockView (laneAt g i)).locked = true := by
  have lane : ∀ i, (Tab.get (s.lockedAt l inverted).buc.lockView (laneAt g i)).locked = true
      ↔ laneAt g i = l ∨ (Tab.get s.buc.lockView (laneAt g i)).locked = true := fun i => by
    unfold State.lockedAt
    rw [buc_lockView_setLockView, Tab.get_set]
    by_cases same : laneAt g i = l
    · simp [same]
    · simp [same, State.setFront]
  unfold allLocked
  simp only [List.all_eq_true, List.mem_range, lane]
  rfl

theorem path_contextLock (s : State) (g : Index) :
    ((s.contextLock g).path g).map = (s.path g).map ∧ ((s.contextLock g).path g).comps = (s.path g).comps
      ∧ ((s.contextLock g).ctx g).bound = (s.ctx g).bound := by
  have entered := And.intro (map_enter s g .discovering .none none) (And.intro (comps_enter s g .discovering .none none)
    (show ((s.enter g .discovering .none none).ctx g).bound = (s.ctx g).bound by rw [ctx_enter_same]; rfl))
  unfold State.contextLock
  split
  case h_1 | h_2 =>
    split
    · exact entered
    · exact ⟨rfl, rfl, rfl⟩
  all_goals exact ⟨rfl, rfl, rfl⟩

/-- Settles O9: the lock is recorded first; the discovery starts on the view that shows it. -/
theorem lastLockStartsDiscovery : Obligations.LastLockStartsDiscovery := by
  unfold Obligations.LastLockStartsDiscovery
  intro s p j inverted g run acquiring covered state
  have exec := exec_lockAchieved inverted run acquiring
  rw [lockEvent_covered inverted covered] at exec
  have moves := ContextMoves.contextLock (s.lockedAt (cell p j) inverted) g
  obtain ⟨others, blocks⟩ := moves.eventAt.afterLane (lockedAt_kept s (cell p j) g inverted)
  have ends := EventAt.ofEndEvent (before := s) others.contexts
  have posted := notices_endEvent_at others.contexts blocks.now moves.notices
  have granted := Granted.endEvent ((s.lockedAt (cell p j) inverted).contextLock g) s
  obtain ⟨map, comps, bound⟩ := path_contextLock (s.lockedAt (cell p j) inverted) g
  refine ⟨_, exec, ?_, (congrArg Context.bound (granted.ctx g)).trans bound, (congrArg GroupPath.map (granted.path g)).trans map,
    (congrArg GroupPath.comps (granted.path g)).trans comps, others.trans ends.others, blocks.trans ends.blocks,
    (moves.eventAt.trans ends).receive.ers, (moves.eventAt.trans ends).receive.late⟩
  have complete := allLocked_lockedAt s (cell p j) g inverted
  split_ifs with all
  · have starts := startsDiscovery_enter (s.lockedAt (cell p j) inverted) g
    rw [← contextLock_complete (s := s.lockedAt (cell p j) inverted) state (complete.2 all)] at starts
    have started := granted.startsDiscovery starts
    exact ⟨started, posted.trans (groupNoticed_of_inState started.inState (by rcases state with st | st <;> rw [st] <;> decide) _)⟩
  · have stays := contextLock_incomplete (s := s.lockedAt (cell p j) inverted) state
      (Bool.eq_false_iff.2 fun yes => all (complete.1 yes))
    have ctx : ∀ h, (((s.lockedAt (cell p j) inverted).contextLock g).endEvent s).ctx h = s.ctx h := fun h => by
      rw [granted.ctx, stays]
      rfl
    exact ⟨Tab.ext ctx, posted.trans (groupNoticed_same (ctx g) _)⟩

/-! ## The loss that takes a running group to LOST -/

theorem contextLoss_running {s : State} {g : Index} (running : (s.ctx g).state = .discovering ∨ passedVerdict (s.ctx g).state) :
    s.contextLoss g = s.enter g .lost .lockLost none := by
  unfold State.contextLoss
  rcases running with st | st | st | st <;> simp only [st]

/-- A lane that takes its next data frame has sent nothing more. -/
theorem TxLane.sent_takeData (inserted : Bool) (x : TxLane) : (x.takeData inserted).sent = x.sent := by
  unfold TxLane.takeData
  split <;> rfl

theorem sent_endEvent (s before : State) (side : Side) (l : Index) :
    (Tab.get ((s.endEvent before).tx side) l).sent = (Tab.get (s.tx side) l).sent := by
  unfold State.endEvent
  obtain ⟨q, e⟩ := postChangedGroups_only before s.grant
  rw [e, tx_arbitrate, TxLane.sent_takeData]
  cases side <;> rfl

/-- The cut of a change of state is that of its gate write (R15, R56). -/
theorem framesCut_enter (s : State) (g : Index) (st : GroupState) (r : Reason) (o : Option HoldOrigin) :
    FramesCut g (gateKeeps s g (gateOf st) ((s.ctx g).bound.map PlanFields.profile)) s (s.enter g st r o) := by
  have cut := framesCut_writeGate (s.modCtx g (enterContext s g st r o)) g (gateOf st) ((s.ctx g).bound.map PlanFields.profile)
  have tx : ∀ (t : State) (p : Psc) (side : Side), ({ t with psc := p } : State).tx side = t.tx side := fun t p side => by
    cases side <;> rfl
  rw [enter_eq]
  exact
    { content := fun side l => by rw [tx, cut.content, tx_modCtx]; rfl
      holds := cut.holds
      aborted := fun side l => by
        have ended := cut.aborted side l
        rw [tx_modCtx] at ended
        rw [tx]
        exact ended
      counted := cut.counted }

/-- The end of an event adds nothing to a cut. -/
theorem FramesCut.endEvent {g : Index} {keep : DataFrame → Bool} {s t : State} (cut : FramesCut g keep s t) (before : State) :
    FramesCut g keep s (t.endEvent before) := by
  obtain ⟨-, -, -, holds, -, -, content, -⟩ := endEvent_rest t before
  exact
    { content := fun side l => (content side l).trans (cut.content side l)
      holds := fun l => (congrArg (Tab.get · l) holds).trans (cut.holds l)
      aborted := fun side l => by rw [sent_endEvent]; exact cut.aborted side l
      counted := by rw [path_endEvent]; exact cut.counted }

/-- A closed gate keeps no data frame of its group (R14). -/
theorem gateKeeps_closed (s : State) (g : Index) (profile : Option (Fin 8)) :
    gateKeeps s g .closed profile = fun f => f.group != g :=
  funext fun f => Bool.or_false (f.group != g)

theorem FramesCut.of_lostAt {g l : Index} {into : RxState} {keep : DataFrame → Bool} {s t : State}
    (cut : FramesCut g keep (s.lostAt l into) t) : FramesCut g keep s t where
  content side := by cases side <;> exact cut.content _
  holds := cut.holds
  aborted side := by cases side <;> exact cut.aborted _
  counted := cut.counted

theorem exec_loss {s : State} {p : Fin 16} {j : Fin 4} {c : Instr} (run : s.inReset = false) (locked : s.rx (cell p j) = .locked)
    (loss : c = .lockLost p j ∨ c = .signalLost p j) : ∃ into, exec c s = .next (s.loseLock (cell p j) into) := by
  rcases loss with rfl | rfl
  · exact ⟨_, exec_lockLost run locked⟩
  · exact ⟨_, exec_signalLost run locked⟩

/-- Settles O8: the loss is recorded, the context enters LOST, and its gate write makes the cut. -/
theorem lossTakesRunningGroupToLost : Obligations.LossTakesRunningGroupToLost := by
  unfold Obligations.LossTakesRunningGroupToLost
  intro s p j g c run locked loss covered running
  obtain ⟨into, exec⟩ := exec_loss run locked loss
  rw [loseLock_covered into covered, contextLoss_running (s := s.lostAt (cell p j) into) running] at exec
  have event := EventAt.enter (s.lostAt (cell p j) into) g .lost .lockLost none
  obtain ⟨others, blocks⟩ := event.afterLane (lostAt_kept s (cell p j) g into)
  have ends := EventAt.ofEndEvent (before := s) others.contexts
  have granted := Granted.endEvent ((s.lostAt (cell p j) into).enter g .lost .lockLost none) s
  have lost := granted.inState (inState_enter (s.lostAt (cell p j) into) g .lost .lockLost none)
  have posted := notices_endEvent_at others.contexts blocks.now
    ((notices_enter (s.lostAt (cell p j) into) g .lost .lockLost none).trans rfl)
  have ctx := (granted.ctx g).trans (ctx_enter_same (s.lostAt (cell p j) into) g .lost .lockLost none)
  have path := granted.path g
  have idle := granted.noProbeWork (noProbeWork_enter (s.lostAt (cell p j) into) g (st := .lost) .lockLost none rfl (by decide))
  have cut := (framesCut_enter (s.lostAt (cell p j) into) g .lost .lockLost none).of_lostAt.endEvent s
  rw [show gateOf .lost = .closed from rfl, gateKeeps_closed] at cut
  exact ⟨_, exec, lost, by rw [ctx]; rfl, by rw [ctx]; rfl, by rw [ctx]; rfl, by rw [ctx]; rfl, by rw [ctx]; rfl, by rw [ctx]; rfl,
    (congrArg GroupPath.map path).trans (map_enter ..),
    (congrArg GroupPath.comps path).trans (comps_enter ..),
    posted.trans (groupNoticed_of_inState lost (by rcases running with st | st | st | st <;> rw [st] <;> decide) _), cut, idle,
    others.trans ends.others, blocks.trans ends.blocks, (event.trans ends).receive.ers, (event.trans ends).receive.late⟩

end Sys2Proof.Machine
end

section
/-! GROUP ACTION on one group: what a request of each form executes, and HOLD, RESUME and RECHECK by the state of the group (R74, R76, R79,
R110, R172, R191). -/

namespace Sys2Proof.Machine

/-! ## The command -/

/-- The row of the opcode table that carries out an action. -/
def GroupAction.row : GroupAction → Instr
  | .hold => .groupActionHold
  | .resume => .groupActionResume
  | .recheck => .groupActionRecheck

theorem exec_row (x : GroupAction) (s : State) : exec x.row s = s.execute (wantsAction x) (groupActionCommand x) := by
  cases x <;> rfl

theorem pickAction_hold {b : Byte} (hold : b.getLsbD 2 = true) : pickAction b = some .hold := if_pos hold

theorem pickAction_resume {b : Byte} (hold : b.getLsbD 2 = false) (resume : b.getLsbD 1 = true) : pickAction b = some .resume := by
  rw [pickAction, hold, resume]
  rfl

/-- Bit i of the three that pick an action (R191). -/
theorem getLsbD_of_actionBits {b : Byte} {v : BitVec 3} (bits : b.extractLsb' 0 3 = v) {i : Nat} (h : i < 3) :
    b.getLsbD i = v.getLsbD i := by
  rw [← bits, BitVec.getLsbD_extractLsb', decide_eq_true h, Bool.true_and, Nat.zero_add]

theorem pickAction_recheck {b : Byte} (bits : b.extractLsb' 0 3 = 1) : pickAction b = some .recheck := by
  rw [pickAction, getLsbD_of_actionBits bits (by decide), getLsbD_of_actionBits bits (by decide), getLsbD_of_actionBits bits (by decide)]
  rfl

theorem pickAction_none {b : Byte} (bits : b.extractLsb' 0 3 = 0) : pickAction b = none := by
  rw [pickAction, getLsbD_of_actionBits bits (by decide), getLsbD_of_actionBits bits (by decide), getLsbD_of_actionBits bits (by decide)]
  rfl

/-- The requests a row takes: those whose action byte picks its action, and those whose byte picks none (log 8). -/
theorem wantsAction_of {x : GroupAction} {r : ControlRequest} {a b : Byte} (code : r.code = 64) (args : r.args = [a, b])
    (pick : pickAction b = some x ∨ pickAction b = none) : wantsAction x r = true := by
  rcases pick with pick | pick <;> simp [wantsAction, code, args, pick]

/-- A GROUP ACTION request of the row's own is answered by the command's body. -/
theorem exec_groupAction {s : State} {r : ControlRequest} {x : GroupAction} {a b : Byte} (run : s.inReset = false)
    (first : earliestWaiting s.mga.queue = some r) (code : r.code = 64) (args : r.args = [a, b])
    (pick : pickAction b = some x ∨ pickAction b = none) :
    exec x.row s = .next
      (((groupActionCommand x).body [a, b] s).1.respond r ((groupActionCommand x).body [a, b] s).2) := by
  rw [exec_row, execute_body _ run first (wantsAction_of code args pick) (by rw [args]; rfl), args]

theorem body_groupAction_index (x : GroupAction) {s : State} {a b : Byte} (high : 64 < a.toNat) :
    (groupActionCommand x).body [a, b] s = (s, .refuse .index) := if_pos high

theorem body_groupAction_action (x : GroupAction) {s : State} {a b : Byte} (low : a.toNat ≤ 64) (pick : pickAction b = none) :
    (groupActionCommand x).body [a, b] s = (s, .refuse .action) := by
  have none : (pickAction (([a, b] : List Byte).getD 1 0)).isNone = true := by simp [pick]
  exact (if_neg (Nat.not_lt.2 low)).trans (if_pos none)

theorem body_groupAction_one {x : GroupAction} {s : State} {a b : Byte} {g : Index} (pick : pickAction b = some x)
    (index : a.toNat = g.val) :
    (groupActionCommand x).body [a, b] s =
      ((x.apply s g).1.endEvent s,
        { status := if (x.apply s g).2 then .ok else .notApplicable
          detail := .none
          result := [byte x.code, byte (bit (x.apply s g).2)] }) := by
  have low : ¬64 < at8 [a, b] 0 := Nat.not_lt.2 (Nat.le_of_lt (lt_of_eq_of_lt index g.isLt))
  have some : ¬(pickAction (([a, b] : List Byte).getD 1 0)).isNone = true := by simp [pick]
  unfold groupActionCommand
  dsimp only
  rw [if_neg low, if_neg some, indexArg_val (show at8 [a, b] 0 = g.val from index)]

theorem body_groupAction_all {x : GroupAction} {s : State} {a b : Byte} (pick : pickAction b = some x) (index : a.toNat = 64) :
    (groupActionCommand x).body [a, b] s = ((x.applyAll s).1.endEvent s, .ok [byte x.code, byte (x.applyAll s).2]) := by
  have low : ¬64 < at8 [a, b] 0 := Nat.not_lt.2 (Nat.le_of_eq index)
  have some : ¬(pickAction (([a, b] : List Byte).getD 1 0)).isNone = true := by simp [pick]
  unfold groupActionCommand
  dsimp only
  rw [if_neg low, if_neg some, indexArg_byte_none (Nat.le_of_eq index.symm)]

/-- A GROUP ACTION on one group: the action at its context, taken to the end of the event, and the answer that tells whether it was carried
out (R191). -/
theorem exec_groupAction_one {s : State} {r : ControlRequest} {x : GroupAction} {a b : Byte} {g : Index} (run : s.inReset = false)
    (first : earliestWaiting s.mga.queue = some r) (code : r.code = 64) (args : r.args = [a, b]) (pick : pickAction b = some x)
    (index : a.toNat = g.val) {t : State} {done : Bool} (acts : x.apply s g = (t, done)) :
    exec x.row s = .next ((t.endEvent s).respond r
      { status := if done then .ok else .notApplicable, detail := .none, result := [byte x.code, byte (bit done)] }) := by
  rw [exec_groupAction run first code args (.inl pick), body_groupAction_one pick index, acts]

/-- An action that is not applicable leaves a part with settled arbiters as it is. -/
theorem exec_groupAction_notApplicable {s : State} {r : ControlRequest} {x : GroupAction} {a b : Byte} {g : Index}
    (run : s.inReset = false) (lanes : LanesSettled s) (grants : GrantsSettled s) (first : earliestWaiting s.mga.queue = some r)
    (code : r.code = 64) (args : r.args = [a, b]) (pick : pickAction b = some x) (index : a.toNat = g.val)
    (acts : x.apply s g = (s, false)) :
    exec x.row s = .next (s.respond r { status := .notApplicable, detail := .none, result := [byte x.code, 0] }) := by
  rw [exec_groupAction_one run first code args pick index acts, endEvent_settled (fun _ => groupChanged_self _) lanes grants]
  rfl

/-! ## HOLD and RESUME -/

theorem holdAction_idle {s : State} {g : Index} (idle : (s.ctx g).state = .unplanned ∨ (s.ctx g).state = .waiting) :
    s.holdAction g = (s, false) := by
  unfold State.holdAction
  rcases idle with st | st <;> rw [st]

theorem holdAction_held {s : State} {g : Index} (held : (s.ctx g).state = .held) :
    s.holdAction g = (s.modCtx g fun c => { c with reason := .holdLocal, origin := some .localHold }, true) := by
  unfold State.holdAction
  rw [held]

theorem holdAction_running {s : State} {g : Index} (started : Started s g) (free : (s.ctx g).state ≠ .held) :
    s.holdAction g = (s.enter g .held .holdLocal (some .localHold), true) := by
  unfold State.holdAction
  split
  case h_1 => next st => exact absurd st started.1
  case h_2 => next st => exact absurd st started.2
  case h_3 => next st => exact absurd st free
  all_goals rfl

theorem resumeAction_held {s : State} {g : Index} (held : (s.ctx g).state = .held ∧ (s.ctx g).origin = some .localHold) :
    s.resumeAction g = (s.applyStart g, true) := if_pos held

theorem resumeAction_other {s : State} {g : Index} (other : ¬((s.ctx g).state = .held ∧ (s.ctx g).origin = some .localHold)) :
    s.resumeAction g = (s, false) := if_neg other

/-- Where the probe arbiter is settled the end of an event leaves the scheduler as it is (R112). -/
theorem psc_endEvent_settled {t : State} (before : State) (grants : GrantsSettled t) : (t.endEvent before).psc = t.psc := by
  obtain ⟨-, -, -, -, -, psc, -⟩ := endEvent_rest t before
  exact psc.trans (grantLoop_settled _ _ grants 8)

/-- Settles O50: by the state of the group, each action taken to the end of the event. -/
theorem holdAndResumeOneGroup : Obligations.HoldAndResumeOneGroup := by
  unfold Obligations.HoldAndResumeOneGroup
  intro s r a b g run lanes grants first code args index
  refine ⟨fun hold => ⟨fun idle => ?_, fun held => ?_, fun planned left free => ?_⟩,
    fun hold resume => ⟨fun held origin => ?_, fun other => ?_⟩⟩
  · exact exec_groupAction_notApplicable (x := .hold) run lanes grants first code args (pickAction_hold hold) index (holdAction_idle idle)
  · have ended := (ContextMoves.holdAction s g).endedAt
    rw [holdAction_held held] at ended
    have settled : GrantsSettled (s.modCtx g fun c => { c with reason := .holdLocal, origin := some .localHold }) :=
      grants.congr rfl rfl (fun _ => Iff.rfl) fun h => by
        by_cases e : h = g
        · subst e
          unfold boundWidth
          rw [ctx_modCtx_same]
        · exact boundWidth_of_ctx (ctx_modCtx_ne _ _ e)
    exact ⟨_, exec_groupAction_one (x := .hold) run first code args (pickAction_hold hold) index (holdAction_held held),
      (ctx_endEvent ..).trans (ctx_modCtx_same ..), psc_endEvent_settled s settled, ended.kept.others, ended.notices, ended.kept.blocks,
      ended.kept.receive⟩
  · have enters := holdAction_running (g := g) ⟨planned, left⟩ free
    have ended := (ContextMoves.holdAction s g).endedAt
    rw [enters] at ended
    exact ⟨_, exec_groupAction_one (x := .hold) run first code args (pickAction_hold hold) index enters,
      (Granted.endEvent _ s).held (held_enter ..), ended.notices, ended.kept.others, ended.kept.blocks, ended.kept.receive⟩
  · obtain ⟨tested, bound, ended⟩ := startTested_endEvent (s := s) (g := g) (.of_state held (by decide))
    exact ⟨_, exec_groupAction_one (x := .resume) run first code args (pickAction_resume hold resume) index
      (resumeAction_held ⟨held, origin⟩), tested, bound, ended.notices, ended.kept.others, ended.kept.blocks, ended.kept.receive⟩
  · exact exec_groupAction_notApplicable (x := .resume) run lanes grants first code args (pickAction_resume hold resume) index
      (resumeAction_other other)

/-! ## RECHECK -/

theorem recheckAction_checked {s : State} {g : Index} (checked : passedVerdict (s.ctx g).state ∨ (s.ctx g).state = .held) :
    s.recheckAction g = ({ s with psc := postRequest g .urgent s.mga.settings.discoveryRounds s.psc }, true) := by
  unfold State.recheckAction
  rcases checked with (st | st | st) | st <;> rw [st]

theorem recheckAction_quarantined {s : State} {g : Index} (st : (s.ctx g).state = .quarantined) :
    s.recheckAction g = (s.applyStart g, true) := by
  unfold State.recheckAction
  rw [st]

theorem recheckAction_other {s : State} {g : Index} (other : (s.ctx g).state = .unplanned ∨ (s.ctx g).state = .waiting
    ∨ (s.ctx g).state = .acquiring ∨ (s.ctx g).state = .discovering ∨ (s.ctx g).state = .lost) :
    s.recheckAction g = (s, false) := by
  unfold State.recheckAction
  rcases other with st | st | st | st | st <;> rw [st]

/-- The kind of a request after an URGENT posting for group g: a ROUTINE request of the group becomes URGENT (R110). -/
def urgedKind (g : Index) (q : ProbeRequest) : RequestKind := if q.group = g ∧ q.kind = .routine then .urgent else q.kind

/-- The queue after an URGENT posting for group g, before any request joins it. -/
theorem modRequest_upgrade (q : List ProbeRequest) (g : Index) :
    modRequest q g ProbeRequest.upgrade = q.map fun r => { r with kind := urgedKind g r } := by
  refine List.map_congr_left fun r _ => ?_
  obtain ⟨group, kind, rounds, inFlight, outcomes⟩ := r
  unfold urgedKind ProbeRequest.upgrade
  by_cases own : group = g
  · cases kind <;> simp [own]
  · simp [own]

/-- With no request of the group nothing is upgraded. -/
theorem urgedKind_of_none {q : List ProbeRequest} {g : Index} (none : hasRequest q g = false) {r : ProbeRequest} (mem : r ∈ q) :
    urgedKind g r = r.kind :=
  if_neg fun own => hasRequest_false_iff.1 none r mem own.1

/-- An URGENT posting: the requests of the group are upgraded, and a new one joins where there is none (R110). -/
theorem queue_postUrgent (g : Index) (n : Nat) (p : Psc) : (postRequest g .urgent n p).queue
    = (p.queue.map fun r => { r with kind := urgedKind g r })
      ++ if hasRequest p.queue g then [] else [newRequest g .urgent n] := by
  cases has : hasRequest p.queue g with
  | true =>
    simp only [postRequest, has, if_true, List.append_nil]
    exact modRequest_upgrade p.queue g
  | false =>
    have same : (p.queue.map fun r => { r with kind := urgedKind g r }) = p.queue :=
      (List.map_congr_left fun r mem => by rw [urgedKind_of_none has mem]; rfl).trans (List.map_id _)
    rw [postRequest_new has, same]
    rfl

/-- An URGENT posting leaves one request per group (R109). -/
theorem groups_postUrgent_nodup (g : Index) (n : Nat) {p : Psc} (one : (p.queue.map ProbeRequest.group).Nodup) :
    ((postRequest g .urgent n p).queue.map ProbeRequest.group).Nodup := by
  have groups : (p.queue.map fun r => { r with kind := urgedKind g r }).map ProbeRequest.group = p.queue.map ProbeRequest.group := by
    rw [List.map_map]
    rfl
  rw [queue_postUrgent, List.map_append, groups]
  cases has : hasRequest p.queue g with
  | true => simpa using one
  | false =>
    refine List.nodup_append.2 ⟨one, List.nodup_singleton _, fun h mem k new same => ?_⟩
    obtain ⟨r, queued, rfl⟩ := List.mem_map.1 mem
    exact hasRequest_false_iff.1 has r queued (same.trans (List.mem_singleton.1 new))

/-- With one request per group, a request in flight is passed over by every grant (R113). -/
theorem GrantsOnly.mem_of_flying {p q : Psc} (h : GrantsOnly p q) (one : (p.queue.map ProbeRequest.group).Nodup) {r : ProbeRequest}
    (mem : r ∈ p.queue) (flies : r.inFlight = true) : r ∈ q.queue := by
  have same := h.flying r.group fun x queued own => by
    rw [List.inj_on_of_nodup_map one queued mem own]
    exact flies
  have here : r ∈ p.queue.filter fun x => x.group == r.group := List.mem_filter.2 ⟨mem, beq_self_eq_true _⟩
  rw [← same] at here
  exact (List.mem_filter.1 here).1

/-- Settles O51: by the state of the group; the queue is what the posting makes of it, but for what the grants put in flight. -/
theorem recheckOneGroup : Obligations.RecheckOneGroup := by
  unfold Obligations.RecheckOneGroup
  intro s r a b g run lanes grants consistent first code args index bits upgraded terms
  have pick := pickAction_recheck bits
  refine ⟨fun checked => ?_, fun quarantined => ?_, fun other => ?_⟩
  · have posts := recheckAction_checked checked
    have ended := (ContextMoves.recheckAction s g).endedAt
    rw [posts] at ended
    have granted := (Granted.endEvent { s with psc := postRequest g .urgent s.mga.settings.discoveryRounds s.psc } s).psc
    have queue := queue_postUrgent g s.mga.settings.discoveryRounds s.psc
    obtain ⟨buc, -⟩ := endEvent_rest { s with psc := postRequest g .urgent s.mga.settings.discoveryRounds s.psc } s
    refine ⟨_, exec_groupAction_one (x := .recheck) run first code args pick index posts, buc, fun none => ?_, fun some => ?_,
      fun q mem flies => ?_, ended.kept.others, ended.kept.blocks, ended.kept.receive⟩
    · refine granted.terms.trans ?_
      rw [postRequest_new none, List.map_append]
      rfl
    · refine granted.terms.trans ?_
      rw [queue, some, if_pos rfl, List.append_nil, List.map_map]
      rfl
    · refine granted.mem_of_flying (groups_postUrgent_nodup g _ consistent.oneRequest) ?_ flies
      rw [queue]
      exact List.mem_append_left _ (List.mem_map_of_mem (f := fun r => { r with kind := urgedKind g r }) mem)
  · obtain ⟨tested, bound, ended⟩ := startTested_endEvent (s := s) (g := g) (.of_state quarantined (by decide))
    exact ⟨_, exec_groupAction_one (x := .recheck) run first code args pick index (recheckAction_quarantined quarantined), tested, bound,
      ended.notices, ended.kept.others, ended.kept.blocks, ended.kept.receive⟩
  · exact exec_groupAction_notApplicable (x := .recheck) run lanes grants first code args pick index (recheckAction_other other)

end Sys2Proof.Machine
end

section
/-! One operation given to the groups in index order, and two commands that do so: GROUP ACTION on index 64 (R74, R76, R79, R172, R191) and
SET IDENTITY (R81, R186). -/

namespace Sys2Proof.Machine

/-! ## Group by group -/

/-- An operation at group h neither adds a request of another group nor removes one. -/
theorem PscAt.hasRequest {g h : Index} {p q : Psc} (a : PscAt h p q) (ne : g ≠ h) :
    Machine.hasRequest q.queue g = Machine.hasRequest p.queue g := by
  have filtered : ∀ queue : List ProbeRequest, Machine.hasRequest queue g = true
      ↔ ∃ r ∈ queue.filter fun r => r.group != h, r.group = g := fun queue => by
    simp only [hasRequest_iff, List.mem_filter, bne_iff_ne]
    exact exists_congr fun r => ⟨fun ⟨mem, own⟩ => ⟨⟨mem, own ▸ ne⟩, own⟩, fun ⟨⟨mem, _⟩, own⟩ => ⟨mem, own⟩⟩
  rw [Bool.eq_iff_iff, filtered, filtered, a.queue]

theorem fold_hasRequest {f : State → Index → State} (ps : ∀ s h, PscAt h s.psc (f s h).psc) {g : Index} (is : List Index)
    (out : g ∉ is) (s : State) : hasRequest (is.foldl f s).psc.queue g = hasRequest s.psc.queue g := by
  induction is generalizing s with
  | nil => rfl
  | cons h rest ih =>
    rw [List.mem_cons, not_or] at out
    exact (ih out.2 _).trans ((ps s h).hasRequest out.1)

/-- The turn of group g in an operation given to all groups from s to u: it comes in a state t that is at g still the first, requests and
all, and at g the last state is the one the operation leaves. -/
structure Turn (f : State → Index → State) (s : State) (g : Index) (t u : State) : Prop where
  blocks : BlocksKept s t
  same : SameAt g s t
  before : KeptAt g s t
  queue : hasRequest t.psc.queue g = hasRequest s.psc.queue g
  after : KeptAt g (f t g) u

/-- In an operation given to all groups each has its turn. -/
theorem exists_turn {f : State → Index → State} (ev : ∀ s h, EventAt h s (f s h)) (ps : ∀ s h, PscAt h s.psc (f s h).psc)
    (s : State) (g : Index) : ∃ t, Turn f s g t (indices.foldl f s) := by
  obtain ⟨earlier, later, split, out, out'⟩ := finRange_split g
  have before := fold_others ev ps earlier out s
  obtain ⟨blocks, -⟩ := fold_blocks ev earlier s
  refine ⟨earlier.foldl f s, blocks, ⟨before.ctx, before.path, before.lockView, blocks.ciu, blocks.mga⟩, before,
    fold_hasRequest ps earlier out s, ?_⟩
  unfold indices
  rw [split, List.foldl_append, List.foldl_cons]
  exact fold_others ev ps later out' _

theorem fold_notices {f : State → Index → State} (each : ∀ s h, (f s h).notices = s.notices) (is : List Index) (s : State) :
    (is.foldl f s).notices = s.notices := by
  induction is generalizing s with
  | nil => rfl
  | cons h rest ih => exact (ih _).trans (each s h)

/-- Where no context has changed no group notice is posted (R57). -/
theorem foldl_groupNoticed_same {s t : State} (same : ∀ g, t.ctx g = s.ctx g) (q : List Notice) :
    indices.foldl (groupNoticed s t) q = q :=
  foldl_of_sublist (List.nil_sublist _) (List.nodup_finRange 64) (fun g _ _ q => groupNoticed_same (same g) q) q

theorem KeptAt.startTested {s t u : State} {g : Index} (h : KeptAt g t u) (tested : StartTested s t g) : StartTested s u g := by
  unfold StartTested at tested ⊢
  cases test : startTest s g with
  | none => rw [test] at tested; exact h.acquiresOrDiscovers tested
  | some w => rw [test] at tested; exact h.waits tested

/-! ## An action on every planned group -/

theorem PscAt.postRequest (g : Index) (kind : RequestKind) (n : Nat) (p : Psc) : PscAt g p (postRequest g kind n p) :=
  ⟨fun _ => .inl (by rw [postRequest_slots]), .inl (postRequest_rest ..).2.2, postRequest_queue ..⟩

theorem PscAt.groupAction (x : GroupAction) (s : State) (g : Index) : PscAt g s.psc (x.apply s g).1.psc := by
  cases x with
  | hold =>
    show PscAt g s.psc (s.holdAction g).1.psc
    unfold State.holdAction
    split
    case h_1 | h_2 | h_3 => exact .refl ..
    all_goals exact .enter ..
  | resume =>
    show PscAt g s.psc (s.resumeAction g).1.psc
    unfold State.resumeAction
    split
    · exact .applyStart ..
    · exact .refl ..
  | recheck =>
    show PscAt g s.psc (s.recheckAction g).1.psc
    unfold State.recheckAction
    split
    case h_1 | h_2 | h_3 | h_4 => exact .postRequest ..
    case h_5 => exact .applyStart ..
    all_goals exact .refl ..

/-- An action carried out for group g where the plan has its entry enabled. -/
def GroupAction.onPlanned (x : GroupAction) (plan : Tab PlanEntry 64) (t : State) (g : Index) : State :=
  if (Tab.get plan g).enabled then (x.apply t g).1 else t

theorem ContextMoves.onPlanned (x : GroupAction) (plan : Tab PlanEntry 64) (t : State) (g : Index) :
    ContextMoves g t (x.onPlanned plan t g) := by
  unfold GroupAction.onPlanned
  split
  · exact .groupAction ..
  · exact .refl

theorem PscAt.onPlanned (x : GroupAction) (plan : Tab PlanEntry 64) (t : State) (g : Index) :
    PscAt g t.psc (x.onPlanned plan t g).psc := by
  unfold GroupAction.onPlanned
  split
  · exact .groupAction ..
  · exact .refl ..

/-- Which groups an action applies to, by their contexts (R74, R76, R79, R172). -/
def GroupAction.appliesTo (x : GroupAction) (c : Context) : Bool :=
  match x with
  | .hold => decide (c.state ≠ .unplanned ∧ c.state ≠ .waiting)
  | .resume => decide (c.state = .held ∧ c.origin = some .localHold)
  | .recheck =>
    match c.state with
    | .agreeing | .verified | .degraded | .held | .quarantined => true
    | .unplanned | .waiting | .acquiring | .discovering | .lost => false

theorem apply_done (x : GroupAction) (s : State) (g : Index) : (x.apply s g).2 = x.appliesTo (s.ctx g) := by
  cases x with
  | hold =>
    show (s.holdAction g).2 = _
    unfold State.holdAction GroupAction.appliesTo
    cases (s.ctx g).state <;> rfl
  | resume =>
    show (s.resumeAction g).2 = _
    unfold State.resumeAction GroupAction.appliesTo
    by_cases held : (s.ctx g).state = .held ∧ (s.ctx g).origin = some .localHold
    · simp only [if_pos held, decide_eq_true held]
    · simp only [if_neg held, decide_eq_false held]
  | recheck =>
    show (s.recheckAction g).2 = _
    unfold State.recheckAction GroupAction.appliesTo
    cases (s.ctx g).state <;> rfl

/-- What an action does not apply to it leaves alone. -/
theorem apply_other {x : GroupAction} {s : State} {g : Index} (other : x.appliesTo (s.ctx g) = false) : (x.apply s g).1 = s := by
  cases x with
  | hold =>
    show (s.holdAction g).1 = s
    have idle : (s.ctx g).state = .unplanned ∨ (s.ctx g).state = .waiting := by
      simpa [GroupAction.appliesTo, ← or_iff_not_imp_left] using other
    rw [holdAction_idle idle]
  | resume =>
    show (s.resumeAction g).1 = s
    rw [resumeAction_other (of_decide_eq_false other)]
  | recheck =>
    show (s.recheckAction g).1 = s
    unfold State.recheckAction
    unfold GroupAction.appliesTo at other
    cases st : (s.ctx g).state <;> simp_all

/-- The groups an action on index 64 is carried out for. -/
def GroupAction.takes (x : GroupAction) (s : State) (g : Index) : Bool := (s.entry g).enabled && x.appliesTo (s.ctx g)

/-- The turn of one group in an action on index 64, with the number of groups it has been carried out for. -/
def GroupAction.countedTurn (x : GroupAction) (plan : Tab PlanEntry 64) (p : State × Nat) (g : Index) : State × Nat :=
  if (Tab.get plan g).enabled then ((x.apply p.1 g).1, p.2 + bit (x.apply p.1 g).2) else p

theorem applyAll_eq_fold (x : GroupAction) (s : State) : x.applyAll s = indices.foldl (x.countedTurn s.cpt.plan) (s, 0) := rfl

/-- A turn in a state that is at the group still the first. -/
theorem countedTurn_eq (x : GroupAction) {s t : State} {g : Index} (n : Nat) (same : t.ctx g = s.ctx g) :
    x.countedTurn s.cpt.plan (t, n) g = (x.onPlanned s.cpt.plan t g, n + bit (x.takes s g)) := by
  unfold GroupAction.countedTurn GroupAction.onPlanned GroupAction.takes State.entry
  cases (Tab.get s.cpt.plan g).enabled with
  | true =>
    rw [← same, ← apply_done]
    rfl
  | false => rfl

/-- An action on index 64: given to the planned groups one after another, and counted where it applies (R191). -/
theorem applyAll_eq (x : GroupAction) (s : State) :
    x.applyAll s = (indices.foldl (x.onPlanned s.cpt.plan) s, (indices.filter (x.takes s)).length) := by
  have key : ∀ (is : List Index) (t : State) (n : Nat), is.Nodup → (∀ g ∈ is, t.ctx g = s.ctx g) →
      is.foldl (x.countedTurn s.cpt.plan) (t, n)
        = (is.foldl (x.onPlanned s.cpt.plan) t, n + (is.filter (x.takes s)).length) := by
    intro is
    induction is with
    | nil => intro t n _ _; rfl
    | cons g rest ih =>
      intro t n distinct same
      obtain ⟨fresh, distinct⟩ := List.nodup_cons.1 distinct
      have later : ∀ h ∈ rest, (x.onPlanned s.cpt.plan t g).ctx h = s.ctx h := fun h mem =>
        ((ContextMoves.onPlanned ..).eventAt.others.contexts h (ne_of_mem_of_not_mem mem fresh)).trans (same h (.tail _ mem))
      have counted : bit (x.takes s g) + (rest.filter (x.takes s)).length = ((g :: rest).filter (x.takes s)).length := by
        rw [List.filter_cons]
        cases x.takes s g <;> simp [bit, Nat.add_comm]
      rw [List.foldl_cons, List.foldl_cons, countedTurn_eq x n (same g (.head _)), ih _ _ distinct later, Nat.add_assoc, counted]
  rw [applyAll_eq_fold, key indices s 0 (List.nodup_finRange 64) fun _ _ => rfl, Nat.zero_add]

/-- An action on index 64, group by group, to the end of the event: the groups it does not take are as they were (R191). -/
theorem exists_actionTurn (x : GroupAction) (s : State) (g : Index) : ∃ t, SameAt g s t
    ∧ (x.takes s g = false → (x.applyAll s).1.ctx g = s.ctx g ∧ (x.applyAll s).1.path g = s.path g)
    ∧ (x.takes s g = true → KeptAt g (x.apply t g).1 (x.applyAll s).1)
    ∧ KeptAt g s t ∧ hasRequest t.psc.queue g = hasRequest s.psc.queue g := by
  obtain ⟨t, turn⟩ := exists_turn (fun t h => (ContextMoves.onPlanned x s.cpt.plan t h).eventAt) (PscAt.onPlanned x s.cpt.plan) s g
  have after := turn.after
  rw [applyAll_eq]
  refine ⟨t, turn.same, fun passed => ?_, fun taken => ?_, turn.before, turn.queue⟩
  · have stays : x.onPlanned s.cpt.plan t g = t := by
      unfold GroupAction.onPlanned
      split
      · next on =>
        have other : x.appliesTo (s.ctx g) = false := by rwa [GroupAction.takes, State.entry, on, Bool.true_and] at passed
        exact apply_other (turn.same.ctx ▸ other)
      · rfl
    rw [stays] at after
    exact ⟨after.ctx.trans turn.same.ctx, after.path.trans turn.same.path⟩
  · have on : (Tab.get s.cpt.plan g).enabled = true := (Bool.and_eq_true_iff.1 taken).1
    rwa [GroupAction.onPlanned, if_pos on] at after

/-! ## GROUP ACTION on index 64 -/

theorem takes_hold_iff {s : State} {g : Index} : GroupAction.takes .hold s g = true
    ↔ (s.entry g).enabled = true ∧ (s.ctx g).state ≠ .unplanned ∧ (s.ctx g).state ≠ .waiting := by
  simp [GroupAction.takes, GroupAction.appliesTo]

theorem takes_resume_iff {s : State} {g : Index} : GroupAction.takes .resume s g = true
    ↔ (s.entry g).enabled = true ∧ (s.ctx g).state = .held ∧ (s.ctx g).origin = some .localHold := by
  simp [GroupAction.takes, GroupAction.appliesTo]

theorem appliesTo_recheck_iff {c : Context} : GroupAction.appliesTo .recheck c = true
    ↔ (passedVerdict c.state ∨ c.state = .held) ∨ c.state = .quarantined := by
  unfold GroupAction.appliesTo passedVerdict
  cases c.state <;> simp

theorem takes_recheck_iff {s : State} {g : Index} : GroupAction.takes .recheck s g = true
    ↔ (s.entry g).enabled = true ∧ (passedVerdict (s.ctx g).state ∨ (s.ctx g).state = .held)
      ∨ (s.entry g).enabled = true ∧ (s.ctx g).state = .quarantined := by
  rw [GroupAction.takes, Bool.and_eq_true, appliesTo_recheck_iff, and_or_left]

/-- The answer of an action on index 64 counts the groups it takes, and at the end of the event every other group is as it was (R57, R191). -/
theorem exec_groupAction_all {s : State} {r : ControlRequest} {x : GroupAction} {a b : Byte} (run : s.inReset = false)
    (first : earliestWaiting s.mga.queue = some r) (code : r.code = 64) (args : r.args = [a, b]) (pick : pickAction b = some x)
    (index : a.toNat = 64) {takes : Index → Prop} (same : ∀ g, x.takes s g = true ↔ takes g) {does : State → Prop}
    (done : does ((x.applyAll s).1.endEvent s)) :
    ∃ u n, exec x.row s = .next (u.respond r { status := .ok, detail := .none, result := [byte x.code, byte n] })
      ∧ (∃ taken : List Index, taken.Nodup ∧ (∀ g, g ∈ taken ↔ takes g) ∧ n = taken.length)
      ∧ does u ∧ (∀ g, ¬takes g → u.ctx g = s.ctx g ∧ u.path g = s.path g)
      ∧ u.notices = indices.foldl (groupNoticed s u) s.notices ∧ BlocksKept s u ∧ ReceiveKept s u := by
  have all : (x.applyAll s).1 = indices.foldl (x.onPlanned s.cpt.plan) s := congrArg Prod.fst (applyAll_eq x s)
  have count : (x.applyAll s).2 = (indices.filter (x.takes s)).length := congrArg Prod.snd (applyAll_eq x s)
  obtain ⟨blocks, receive⟩ := fold_blocks (fun t h => (ContextMoves.onPlanned x s.cpt.plan t h).eventAt) indices s
  have posts := fold_notices (fun t h => (ContextMoves.onPlanned x s.cpt.plan t h).notices) indices s
  rw [← all] at blocks receive posts
  obtain ⟨-, -, -, -, -, -, -, -, ends⟩ := endEvent_rest (x.applyAll s).1 s
  refine ⟨(x.applyAll s).1.endEvent s, (x.applyAll s).2, ?_,
    ⟨indices.filter (x.takes s), (List.nodup_finRange 64).filter _, fun g => ?_, count⟩, done, fun g passed => ?_,
    notices_endEvent_all blocks.now posts, blocks.trans (.endEvent ..), receive.trans ends⟩
  · rw [exec_groupAction run first code args (.inl pick), body_groupAction_all pick index]
    rfl
  · rw [List.mem_filter, same]
    exact and_iff_right (mem_indices g)
  · obtain ⟨t, -, other, -⟩ := exists_actionTurn x s g
    rw [ctx_endEvent, path_endEvent]
    exact other (Bool.eq_false_iff.2 fun yes => passed ((same g).1 yes))

/-- A context that takes a HOLD is locally held, its record kept (R74). -/
theorem ctx_holdAction {s : State} {g : Index} (started : Started s g) :
    ((s.holdAction g).1.ctx g).state = .held ∧ ((s.holdAction g).1.ctx g).reason = .holdLocal
      ∧ ((s.holdAction g).1.ctx g).origin = some .localHold ∧ ((s.holdAction g).1.ctx g).record = (s.ctx g).record := by
  by_cases held : (s.ctx g).state = .held
  · rw [holdAction_held held, ctx_modCtx_same]
    exact ⟨held, rfl, rfl, rfl⟩
  · have enters := held_enter s g .holdLocal .localHold
    rw [holdAction_running started held]
    exact ⟨enters.inState.state, enters.inState.reason, enters.inState.origin, enters.record⟩

theorem held_applyAll {s : State} {g : Index} (taken : GroupAction.takes .hold s g = true) :
    let c := ((GroupAction.hold.applyAll s).1.endEvent s).ctx g
    c.state = .held ∧ c.reason = .holdLocal ∧ c.origin = some .localHold ∧ c.record = (s.ctx g).record := by
  obtain ⟨t, same, -, turn, -⟩ := exists_actionTurn .hold s g
  have started : Started t g := by
    unfold Started
    rw [same.ctx]
    exact (takes_hold_iff.1 taken).2
  obtain ⟨state, reason, origin, record⟩ := ctx_holdAction started
  rw [ctx_endEvent, (turn taken).ctx]
  exact ⟨state, reason, origin, record.trans (congrArg Context.record same.ctx)⟩

/-- A start test in the turn of a group, at the end of the event. -/
theorem startTested_turn {s t u before : State} {g : Index} (same : SameAt g s t) (past : (s.ctx g).state ≠ .waiting)
    (after : KeptAt g (t.applyStart g) u) :
    StartTested s (u.endEvent before) g ∧ ((u.endEvent before).ctx g).bound = (s.ctx g).bound := by
  have tested := startTested_applyStart t g (same.ctx ▸ past)
  refine ⟨same.startTested ((Granted.endEvent u before).startTested (after.startTested tested)), ?_⟩
  rw [ctx_endEvent, after.ctx, bound_applyStart, same.ctx]

theorem resumed_applyAll {s : State} {g : Index} (taken : GroupAction.takes .resume s g = true) :
    StartTested s ((GroupAction.resume.applyAll s).1.endEvent s) g
      ∧ (((GroupAction.resume.applyAll s).1.endEvent s).ctx g).bound = (s.ctx g).bound := by
  obtain ⟨t, same, -, turn, -⟩ := exists_actionTurn .resume s g
  have held := (takes_resume_iff.1 taken).2
  have after := turn taken
  rw [show GroupAction.resume.apply t g = t.resumeAction g from rfl, resumeAction_held (same.ctx ▸ held)] at after
  exact startTested_turn same (by rw [held.1]; decide) after

theorem retried_applyAll {s : State} {g : Index} (on : (s.entry g).enabled = true) (quarantined : (s.ctx g).state = .quarantined) :
    StartTested s ((GroupAction.recheck.applyAll s).1.endEvent s) g
      ∧ (((GroupAction.recheck.applyAll s).1.endEvent s).ctx g).bound = (s.ctx g).bound := by
  obtain ⟨t, same, -, turn, -⟩ := exists_actionTurn .recheck s g
  have after := turn (takes_recheck_iff.2 (.inr ⟨on, quarantined⟩))
  rw [show GroupAction.recheck.apply t g = t.recheckAction g from rfl, recheckAction_quarantined (same.ctx ▸ quarantined)] at after
  exact startTested_turn same (by rw [quarantined]; decide) after

/-- A group that takes a RECHECK keeps its context and gate, and has its URGENT request (R110, R172). -/
theorem rechecked_applyAll {s : State} {g : Index} (on : (s.entry g).enabled = true)
    (checked : passedVerdict (s.ctx g).state ∨ (s.ctx g).state = .held) :
    let u := (GroupAction.recheck.applyAll s).1.endEvent s
    u.ctx g = s.ctx g ∧ u.path g = s.path g
      ∧ (hasRequest s.psc.queue g = false → ∃ q ∈ u.psc.queue, q.group = g ∧ q.kind = .urgent ∧ q.rounds = 1)
      ∧ ∀ q ∈ s.psc.queue, q.group = g → ∃ q' ∈ u.psc.queue, q'.group = g ∧ q'.rounds = q.rounds
        ∧ q'.kind = if q.kind = .routine then .urgent else q.kind := by
  intro u
  obtain ⟨t, same, -, turn, before, queue⟩ := exists_actionTurn .recheck s g
  have after := turn (takes_recheck_iff.2 (.inl ⟨on, checked⟩))
  rw [show GroupAction.recheck.apply t g = t.recheckAction g from rfl, recheckAction_checked (same.ctx ▸ checked)] at after
  have posted := queue_postUrgent g t.mga.settings.discoveryRounds t.psc
  have reaches : ∀ q ∈ (postRequest g .urgent t.mga.settings.discoveryRounds t.psc).queue, q.group = g →
      ∃ q' ∈ u.psc.queue, q'.group = q.group ∧ q'.kind = q.kind ∧ q'.rounds = q.rounds := fun q mem own =>
    mem_of_terms (Granted.endEvent (GroupAction.recheck.applyAll s).1 s).psc.terms (after.requests q mem own)
  refine ⟨(ctx_endEvent ..).trans (after.ctx.trans same.ctx), (path_endEvent ..).trans (after.path.trans same.path), fun none => ?_,
    fun q mem own => ?_⟩
  · rw [queue.trans none] at posted
    exact reaches (newRequest g .urgent _) (posted ▸ List.mem_append_right _ (List.mem_singleton_self _)) rfl
  · have urged : { q with kind := urgedKind g q } ∈ (postRequest g .urgent t.mga.settings.discoveryRounds t.psc).queue :=
      posted ▸ List.mem_append_left _ (List.mem_map_of_mem (f := fun r => { r with kind := urgedKind g r }) (before.requests q mem own))
    obtain ⟨q', mem', group, kind, rounds⟩ := reaches _ urged own
    exact ⟨q', mem', group.trans own, rounds, kind.trans (by simp [urgedKind, own])⟩

/-- Settles O52: each action takes every planned group it applies to, in its turn; the refusals come from the request alone. -/
theorem groupActionOnEveryGroupOrRefused : Obligations.GroupActionOnEveryGroupOrRefused := by
  unfold Obligations.GroupActionOnEveryGroupOrRefused
  intro s r a b run first code args planned holds resumes rechecks retries counts acts
  refine ⟨fun index => ⟨fun hold => ?_, fun hold resume => ?_, fun bits => ?_⟩, ?_⟩
  · exact exec_groupAction_all (x := .hold) run first code args (pickAction_hold hold) index (fun g => takes_hold_iff)
      fun g taken => held_applyAll (takes_hold_iff.2 taken)
  · exact exec_groupAction_all (x := .resume) run first code args (pickAction_resume hold resume) index (fun g => takes_resume_iff)
      fun g taken => resumed_applyAll (takes_resume_iff.2 taken)
  · exact exec_groupAction_all (x := .recheck) run first code args (pickAction_recheck bits) index (fun g => takes_recheck_iff)
      ⟨fun g retry => retried_applyAll retry.1 retry.2, fun g recheck => rechecked_applyAll recheck.1 recheck.2⟩
  · intro c mem chosen
    obtain ⟨x, rfl, own⟩ : ∃ x : GroupAction, c = x.row ∧ (chosen → pickAction b = some x ∨ pickAction b = none) := by
      simp only [List.mem_cons, List.not_mem_nil, or_false] at mem
      rcases mem with rfl | rfl | rfl
      · exact ⟨.hold, rfl, by
          rintro (⟨-, hold⟩ | ⟨⟨⟩, -⟩ | ⟨⟨⟩, -⟩ | bits)
          exacts [.inl (pickAction_hold hold), .inr (pickAction_none bits)]⟩
      · exact ⟨.resume, rfl, by
          rintro (⟨⟨⟩, -⟩ | ⟨-, hold, resume⟩ | ⟨⟨⟩, -⟩ | bits)
          exacts [.inl (pickAction_resume hold resume), .inr (pickAction_none bits)]⟩
      · exact ⟨.recheck, rfl, by
          rintro (⟨⟨⟩, -⟩ | ⟨⟨⟩, -⟩ | ⟨-, bits⟩ | bits)
          exacts [.inl (pickAction_recheck bits), .inr (pickAction_none bits)]⟩
    refine ⟨fun high wanted => ?_, fun low bits => ?_⟩
    · rw [exec_groupAction run first code args (own wanted), body_groupAction_index x high]
      rfl
    · rw [exec_groupAction run first code args (.inr (pickAction_none bits)), body_groupAction_action x low (pickAction_none bits)]
      rfl

end Sys2Proof.Machine
end

section
/-! SET IDENTITY: its refusal, the identity stored, and what each context makes of a new one (R57, R81, R186). -/

namespace Sys2Proof.Machine

/-- The part with an identity stored. -/
def State.withIdentity (s : State) (id : Identity) : State := { s with mga := { s.mga with identity := id } }

theorem storeIdentity_same {s : State} {chassis unit : Nat}
    (same : (chassis, unit) = (s.mga.identity.chassis, s.mga.identity.unit)) :
    s.storeIdentity chassis unit = s.withIdentity ⟨chassis, unit, true⟩ := if_pos (Prod.mk.inj same)

theorem storeIdentity_new {s : State} {chassis unit : Nat}
    (new : (chassis, unit) ≠ (s.mga.identity.chassis, s.mga.identity.unit)) :
    s.storeIdentity chassis unit = indices.foldl State.contextIdentity (s.withIdentity ⟨chassis, unit, true⟩) :=
  if_neg fun same => new (Prod.ext same.1 same.2)

/-! ## What a context makes of it -/

theorem PscAt.contextIdentity (s : State) (g : Index) : PscAt g s.psc (s.contextIdentity g).psc := by
  unfold State.contextIdentity
  split
  case h_8 => exact .applyStart ..
  case h_9 | h_10 => exact .refl ..
  all_goals exact .enterAcquiring ..

theorem stale_enterAcquiring (s : State) (g : Index) : ((s.enterAcquiring g).ctx g).stale = (s.ctx g).stale := by
  unfold State.enterAcquiring
  dsimp only
  split
  · rw [stale_enter, stale_enter]
  · exact stale_enter ..

/-- A new identity keeps the binding of every context (R81). -/
theorem binding_contextIdentity (s : State) (g : Index) :
    ((s.contextIdentity g).ctx g).bound = (s.ctx g).bound ∧ ((s.contextIdentity g).ctx g).stale = (s.ctx g).stale := by
  unfold State.contextIdentity
  split
  case h_8 => exact ⟨bound_applyStart .., stale_applyStart ..⟩
  case h_9 | h_10 => exact ⟨rfl, rfl⟩
  all_goals exact ⟨bound_enterAcquiring .., stale_enterAcquiring ..⟩

theorem contextIdentity_running {s : State} {g : Index} (started : Started s g) (free : (s.ctx g).state ≠ .held) :
    s.contextIdentity g = s.enterAcquiring g := by
  unfold State.contextIdentity
  split
  case h_8 => next st => exact absurd st started.2
  case h_9 => next st => exact absurd st free
  case h_10 => next st => exact absurd st started.1
  all_goals rfl

theorem contextIdentity_waiting {s : State} {g : Index} (waiting : (s.ctx g).state = .waiting) : s.contextIdentity g = s.applyStart g := by
  unfold State.contextIdentity
  rw [waiting]

theorem contextIdentity_stays {s : State} {g : Index} (stays : (s.ctx g).state = .held ∨ (s.ctx g).state = .unplanned) :
    s.contextIdentity g = s := by
  unfold State.contextIdentity
  rcases stays with st | st <;> rw [st]

/-- The start test of a part with an identity (R59). -/
theorem startTest_assigned {s : State} {g : Index} (assigned : s.mga.identity.assigned = true) : startTest s g
    = if (s.record g).present = false then some .cableAbsent else if (s.record g).ready = false then some .noReady else none := by
  simp [startTest, assigned]

/-- Entry to ACQUIRING does not look at the identity (R61). -/
theorem AcquiresOrDiscovers.of_withIdentity {s t : State} {id : Identity} {g : Index}
    (entered : AcquiresOrDiscovers (s.withIdentity id) t g) : AcquiresOrDiscovers s t g := by
  have locked : allLocked (s.withIdentity id) g = allLocked s g := rfl
  unfold AcquiresOrDiscovers at entered ⊢
  rw [locked] at entered
  split_ifs at entered ⊢
  · exact entered
  · exact ⟨entered.inState, entered.timer, entered.poll, entered.record, entered.probes⟩

/-- The turn of a context in SET IDENTITY, at the end of the event. -/
structure IdentityTurn (s t : State) (id : Identity) (g : Index) (u : State) : Prop where
  same : SameAt g (s.withIdentity id) t
  ctx : u.ctx g = (t.contextIdentity g).ctx g
  path : u.path g = (t.contextIdentity g).path g
  starts : t.contextIdentity g = t.enterAcquiring g → AcquiresOrDiscovers s u g

theorem exists_identityTurn {s : State} {chassis unit : Nat} (new : (chassis, unit) ≠ (s.mga.identity.chassis, s.mga.identity.unit))
    (g : Index) : ∃ t, IdentityTurn s t ⟨chassis, unit, true⟩ g ((s.storeIdentity chassis unit).endEvent s) := by
  obtain ⟨t, turn⟩ := exists_turn (fun t h => (ContextMoves.contextIdentity t h).eventAt) PscAt.contextIdentity
    (s.withIdentity ⟨chassis, unit, true⟩) g
  rw [← storeIdentity_new new] at turn
  have granted := Granted.endEvent (s.storeIdentity chassis unit) s
  refine ⟨t, turn.same, (granted.ctx g).trans turn.after.ctx, (granted.path g).trans turn.after.path, fun starts => ?_⟩
  have after := turn.after
  rw [starts] at after
  exact (turn.same.acquiresOrDiscovers
    (granted.acquiresOrDiscovers (after.acquiresOrDiscovers (acquiresOrDiscovers_enterAcquiring t g)))).of_withIdentity

/-- What a new identity does to a context, by its state (R81). -/
theorem IdentityTurn.outcome {s t u : State} {id : Identity} {g : Index} (turn : IdentityTurn s t id g u) (assigned : id.assigned = true) :
    match (s.ctx g).state with
    | .acquiring | .discovering | .agreeing | .verified | .degraded | .quarantined | .lost => AcquiresOrDiscovers s u g
    | .waiting =>
      if (s.record g).present = false then (u.ctx g).state = .waiting ∧ (u.ctx g).reason = .cableAbsent
      else if (s.record g).ready = false then (u.ctx g).state = .waiting ∧ (u.ctx g).reason = .noReady
      else AcquiresOrDiscovers s u g
    | .held | .unplanned => u.ctx g = s.ctx g ∧ u.path g = s.path g := by
  have ctx : t.ctx g = s.ctx g := turn.same.ctx
  split
  case h_8 waiting =>
    have retest := contextIdentity_waiting (ctx ▸ waiting)
    have test : startTest t g = _ := turn.same.startTest.trans (startTest_assigned (s := s.withIdentity id) assigned)
    have waits : ∀ r, startTest t g = some r → (u.ctx g).state = .waiting ∧ (u.ctx g).reason = r := fun r fails => by
      rw [turn.ctx, retest, applyStart_waiting (ctx ▸ waiting) fails, ctx_modCtx_same, ctx]
      exact ⟨waiting, rfl⟩
    split_ifs with absent unready
    · exact waits _ (test.trans (if_pos absent))
    · exact waits _ (test.trans ((if_neg absent).trans (if_pos unready)))
    · refine turn.starts (retest.trans ?_)
      rw [State.applyStart, test.trans ((if_neg absent).trans (if_neg unready))]
  case h_9 st | h_10 st =>
    have stays := contextIdentity_stays (s := t) (g := g) (by rw [ctx, st]; decide)
    exact ⟨by rw [turn.ctx, stays, ctx], by rw [turn.path, stays]; exact turn.same.path⟩
  all_goals
    next st =>
    exact turn.starts (contextIdentity_running (.of_state (ctx ▸ st) (by decide)) (by rw [ctx, st]; decide))

/-! ## The whole part -/

/-- The blocks through SET IDENTITY: the identity alone is another (R81, R186). -/
theorem storeIdentity_kept (s : State) (chassis unit : Nat) :
    BlocksKept (s.withIdentity ⟨chassis, unit, true⟩) (s.storeIdentity chassis unit)
      ∧ ReceiveKept (s.withIdentity ⟨chassis, unit, true⟩) (s.storeIdentity chassis unit)
      ∧ (s.storeIdentity chassis unit).notices = s.notices := by
  by_cases same : (chassis, unit) = (s.mga.identity.chassis, s.mga.identity.unit)
  · rw [storeIdentity_same same]
    exact ⟨.refl _, .refl _, rfl⟩
  · rw [storeIdentity_new same]
    obtain ⟨blocks, receive⟩ := fold_blocks (fun t h => (ContextMoves.contextIdentity t h).eventAt) indices
      (s.withIdentity ⟨chassis, unit, true⟩)
    exact ⟨blocks, receive, fold_notices (fun t h => (ContextMoves.contextIdentity t h).notices) indices _⟩

theorem binding_storeIdentity (s : State) (chassis unit : Nat) (g : Index) :
    (((s.storeIdentity chassis unit).endEvent s).ctx g).bound = (s.ctx g).bound
      ∧ (((s.storeIdentity chassis unit).endEvent s).ctx g).stale = (s.ctx g).stale := by
  by_cases same : (chassis, unit) = (s.mga.identity.chassis, s.mga.identity.unit)
  · rw [ctx_endEvent, storeIdentity_same same]
    exact ⟨rfl, rfl⟩
  · obtain ⟨t, turn⟩ := exists_identityTurn same g
    obtain ⟨bound, stale⟩ := binding_contextIdentity t g
    rw [turn.ctx]
    exact ⟨bound.trans (congrArg Context.bound turn.same.ctx), stale.trans (congrArg Context.stale turn.same.ctx)⟩

theorem body_setIdentity_refused {s : State} {a b : Byte}
    (bad : 4094 < (256 * a.toNat + b.toNat) / 16 ∨ 14 < (256 * a.toNat + b.toNat) % 16) :
    setIdentityCommand.body [a, b] s = (s, .refuse .identity) := if_pos bad

theorem body_setIdentity_stored {s : State} {a b : Byte}
    (good : ¬(4094 < (256 * a.toNat + b.toNat) / 16 ∨ 14 < (256 * a.toNat + b.toNat) % 16)) :
    setIdentityCommand.body [a, b] s =
      ((s.storeIdentity ((256 * a.toNat + b.toNat) / 16) ((256 * a.toNat + b.toNat) % 16)).endEvent s,
        .ok (identityResult ((s.storeIdentity ((256 * a.toNat + b.toNat) / 16)
          ((256 * a.toNat + b.toNat) % 16)).endEvent s).mga.identity)) := if_neg good

/-- Settles O49: refused by its tests, or stored and given to each context in its turn. -/
theorem setIdentityStoresAndRestarts : Obligations.SetIdentityStoresAndRestarts := by
  unfold Obligations.SetIdentityStoresAndRestarts
  intro s r a b run first code args chassis unit id
  have exec : Machine.exec .setIdentity s = _ :=
    execute_body setIdentityCommand run first (hasCode_of code) (by rw [args]; rfl)
  rw [args] at exec
  refine ⟨fun bad => ?_, fun low low' => ?_⟩
  · rw [body_setIdentity_refused bad] at exec
    exact exec
  · rw [body_setIdentity_stored (by omega)] at exec
    obtain ⟨blocks, receive, posts⟩ := storeIdentity_kept s chassis unit
    have blocks := blocks.trans (.endEvent _ s)
    obtain ⟨buc, -, -, -, -, -, -, -, ends⟩ := endEvent_rest (s.storeIdentity chassis unit) s
    have notices := notices_endEvent_all (before := s) (storeIdentity_kept s chassis unit).1.now posts
    have stored : ((s.storeIdentity chassis unit).endEvent s).mga = { s.mga with identity := id } := blocks.mga
    refine ⟨(s.storeIdentity chassis unit).endEvent s, ?_, stored, blocks.cpt, blocks.ciu, blocks.sws, ?_, notices, fun same => ?_,
      binding_storeIdentity s chassis unit, fun new g => ?_⟩
    · rw [exec, stored]
      rfl
    · have unnamed : ReceiveKept s (s.withIdentity id) := ⟨rfl, rfl, rfl, rfl, rfl⟩
      exact unnamed.trans (receive.trans ends)
    · have kept : ((s.storeIdentity chassis unit).endEvent s).buc = s.buc := by
        rw [buc, storeIdentity_same same]
        rfl
      exact ⟨kept, notices.trans (foldl_groupNoticed_same (fun g => by unfold State.ctx; rw [kept]) _)⟩
    · obtain ⟨t, turn⟩ := exists_identityTurn new g
      exact turn.outcome rfl

end Sys2Proof.Machine
end

section
/-! SOFT RESET: what the contexts, rebuilt one after another from cleared blocks, make of the Frame Steering Unit and the Probe Scheduler, and
what the end of the event adds (R82, R128, R195). -/

namespace Sys2Proof.Machine

/-! ## The Frame Steering Unit -/

/-- Where nothing is under way a cut has nothing to discard (R15). -/
theorem cutTotal_idle {s : State} (idle : ∀ f, ¬UnderWay s f) (keep : DataFrame → Bool) : cutTotal keep s.fsu = 0 := by
  have lanes : ∀ side l, (Tab.get (s.tx side) l).content.filter (fun f => !f.kept keep) = [] := fun side l =>
    List.filter_eq_nil_iff.2 fun f on => by
      cases f with
      | data f => exact absurd (.sending side l on) (idle f)
      | probe | echo | response => simp [TxFrame.kept]
  have holds : ∀ l, (Tab.get s.fsu.holds l).filter (fun h => !keep h.frame) = [] := fun l =>
    List.filter_eq_nil_iff.2 fun h on => absurd (.held l h on rfl) (idle h.frame)
  have line : ∀ l, (Tab.get s.fsu.lineTx l).content.filter (fun f => !f.kept keep) = [] := lanes .line
  have system : ∀ l, (Tab.get s.fsu.systemTx l).content.filter (fun f => !f.kept keep) = [] := lanes .system
  simp [cutTotal_eq, line, system, holds]

/-- Where no judgement waits for a frame a cut leaves the frames in interception on the system lanes as they are (log 11). -/
theorem map_cut_idle {s : State} (idle : ∀ f, ¬UnderWay s f) (keep : DataFrame → Bool) :
    Tab.map (SystemRx.cut keep) s.fsu.systemRx = s.fsu.systemRx := Tab.ext fun l => by
  rw [Tab.get_map]
  unfold SystemRx.cut
  split
  · next lead f on => exact absurd (.judged l lead on) (idle f)
  · rfl

/-- The FSU's part of a group as a soft reset leaves it (R13, R16, R19; log 14). -/
structure Cleared (p : GroupPath) : Prop where
  gate : p.gate = .closed
  map : p.map = .straight
  comps : p.comps = Tab.fill 0
  fenced : p.fenced = 0

/-- An FSU that a soft reset has cleared: no data frame under way, every group's part cleared, and the frames in interception on the system
lanes, of which none is admitted. -/
structure FsuCleared (rx : Tab SystemRx 64) (s : State) : Prop where
  idle : ∀ f, ¬UnderWay s f
  systemRx : s.fsu.systemRx = rx
  cleared : ∀ g, Cleared (s.path g)

theorem FsuCleared.modCtx {rx : Tab SystemRx 64} {s : State} (h : FsuCleared rx s) (g : Index) (f : Context → Context) :
    FsuCleared rx (s.modCtx g f) where
  idle x under := h.idle x (under.congr (fun side l on => by rwa [tx_modCtx] at on) rfl rfl)
  systemRx := h.systemRx
  cleared := h.cleared

/-- A gate written CLOSED on a cleared FSU cuts nothing and counts nothing. -/
theorem FsuCleared.writeGate {rx : Tab SystemRx 64} {s : State} (h : FsuCleared rx s) (g : Index) (profile : Option (Fin 8)) :
    FsuCleared rx (s.writeGate g .closed profile) where
  idle f under := h.idle f (underWay_writeGate under).1
  systemRx := by
    have cut : (s.writeGate g .closed profile).fsu.systemRx = Tab.map (SystemRx.cut (gateKeeps s g .closed profile)) s.fsu.systemRx :=
      Tab.ext fun l => by rw [systemRx_writeGate, Tab.get_map]
    rw [cut, map_cut_idle h.idle, h.systemRx]
  cleared k := by
    by_cases own : k = g
    · obtain ⟨-, map, comps, fenced⟩ := h.cleared g
      rw [own, path_writeGate, cutTotal_idle h.idle]
      exact ⟨rfl, map, comps, fenced⟩
    · rw [path_writeGate_ne _ _ _ own]
      exact h.cleared k

theorem FsuCleared.setPsc {rx : Tab SystemRx 64} {s : State} (h : FsuCleared rx s) (p : Psc) : FsuCleared rx { s with psc := p } where
  idle f under := h.idle f (under.congr (fun side l on => by cases side <;> exact on) rfl rfl)
  systemRx := h.systemRx
  cleared := h.cleared

/-- A change of state to one whose gate is CLOSED leaves a cleared FSU cleared. -/
theorem FsuCleared.enter {rx : Tab SystemRx 64} {s : State} (h : FsuCleared rx s) (g : Index) {st : GroupState} (r : Reason)
    (o : Option HoldOrigin) (closed : gateOf st = .closed) : FsuCleared rx (s.enter g st r o) := by
  rw [enter_eq, closed]
  exact ((h.modCtx g _).writeGate g _).setPsc _

theorem FsuCleared.applyStart {rx : Tab SystemRx 64} {s : State} (h : FsuCleared rx s) (g : Index) : FsuCleared rx (s.applyStart g) := by
  have acquires := h.enter g .none none (st := .acquiring) rfl
  unfold State.applyStart State.enterAcquiring
  split
  · dsimp only
    split
    · exact acquires.enter g .none none rfl
    · exact acquires
  · split
    · exact h.modCtx ..
    · exact h.enter g _ none rfl

theorem FsuCleared.rebuildContext {rx : Tab SystemRx 64} {s : State} (h : FsuCleared rx s) (g : Index) :
    FsuCleared rx (s.rebuildContext g) := by
  unfold State.rebuildContext
  split
  · exact ((h.modCtx g _).enter g .none none rfl).applyStart g
  · exact h

theorem FsuCleared.fold {rx : Tab SystemRx 64} {s : State} (h : FsuCleared rx s) (is : List Index) :
    FsuCleared rx (is.foldl State.rebuildContext s) := by
  induction is generalizing s with
  | nil => exact h
  | cons g rest ih => exact ih (h.rebuildContext g)

theorem fsuCleared_clearForSoftReset (s : State) :
    FsuCleared (Tab.map (SystemRx.cut fun _ => false) s.fsu.systemRx) s.clearForSoftReset where
  idle := not_underWay_clearForSoftReset s
  systemRx := by
    unfold State.clearForSoftReset Fsu.softReset Fsu.cut
    rfl
  cleared g := by
    rw [path_clearForSoftReset]
    exact ⟨rfl, rfl, rfl, rfl⟩

theorem fsuCleared_softReset (s : State) : FsuCleared (Tab.map (SystemRx.cut fun _ => false) s.fsu.systemRx) s.softReset := by
  have built : FsuCleared _ (rebuilt s) := (fsuCleared_clearForSoftReset s).fold indices
  have kept := softReset_kept s
  exact
    { idle := fun f under => built.idle f (under.congr (fun side l on => by rwa [kept.content] at on) kept.holds kept.systemRx)
      systemRx := kept.systemRx.trans built.systemRx
      cleared := fun g => by
        rw [kept.path]
        exact built.cleared g }

/-! ## The Probe Scheduler -/

/-- The scheduler has nothing of group g to abandon, and is free to grant: no request of its own, no burst holder, every slot FREE. -/
structure Unasked (p : Psc) (g : Index) : Prop where
  queue : hasRequest p.queue g = false
  holder : p.holder = none
  slots : ∀ k, (Tab.get p.slots k).state = .free

theorem abandonProbes_unasked {p : Psc} {g : Index} (h : Unasked p g) : abandonProbes g p = p := by
  have slots : Tab.map (Slot.freeIf g) p.slots = p.slots := Tab.ext fun k => by
    rw [Tab.get_map, Slot.freeIf, h.slots k]
    rfl
  have queue : dropRequest p.queue g = p.queue := List.filter_eq_self.2 fun r mem =>
    bne_iff_ne.2 (hasRequest_false_iff.1 h.queue r mem)
  have holder : releaseHolder g p.holder = p.holder := by rw [h.holder]; rfl
  rw [abandonProbes, slots, queue, holder]

/-- The context of group g comes out of a soft reset in DISCOVERING: its entry is enabled, its start test passes, its lanes are locked. -/
def starts (s : State) (g : Index) : Bool :=
  (s.entry g).enabled && (startTest s g).isNone
    && (List.range (s.entry g).fields.width.lanes).all fun i => (Tab.get s.buc.lockView (laneAt g i)).locked

theorem psc_enter_unasked {s : State} {g : Index} {st : GroupState} (r : Reason) (o : Option HoldOrigin) (h : Unasked s.psc g)
    (drops : keepsRound st = false) (other : st ≠ .discovering) : (s.enter g st r o).psc = s.psc := by
  rw [psc_enter, enterPsc, drops, abandonProbes_unasked h]
  exact if_neg other

/-- The scheduler with the burst of a group posted (R63, R110). -/
def Psc.withBurst (p : Psc) (rounds : Nat) (g : Index) : Psc := { p with queue := p.queue ++ [newRequest g .burst rounds] }

theorem psc_discovers_unasked {s : State} {g : Index} (r : Reason) (o : Option HoldOrigin) (h : Unasked s.psc g) :
    (s.enter g .discovering r o).psc = s.psc.withBurst s.mga.settings.discoveryRounds g := by
  rw [psc_enter, enterPsc]
  simp [keepsRound, abandonProbes_unasked h, postRequest, h.queue, Psc.withBurst]

theorem psc_applyStart_unasked {s : State} {g : Index} (h : Unasked s.psc g) (waiting : (s.ctx g).state = .waiting) :
    (s.applyStart g).psc
      = if (startTest s g).isNone && allLocked s g then s.psc.withBurst s.mga.settings.discoveryRounds g else s.psc := by
  cases test : startTest s g with
  | some r =>
    rw [applyStart_waiting waiting test]
    rfl
  | none =>
    have acquires : (s.enter g .acquiring .none none).psc = s.psc := psc_enter_unasked _ _ h rfl (by decide)
    have mga := (EventAt.enter s g .acquiring .none none).blocks.mga
    simp only [State.applyStart, test, State.enterAcquiring, allLocked_enter]
    split
    · next locked => rw [psc_discovers_unasked _ _ (acquires ▸ h), acquires, mga, locked]; rfl
    · next unlocked => rw [acquires, Bool.eq_false_iff.2 unlocked]; rfl

/-- A context bound afresh, in WAITING before its start test (R58). -/
def State.bindWaiting (s : State) (g : Index) (b : PlanFields) : State :=
  (s.modCtx g fun c => { c with bound := some b, stale := false }).enter g .waiting .none none

theorem bindAndStart_eq (s : State) (g : Index) (b : PlanFields) : s.bindAndStart g b = (s.bindWaiting g b).applyStart g := rfl

theorem EventAt.bindWaiting (s : State) (g : Index) (b : PlanFields) : EventAt g s (s.bindWaiting g b) :=
  (EventAt.modCtx ..).trans (.enter ..)

theorem waits_bindWaiting (s : State) (g : Index) (b : PlanFields) : Waits (s.bindWaiting g b) g .none := waits_enter ..

theorem boundWidth_bindWaiting (s : State) (g : Index) (b : PlanFields) : boundWidth (s.bindWaiting g b) g = b.width.lanes := by
  rw [State.bindWaiting, boundWidth_enter]
  simp [boundWidth]

theorem startTest_eventAt {s t : State} {g h : Index} (event : EventAt h s t) : startTest t g = startTest s g := by
  unfold startTest State.record
  rw [event.blocks.mga, event.blocks.ciu]

/-- The turn of a group in a soft reset posts its burst if its context starts (R63, R110). -/
theorem psc_rebuildContext {s : State} {g : Index} (h : Unasked s.psc g) : (s.rebuildContext g).psc
    = if starts s g then s.psc.withBurst s.mga.settings.discoveryRounds g else s.psc := by
  unfold State.rebuildContext
  split
  · next on =>
    have event := EventAt.bindWaiting s g (s.entry g).fields
    have psc : (s.bindWaiting g (s.entry g).fields).psc = s.psc := psc_enter_unasked _ _ h rfl (by decide)
    have posts := psc_applyStart_unasked (psc.symm ▸ h) (waits_bindWaiting s g (s.entry g).fields).inState.state
    rw [startTest_eventAt event, allLocked, boundWidth_bindWaiting, event.receive.lockView, psc, event.blocks.mga] at posts
    rw [bindAndStart_eq, posts, starts, on, Bool.true_and]
  · next off => simp [starts, off]

/-- The bursts of the groups that start, in the order of their turns. -/
def Psc.withBursts (p : Psc) (rounds : Nat) (gs : List Index) : Psc := { p with queue := p.queue ++ gs.map (newRequest · .burst rounds) }

theorem queue_softReset_withBursts (p : Psc) (rounds : Nat) (gs : List Index) :
    (p.softReset.withBursts rounds gs).queue = gs.map (newRequest · .burst rounds) := List.nil_append _

theorem slots_softReset_withBursts (p : Psc) (rounds : Nat) (gs : List Index) (k : Fin 8) :
    Tab.get (p.softReset.withBursts rounds gs).slots k = { generation := (Tab.get p.slots k).generation, state := .free } := by
  unfold Psc.withBursts Psc.softReset
  rw [Tab.get_map]

theorem starts_congr {s t : State} (blocks : BlocksKept s t) (lockView : t.buc.lockView = s.buc.lockView) : starts t = starts s := by
  funext g
  unfold starts startTest State.entry State.record
  rw [blocks.cpt, blocks.mga, blocks.ciu, lockView]

theorem psc_rebuildFold (is : List Index) (distinct : is.Nodup) {s : State} (h : ∀ g ∈ is, Unasked s.psc g) :
    (is.foldl State.rebuildContext s).psc = s.psc.withBursts s.mga.settings.discoveryRounds (is.filter (starts s)) := by
  induction is generalizing s with
  | nil => simp [Psc.withBursts]
  | cons g rest ih =>
    obtain ⟨fresh, distinct⟩ := List.nodup_cons.1 distinct
    have event := EventAt.rebuildContext s g
    have psc := psc_rebuildContext (h g (.head _))
    have later : ∀ k ∈ rest, Unasked (s.rebuildContext g).psc k := fun k mem => by
      obtain ⟨queue, holder, slots⟩ := h k (.tail _ mem)
      have other : g ≠ k := fun same => fresh (same ▸ mem)
      rw [psc]
      split
      · exact ⟨by simpa [Psc.withBurst, hasRequest, newRequest, other] using queue, holder, slots⟩
      · exact ⟨queue, holder, slots⟩
    rw [List.foldl_cons, ih distinct later, psc, starts_congr event.blocks event.receive.lockView, event.blocks.mga, List.filter_cons]
    split <;> simp [Psc.withBursts, Psc.withBurst]

@[simp] theorem lockView_clearForSoftReset (s : State) : s.clearForSoftReset.buc.lockView = s.buc.lockView := by
  unfold State.clearForSoftReset
  rfl

@[simp] theorem lfr_clearForSoftReset (s : State) : s.clearForSoftReset.lfr = s.lfr := by
  unfold State.clearForSoftReset
  rfl

@[simp] theorem ers_clearForSoftReset (s : State) : s.clearForSoftReset.ers = Tab.fill none := by
  unfold State.clearForSoftReset
  rfl

@[simp] theorem lineRx_clearForSoftReset (s : State) : s.clearForSoftReset.fsu.lineRx = s.fsu.lineRx := by
  unfold State.clearForSoftReset Fsu.softReset Fsu.cut
  rfl

@[simp] theorem sws_clearForSoftReset (s : State) :
    s.clearForSoftReset.sws = { s.sws with position := 0, completed := 0, flag := false } := by
  unfold State.clearForSoftReset
  rfl

theorem starts_clearForSoftReset (s : State) : starts s.clearForSoftReset = starts s := by
  funext g
  unfold starts startTest State.entry State.record
  rw [cpt_clearForSoftReset, mga_clearForSoftReset, ciu_clearForSoftReset, lockView_clearForSoftReset]

/-- The scheduler with the contexts rebuilt: the bursts of those that started, in index order (R128). -/
theorem psc_rebuilt (s : State) :
    (rebuilt s).psc = s.psc.softReset.withBursts s.mga.settings.discoveryRounds (indices.filter (starts s)) := by
  have psc : s.clearForSoftReset.psc = s.psc.softReset := rfl
  have unasked : ∀ g ∈ indices, Unasked s.clearForSoftReset.psc g := fun g _ =>
    ⟨rfl, rfl, fun k => by rw [psc, Psc.softReset, Tab.get_map]⟩
  rw [rebuilt, psc_rebuildFold indices (List.nodup_finRange 64) unasked, psc, starts_clearForSoftReset, mga_clearForSoftReset]

/-! ## The grants -/

/-- A slot after grants: as it was, or FREE then and taken with the next generation by a request of the queue (R118). -/
theorem slots_grantLoop (width : Index → Nat) (n : Nat) (p : Psc) (k : Fin 8) :
    Tab.get (grantLoop width n p).slots k = Tab.get p.slots k
      ∨ (Tab.get p.slots k).state = .free ∧ ∃ r ∈ p.queue, ∃ i, Tab.get (grantLoop width n p).slots k
          = { generation := (Tab.get p.slots k).generation + 1, state := .granted r.group i } := by
  induction n generalizing p with
  | zero => exact .inl rfl
  | succ n ih =>
    unfold grantLoop
    split
    · exact .inl rfl
    · next c chosen =>
      split
      · have own : c ∈ p.queue := (candidate_mem chosen).1
        have round : ∀ r ∈ (grantRound (width c.group) c p).queue, ∃ r' ∈ p.queue, r'.group = r.group := fun r mem => by
          obtain ⟨r', mem', same, -⟩ := mem_of_terms (GrantsOnly.grantRound own (candidate_mem chosen).2 (width c.group)).terms.symm mem
          exact ⟨r', mem', same⟩
        rcases takeSlots_cases c.group (width c.group) p.slots k with stays | ⟨free, i, -, taken⟩
        · have slots : Tab.get (grantRound (width c.group) c p).slots k = Tab.get p.slots k := stays
          rcases ih (grantRound (width c.group) c p) with same | ⟨free, r, mem, i, later⟩
          · exact .inl (same.trans slots)
          · obtain ⟨r', mem', same⟩ := round r mem
            rw [slots] at free later
            exact .inr ⟨free, r', mem', i, same ▸ later⟩
        · have slots : Tab.get (grantRound (width c.group) c p).slots k = _ := taken
          have busy := (GrantsOnly.grantLoop width n (grantRound (width c.group) c p)).slots k (by rw [slots]; simp)
          exact .inr ⟨free, c, own, i, busy.trans slots⟩
      · exact .inl rfl

/-- Bursts that wait while no one holds the burst lock and the slots are FREE: the first of them takes the lock (R113, R116). -/
theorem holder_grantLoop {width : Index → Nat} (narrow : ∀ g, width g ≤ 8) (n : Nat) {p : Psc} {r : ProbeRequest}
    {rest : List ProbeRequest} (queue : p.queue = r :: rest) (bursts : ∀ x ∈ p.queue, x.kind = .burst ∧ x.inFlight = false)
    (holder : p.holder = none) (slots : ∀ k, (Tab.get p.slots k).state = .free) :
    (grantLoop width (n + 1) p).holder = some r.group := by
  have chosen : candidate p = some r := by
    have urgent : (p.queue.find? fun r => (r.kind == .urgent) && !r.inFlight) = none := List.find?_eq_none.2 fun x mem => by
      simp [(bursts x mem).1]
    have idle : r.inFlight = false := (bursts r (queue ▸ .head _)).2
    unfold candidate
    rw [urgent, holder, queue]
    rw [List.find?_eq_none.2 (by simp)]
    simp [idle]
  have passes : grantable width p r = true := by
    have free : (freeSlots p).length = 8 := by simp [freeSlots, slots]
    simp [grantable, reservation, holder, free, narrow]
  have granted : (grantRound (width r.group) r p).holder = some r.group :=
    if_pos ⟨(bursts r (queue ▸ .head _)).1, holder⟩
  rw [grantLoop, chosen]
  dsimp only
  rw [if_pos passes]
  rcases (GrantsOnly.grantLoop width n (grantRound (width r.group) r p)).holder with same | ⟨none, -⟩
  · exact same.trans granted
  · rw [granted] at none
    cases none

theorem boundWidth_le (s : State) (g : Index) : boundWidth s g ≤ 8 := by
  unfold boundWidth
  cases ((s.ctx g).bound.elim Width.one PlanFields.width) <;> decide

theorem psc_grant (s : State) : s.grant.psc = grantLoop (boundWidth s) 8 s.psc := rfl

/-- The scheduler of a part after a soft reset: the bursts of the groups that started, the first of them with the burst lock, and each slot
FREE with its generation kept or taken by one of them with the next (R128). -/
structure BurstsPosted (s : State) (p : Psc) : Prop where
  now : p.now = s.psc.now
  late : p.late = 0
  queue : p.queue.map (fun q => (q.group, q.kind, q.rounds))
    = (indices.filter (starts s)).map fun g => (g, RequestKind.burst, s.mga.settings.discoveryRounds)
  holder : p.holder = (indices.filter (starts s)).head?
  slots : ∀ k, Tab.get p.slots k = { generation := (Tab.get s.psc.slots k).generation, state := .free }
    ∨ ∃ g ∈ indices.filter (starts s), ∃ i, Tab.get p.slots k
        = { generation := (Tab.get s.psc.slots k).generation + 1, state := .granted g i }

theorem burstsPosted_softReset (s : State) : BurstsPosted s s.softReset.psc := by
  have grants := GrantsOnly.grant (rebuilt s)
  have psc : s.softReset.psc = grantLoop (boundWidth (rebuilt s)) 8 (rebuilt s).psc :=
    (softReset_kept s).psc.trans (psc_grant _)
  have built := psc_rebuilt s
  have queue : (rebuilt s).psc.queue = (indices.filter (starts s)).map (newRequest · .burst s.mga.settings.discoveryRounds) := by
    rw [built, queue_softReset_withBursts]
  have slots : ∀ k, Tab.get (rebuilt s).psc.slots k = { generation := (Tab.get s.psc.slots k).generation, state := .free } := fun k => by
    rw [built, slots_softReset_withBursts]
  have holder : (rebuilt s).psc.holder = none := by rw [built]; rfl
  rw [psc]
  refine ⟨grants.now.trans (by rw [built]; rfl), grants.late.trans (by rw [built]; rfl), ?_, ?_, fun k => ?_⟩
  · refine grants.terms.trans ?_
    rw [queue, List.map_map]
    rfl
  · cases started : indices.filter (starts s) with
    | nil =>
      rw [started] at queue
      refine grants.holder.elim (·.trans holder) fun ⟨_, _, _, r, mem, _⟩ => ?_
      rw [queue] at mem
      cases mem
    | cons g rest =>
      rw [started] at queue
      refine holder_grantLoop (boundWidth_le _) 7 queue (fun x mem => ?_) holder fun k => by rw [slots]
      rw [queue] at mem
      obtain ⟨h, -, rfl⟩ := List.mem_map.1 mem
      exact ⟨rfl, rfl⟩
  · rcases slots_grantLoop (boundWidth (rebuilt s)) 8 (rebuilt s).psc k with same | ⟨-, r, mem, i, taken⟩
    · exact .inl (same.trans (slots k))
    · rw [queue] at mem
      obtain ⟨g, started, rfl⟩ := List.mem_map.1 mem
      rw [slots] at taken
      exact .inr ⟨g, started, i, taken⟩

end Sys2Proof.Machine
end

section
/-! SOFT RESET: the contexts, the notices, and the part at the end of the event (R82, R195). -/

namespace Sys2Proof.Machine

/-! ## After the contexts are rebuilt -/

/-- What the end of a soft reset leaves of the blocks that SoftResetKept does not name, and the fresh read and step timer (R41, R44, R167). -/
structure SoftResetRest (r t : State) : Prop where
  lfr : t.lfr = r.lfr
  buc : t.buc = r.buc
  ers : t.ers = r.ers
  lineRx : t.fsu.lineRx = r.fsu.lineRx
  malformed : t.fsu.malformed = r.fsu.malformed
  ciu : t.ciu = { r.ciu with inProgress := true, timer := some (msToNs r.mga.settings.inventoryInterval), elapsed := 0 }
  sws : t.sws = { r.sws with timer := if r.sws.mode = .off then none else some (usToNs r.mga.settings.sweepInterval) }

theorem softReset_rest (s : State) : SoftResetRest (rebuilt s) s.softReset := by
  rw [softReset_eq]
  generalize rebuilt s = r
  obtain ⟨q, e⟩ := postEnabledGroups_only r
  rw [e]
  exact
    { lfr := lfr_arbitrate _
      buc := buc_arbitrate _
      ers := ers_arbitrate _
      lineRx := fsu_lineRx_arbitrate _
      malformed := fsu_malformed_arbitrate _
      ciu := ciu_arbitrate _
      sws := sws_arbitrate _ }

theorem Granted.softReset (s : State) : Granted (rebuilt s) s.softReset := by
  have kept := softReset_kept s
  refine ⟨kept.ctx, kept.path, by rw [(softReset_rest s).buc], ?_⟩
  rw [kept.psc]
  exact .grant _

theorem receive_rebuilt (s : State) : ReceiveKept s.clearForSoftReset (rebuilt s) := (fold_blocks EventAt.rebuildContext _ _).2

/-! ## The contexts -/

theorem PscAt.rebuildContext (s : State) (g : Index) : PscAt g s.psc (s.rebuildContext g).psc := by
  unfold State.rebuildContext
  split
  · rw [bindAndStart_eq]
    exact (PscAt.enter (s.modCtx g _) ..).trans (.applyStart ..)
  · exact .refl ..

theorem rebuildContext_enabled {s : State} {g : Index} (on : (s.entry g).enabled = true) :
    s.rebuildContext g = s.bindAndStart g (s.entry g).fields := if_pos on

theorem rebuildContext_disabled {s : State} {g : Index} (off : (s.entry g).enabled = false) : s.rebuildContext g = s :=
  if_neg (by rw [off]; decide)

/-- The turn of a context in a soft reset (R82). -/
theorem exists_resetTurn (s : State) (g : Index) : ∃ t, Turn State.rebuildContext s.clearForSoftReset g t (rebuilt s)
    ∧ t.entry g = s.entry g := by
  obtain ⟨t, turn⟩ := exists_turn EventAt.rebuildContext PscAt.rebuildContext s.clearForSoftReset g
  refine ⟨t, turn, ?_⟩
  unfold State.entry
  rw [turn.blocks.cpt, cpt_clearForSoftReset]

theorem startTest_clearForSoftReset (s : State) (g : Index) : startTest s.clearForSoftReset g = startTest s g := by
  unfold startTest State.record
  rw [mga_clearForSoftReset, ciu_clearForSoftReset]

/-- A context whose entry is not enabled stays at its hardware-reset values (R53, R82). -/
theorem ctx_softReset_disabled {s : State} {g : Index} (off : (s.entry g).enabled = false) : s.softReset.ctx g = Context.reset := by
  obtain ⟨t, turn, entry⟩ := exists_resetTurn s g
  have after := turn.after
  rw [rebuildContext_disabled (by rw [entry, off])] at after
  rw [(Granted.softReset s).ctx, after.ctx, turn.same.ctx, ctx_clearForSoftReset]

theorem goodCount_applyStart {s : State} {g : Index} (none : (s.ctx g).goodCount = 0) : ((s.applyStart g).ctx g).goodCount = 0 := by
  unfold State.applyStart State.enterAcquiring
  split
  · dsimp only
    split
    · simp [enterContext, entryGoodCount]
    · simp [enterContext, entryGoodCount, none]
  · split <;> simp [enterContext, entryGoodCount, none]

/-- The group's lanes are locked, by the width of its plan entry (R54). -/
def entryLocked (s : State) (g : Index) : Bool :=
  (List.range (s.entry g).fields.width.lanes).all fun i => (Tab.get s.buc.lockView (laneAt g i)).locked

/-- Context g of u, rebuilt from the plan entry, inventory and lock view of s (R58 to R61, R82). -/
structure RebuiltAt (s u : State) (g : Index) : Prop where
  bound : (u.ctx g).bound = some (s.entry g).fields
  stale : (u.ctx g).stale = false
  tested : match startTest s g with
    | some w => Waits u g w
    | none =>
      if entryLocked s g then StartsDiscovery u g s.mga.settings.discoveryRounds
      else InState u g .acquiring .none none
        ∧ (u.ctx g).timer = some { kind := .lock, remaining := 1000000 * s.mga.settings.lockTimeout }
        ∧ (u.ctx g).poll = none ∧ (u.ctx g).record = DiscoveryRecord.cleared ∧ (u.ctx g).goodCount = 0
        ∧ NoProbeWork u g

/-- A context whose entry is enabled, bound to it and taken through WAITING by the start test, on the way to the end of the event. -/
theorem rebuiltAt_bindAndStart {s u v : State} {g : Index} (kept : KeptAt g (s.bindAndStart g (s.entry g).fields) u)
    (granted : Granted u v) : RebuiltAt s v g := by
  obtain ⟨bound, stale, -⟩ := bindAndStart_outcome s g (s.entry g).fields
  have ctx : v.ctx g = (s.bindAndStart g (s.entry g).fields).ctx g := (granted.ctx g).trans kept.ctx
  refine ⟨by rw [ctx, bound], by rw [ctx, stale], ?_⟩
  have waits := waits_bindWaiting s g (s.entry g).fields
  have event := EventAt.bindWaiting s g (s.entry g).fields
  have outcome := waits_or_starts waits
  rw [startTest_eventAt event] at outcome
  cases test : startTest s g with
  | some w =>
    rw [test] at outcome
    exact granted.waits (kept.waits outcome)
  | none =>
    rw [test] at outcome
    have starts := granted.acquiresOrDiscovers (kept.acquiresOrDiscovers outcome)
    have locked : allLocked (s.bindWaiting g (s.entry g).fields) g = entryLocked s g := by
      rw [allLocked, boundWidth_bindWaiting, event.receive.lockView, entryLocked]
    unfold AcquiresOrDiscovers at starts
    rw [locked, event.blocks.mga] at starts
    dsimp only
    split_ifs at starts ⊢
    · exact starts
    · refine ⟨starts.inState, starts.timer.trans ?_, starts.poll, starts.record.trans waits.record, ?_, starts.probes⟩
      · rw [event.blocks.mga]
        rfl
      · rw [ctx, bindAndStart_eq]
        exact goodCount_applyStart waits.goodCount

theorem RebuiltAt.congr {s t u : State} {g : Index} (h : RebuiltAt t u g) (entry : t.entry g = s.entry g)
    (test : startTest t g = startTest s g) (lockView : t.buc.lockView = s.buc.lockView) (mga : t.mga = s.mga) : RebuiltAt s u g := by
  obtain ⟨bound, stale, tested⟩ := h
  rw [entry] at bound
  rw [test, entryLocked, entry, lockView, mga] at tested
  exact ⟨bound, stale, tested⟩

theorem rebuiltAt_softReset {s : State} {g : Index} (on : (s.entry g).enabled = true) : RebuiltAt s s.softReset g := by
  obtain ⟨t, turn, entry⟩ := exists_resetTurn s g
  have after := turn.after
  rw [rebuildContext_enabled (by rw [entry, on])] at after
  exact (rebuiltAt_bindAndStart after (.softReset s)).congr entry
    (turn.same.startTest.trans (startTest_clearForSoftReset s g)) (turn.same.lockView.trans (lockView_clearForSoftReset s))
    (turn.same.mga.trans (mga_clearForSoftReset s))

/-! ## The notices -/

/-- The notice of a group as its context stands (R57). -/
def State.groupNotice (s : State) (g : Index) : Notice where
  subject := g.val
  content := .group (s.ctx g).state (s.ctx g).reason (s.ctx g).origin
  time := s.psc.now
  coalesced := false

/-- A notice of a subject that has none waiting goes to the tail (R193). -/
theorem postNotice_fresh {q : List Notice} {k : Nat} (fresh : k ∉ q.map Notice.subject) (c : NoticeContent) (a : Time) :
    postNotice q k c a = q ++ [{ subject := k, content := c, time := a, coalesced := false }] := by
  induction q with
  | nil => rfl
  | cons n rest ih =>
    rw [List.map_cons, List.mem_cons, not_or] at fresh
    rw [postNotice, if_neg (Ne.symm fresh.1), ih fresh.2, List.cons_append]

theorem notices_postFold (s : State) (is : List Index) (distinct : is.Nodup) (q : List Notice)
    (fresh : ∀ g ∈ is, g.val ∉ q.map Notice.subject) :
    (is.foldl (fun (t : State) g => if (s.entry g).enabled then t.postGroup g else t) { s with notices := q }).notices
      = q ++ (is.filter fun g => (s.entry g).enabled).map s.groupNotice := by
  induction is generalizing q with
  | nil => simp
  | cons g rest ih =>
    obtain ⟨new, distinct⟩ := List.nodup_cons.1 distinct
    rw [List.foldl_cons, List.filter_cons]
    split
    · have posted : ({ s with notices := q } : State).postGroup g = { s with notices := q ++ [s.groupNotice g] } :=
        congrArg (fun q => ({ s with notices := q } : State)) (postNotice_fresh (fresh g (.head _)) _ _)
      have later : ∀ k ∈ rest, k.val ∉ (q ++ [s.groupNotice g]).map Notice.subject := fun k mem own => by
        rw [List.map_append, List.mem_append] at own
        rcases own with old | own
        · exact fresh k (.tail _ mem) old
        · exact new (Fin.ext (List.mem_singleton.1 own) ▸ mem)
      rw [posted, ih distinct _ later, List.map_cons, List.append_assoc, List.singleton_append]
    · exact ih distinct q fun k mem => fresh k (.tail _ mem)

/-- The notices of the groups whose entries are enabled, in index order, in an empty queue (R82). -/
theorem notices_postEnabledGroups {s : State} (none : s.notices = []) :
    s.postEnabledGroups.notices = (indices.filter fun g => (s.entry g).enabled).map s.groupNotice := by
  have empty : s = { s with notices := [] } := by rw [← none]
  have posts := notices_postFold s indices (List.nodup_finRange 64) [] fun _ _ => List.not_mem_nil
  rw [← empty] at posts
  exact posts

theorem notices_softReset (s : State) : s.softReset.notices = (indices.filter fun g => (s.entry g).enabled).map fun g =>
    { subject := g.val
      content := .group (s.softReset.ctx g).state (s.softReset.ctx g).reason (s.softReset.ctx g).origin
      time := s.psc.now
      coalesced := false } := by
  have kept := softReset_kept s
  have entry : (rebuilt s).entry = s.entry := by
    funext g
    rw [State.entry, (blocks_rebuilt s).cpt, cpt_clearForSoftReset]
    rfl
  have now : (rebuilt s).psc.now = s.psc.now := (blocks_rebuilt s).now
  rw [kept.notices, notices_postEnabledGroups (notices_rebuilt s), entry]
  refine List.map_congr_left fun g _ => ?_
  rw [State.groupNotice, now, kept.ctx]

/-! ## The command -/

/-- Settles O6: the blocks through the cleared, rebuilt and granted part; each context by its turn; the scheduler by its bursts. -/
theorem softResetRebuildsThePart : Obligations.SoftResetRebuildsThePart := by
  unfold Obligations.SoftResetRebuildsThePart
  intro s r run first code args locked started
  have exec : Machine.exec .softReset s = _ := execute_body softResetCommand run first (hasCode_of code) (by rw [args]; rfl)
  have blocks := blocks_rebuilt s
  have receive := receive_rebuilt s
  have kept := softReset_kept s
  have rest := softReset_rest s
  have fsu := fsuCleared_softReset s
  have bursts := burstsPosted_softReset s
  have ciu : s.softReset.ciu = { s.ciu with
      inProgress := true
      readPending := false
      handed := []
      timer := some (msToNs s.mga.settings.inventoryInterval)
      elapsed := 0 } := by rw [rest.ciu, blocks.ciu, blocks.mga, ciu_clearForSoftReset, mga_clearForSoftReset]
  have sws : s.softReset.sws = { s.sws with
      position := 0
      completed := 0
      flag := false
      timer := if s.sws.mode = .off then none else some (usToNs s.mga.settings.sweepInterval) } := by
    rw [rest.sws, blocks.sws, blocks.mga, mga_clearForSoftReset, sws_clearForSoftReset]
  refine ⟨s.softReset, exec, kept.mga.trans (blocks.mga.trans (mga_clearForSoftReset s)),
    kept.cpt.trans (blocks.cpt.trans (cpt_clearForSoftReset s)), rest.lfr.trans (receive.lfr.trans (lfr_clearForSoftReset s)), ?_,
    by rw [ciu], bursts.now, kept.classTable.trans (blocks.classTable.trans (classTable_clearForSoftReset s)), fsu.systemRx,
    rest.lineRx.trans (receive.lineRx.trans (lineRx_clearForSoftReset s)), by rw [sws], by rw [sws],
    by rw [ciu], by rw [ciu], by rw [ciu], by rw [ciu], by rw [ciu]; rfl,
    rest.malformed.trans blocks.malformed, bursts.late, fun g => (fsu.cleared g).fenced, fun g => ?_, fun l => ?_, fun l => ?_,
    fun side l f on => fsu.idle f (.sending side l on), by rw [sws], by rw [sws], by rw [sws], by rw [sws]; rfl,
    bursts.queue, bursts.holder, bursts.slots, fun g => ctx_softReset_disabled, fun g on => ?_, notices_softReset s⟩
  · rw [rest.buc, receive.lockView, lockView_clearForSoftReset]
  · exact ⟨(fsu.cleared g).map, (fsu.cleared g).comps, (fsu.cleared g).gate⟩
  · rw [rest.ers, receive.ers, ers_clearForSoftReset, Tab.get_fill]
  · exact List.eq_nil_iff_forall_not_mem.2 fun h on => fsu.idle h.frame (.held l h on rfl)
  · obtain ⟨bound, stale, tested⟩ := rebuiltAt_softReset on
    exact ⟨bound, stale, tested⟩

end Sys2Proof.Machine
end

section
/-! Probes and echoes as they depart and arrive (05 sections 5.2 to 5.6): the bytes of an echo and of a probe (R89, R90), the slots they
leave behind (R93, R119), and the probes whose view changes no context (R96, R99). -/

namespace Sys2Proof.Machine

/-! ## The view of a lane, in its code -/

/-- The view a state advertises, in its code (R55, R87, R88). -/
theorem code_viewOf (st : GroupState) : (viewOf st).code = match st with
    | .unplanned => 0
    | .waiting | .acquiring | .discovering | .lost => 1
    | .agreeing | .verified | .degraded => 2
    | .quarantined => 3
    | .held => 4 := by
  cases st <;> rfl

/-- The view of a lane is that of its covering context, UNPLANNED where there is none (R87), in its code (R88). -/
theorem code_laneView (s : State) (l : Index) : (laneView s l).code = match covering s.cpt.plan l with
    | none => 0
    | some g => (viewOf (s.ctx g).state).code := by
  unfold laneView
  cases covering s.cpt.plan l <;> rfl

/-! ## Departures -/

theorem exec_echoDeparture {s : State} {p : Fin 16} {j : Fin 4} {e : EchoSlot} (run : s.inReset = false)
    (waits : Tab.get s.ers (cell p j) = some e) (free : (Tab.get s.fsu.lineTx (cell p j)).underWay = none) :
    exec (.echoDeparture p j) s = .next ((s.send .line (cell p j) (.echo
      (echoBytes (kindOf s.fsu.classTable .echo) e s.mga.identity (cell p j) (turnaroundOf s.psc.now e.arrival)
        (laneView s (cell p j))))).setEcho (cell p j) none) := by
  show execEchoDeparture p j s = _
  unfold execEchoDeparture
  rw [unlessReset_running _ run, waits]
  exact congrArg Host.Outcome.next (if_pos ((laneFree_iff s .line _).2 free))

theorem exec_probeDeparture {s : State} {k : Fin 8} {g : Index} {i : Fin 4} (run : s.inReset = false)
    (granted : (Tab.get s.psc.slots k).state = .granted g i) (free : (Tab.get s.fsu.lineTx (laneAt g i.val)).underWay = none)
    (silent : Tab.get s.ers (laneAt g i.val) = none) :
    exec (.probeDeparture k) s = .next
      (({ s with psc := { s.psc with slots := Tab.upd s.psc.slots k fun sl =>
          { sl with state := sentSlot s.psc.now (usToNs s.mga.settings.probeTimeout) g i } } }).send .line (laneAt g i.val) (.probe
        (probeBytes (kindOf s.fsu.classTable .probe) (tagOf k (Tab.get s.psc.slots k).generation) s.psc.now s.mga.identity
          (laneAt g i.val) (viewOf (s.ctx g).state)))) := by
  show execProbeDeparture k s = _
  unfold execProbeDeparture
  rw [unlessReset_running _ run, granted]
  have departs : (laneFree s .line (laneAt g i.val) && (Tab.get s.ers (laneAt g i.val)).isNone) = true := by
    rw [(laneFree_iff s .line _).2 free, silent]
    rfl
  exact congrArg Host.Outcome.next (if_pos departs)

/-- Settles O20: an echo's bytes are those of R90, with the code of the lane's view. -/
theorem echoDepartureAnswersTheProbe : Obligations.EchoDepartureAnswersTheProbe := by
  unfold Obligations.EchoDepartureAnswersTheProbe
  intro s p j e run waits free
  dsimp only
  rw [exec_echoDeparture run waits free]
  unfold echoBytes
  rw [code_laneView, portOf_cell, laneOf_cell]
  simp only [code_viewOf]
  rfl

/-- Settles O21: a probe's bytes are those of R89, and its slot becomes SENT under its timeout. -/
theorem probeDepartureStampsTheSlot : Obligations.ProbeDepartureStampsTheSlot := by
  unfold Obligations.ProbeDepartureStampsTheSlot
  intro s k g i run granted free silent
  dsimp only
  rw [exec_probeDeparture run granted free silent]
  unfold probeBytes
  rw [code_viewOf]
  rfl

/-! ## Probe views that change nothing -/

/-- The acceptance test of R99 fails on a lane that is unmerged, on a sender that is not the far end merged there, and on this part. -/
theorem acceptsReport_refused {s : State} {g l : Index} {sender : FarEnd}
    (refused : (Tab.get (s.ctx g).record.lanes (offsetIn g l)).merged = none
      ∨ (∃ m, (Tab.get (s.ctx g).record.lanes (offsetIn g l)).merged = some m
          ∧ ¬(m.far.chassis = sender.chassis ∧ m.far.unit = sender.unit ∧ m.far.port = sender.port ∧ m.far.lane = sender.lane))
      ∨ (sender.chassis = s.mga.identity.chassis ∧ sender.unit = s.mga.identity.unit)) :
    acceptsReport s g l sender = false := by
  unfold acceptsReport
  rcases refused with unmerged | ⟨m, merged, other⟩ | own
  · rw [unmerged]
  · have ne : (m.far == sender) = false := by
      simpa using fun e : m.far = sender => other (e ▸ ⟨rfl, rfl, rfl, rfl⟩)
    rw [merged]
    simp only [ne, Bool.false_and]
  · split
    · simp [own.1, own.2]
    · rfl

/-- A view changes nothing where its code names none, the lane has no group, or the acceptance test fails (R96, R99). -/
theorem viewReport_ignored {s : State} {l : Index} {sender : FarEnd} {view : Option View}
    (ignored : view = none ∨ ∀ g, covering s.cpt.plan l = some g → acceptsReport s g l sender = false) :
    s.viewReport l sender view = s := by
  unfold State.viewReport
  split
  · next g covered =>
    rcases ignored with no | refused
    · cases no
    · rw [refused g covered]
      rfl
  · rfl

/-- Whatever the view, a view report touches at most the covering group (R96, R99). -/
theorem eventAt_viewReport (s : State) (l : Index) (sender : FarEnd) (view : Option View) :
    ∃ g, EventAt g s (s.viewReport l sender view) := by
  unfold State.viewReport
  split
  · next v g _ =>
    refine ⟨g, ?_⟩
    split
    · exact .applyView s g v
    · exact .refl g s
  · exact ⟨0, .refl 0 s⟩

/-- Settles O18: the slot is filled before the view is reported, and a report that is ignored leaves the event nothing but its end. -/
theorem probeFillsEchoSlot : Obligations.ProbeFillsEchoSlot := by
  unfold Obligations.ProbeFillsEchoSlot
  intro s p j rest a x run arriving read
  dsimp only
  refine ⟨_, exec_probeReceived run arriving read, ?_⟩
  generalize filled : (s.setLineRx (cell p j) .none).setEcho (cell p j) (some ⟨x.tag, x.sendTime, a⟩) = u
  obtain ⟨g, reported⟩ := eventAt_viewReport u (cell p j) x.sender x.view
  obtain ⟨buc, paths, ers, holds, _, _, _, blocks, receive⟩ := endEvent_rest (u.viewReport (cell p j) x.sender x.view) s
  have kept := reported.receive.trans receive
  have start : BlocksKept s u := filled ▸ ⟨rfl, rfl, rfl, rfl, rfl, rfl, rfl, rfl, rfl, rfl⟩
  refine ⟨by rw [kept.ers, ← filled]; rfl, by rw [kept.lineRx, ← filled]; rfl, by rw [kept.lfr, ← filled]; rfl,
    by rw [kept.lockView, ← filled]; rfl, by rw [kept.late, ← filled]; rfl, start.trans (reported.blocks.trans blocks),
    fun ignored => ?_⟩
  have same : u.viewReport (cell p j) x.sender x.view = u := by
    rw [← filled]
    exact viewReport_ignored (ignored.imp_right fun refused g covered => acceptsReport_refused (refused g covered))
  rw [same] at buc paths holds ⊢
  refine ⟨by rw [buc, ← filled]; rfl, by rw [paths, ← filled]; rfl, ?_, by rw [holds, ← filled]; rfl⟩
  rw [notices_endEvent_all start.now (by rw [← filled]; rfl)]
  exact foldl_groupNoticed_same (fun h => by rw [ctx_endEvent, ← filled]; rfl) _

end Sys2Proof.Machine
end

section
/-! The completion of a round, by an echo or by a deadline (R120, R121, R124): what the command leaves of the part, and the frame of its
event. -/

namespace Sys2Proof.Machine

/-! ## The scheduler and the frames in interception set aside -/

/-- The part with other frames in interception on its line lanes and another Probe Scheduler. No change of state of a context looks
at them. -/
def State.aside (s : State) (rx : Tab LineRx 64) (p : Psc) : State := { s with fsu := { s.fsu with lineRx := rx }, psc := p }

theorem aside_own (s : State) : s.aside s.fsu.lineRx s.psc = s := rfl

theorem aside_setLineRx (s : State) (l : Index) (r : LineRx) : s.aside (Tab.set s.fsu.lineRx l r) s.psc = s.setLineRx l r := rfl

@[simp] theorem ctx_aside (s : State) (rx : Tab LineRx 64) (p : Psc) (g : Index) : (s.aside rx p).ctx g = s.ctx g := rfl

@[simp] theorem path_aside (s : State) (rx : Tab LineRx 64) (p : Psc) (g : Index) : (s.aside rx p).path g = s.path g := rfl

theorem sameAt_aside (g : Index) (s : State) (rx : Tab LineRx 64) (p : Psc) : SameAt g s (s.aside rx p) := ⟨rfl, rfl, rfl, rfl, rfl⟩

theorem enter_aside (s : State) (rx : Tab LineRx 64) (p : Psc) (g : Index) (st : GroupState) (r : Reason) (o : Option HoldOrigin) :
    (s.aside rx p).enter g st r o = (s.enter g st r o).aside rx (enterPsc (s.aside rx p) g st) := by
  rw [enter_eq, enter_eq]
  rfl

/-! ## The end of a round -/

/-- The result of a completed round (R125). -/
theorem endRound_result (r : ProbeRequest) (p : Psc) :
    (endRound r p).2 = { group := r.group, kind := r.kind, rounds := r.rounds - 1, outcomes := r.outcomes } := by
  unfold endRound
  dsimp only
  split <;> rfl

/-- The result of the round of request r that outcome o of lane offset i completes (R125). -/
def ProbeRequest.resultWith (r : ProbeRequest) (i : Fin 4) (o : LaneOutcome) : RoundResult :=
  { group := r.group, kind := r.kind, rounds := r.rounds - 1, outcomes := Tab.set r.outcomes i (some o) }

/-- The Probe Scheduler p once the round of request r has completed (R124): no probe of the group is outstanding, and the request is
gone with its burst lock, or waits for one round fewer. -/
structure RoundOver (s : State) (r : ProbeRequest) (p : Psc) : Prop where
  kept : EventAt r.group s { s with psc := p }
  idle : ∀ k, (Tab.get p.slots k).state.group ≠ some r.group
  done : r.rounds = 1 → hasRequest p.queue r.group = false ∧ p.holder ≠ some r.group
  owed : 2 ≤ r.rounds → ∃ q ∈ p.queue, q.group = r.group ∧ q.kind = r.kind ∧ q.rounds = r.rounds - 1

/-- The last probe of a round settled, and its round ended (R124 steps 1 and 2). -/
theorem roundOver_endRound {s : State} {k : Fin 8} {r : ProbeRequest} (i : Fin 4) (o : LaneOutcome) (queued : r ∈ s.psc.queue)
    (own : (Tab.get s.psc.slots k).state.group = some r.group)
    (last : ∀ k', k' ≠ k → (Tab.get s.psc.slots k').state.group ≠ some r.group) :
    RoundOver s r (endRound { r with outcomes := Tab.set r.outcomes i (some o) } (storeOutcome r.group i o (freeSlot k s.psc))).1 where
  kept := (EventAt.settleSlot s i o own).trans
    (.endRound { s with psc := storeOutcome r.group i o (freeSlot k s.psc) } (r := { r with outcomes := _ }) rfl)
  idle k' := by
    have slots : (endRound { r with outcomes := Tab.set r.outcomes i (some o) } (storeOutcome r.group i o (freeSlot k s.psc))).1.slots
        = (freeSlot k s.psc).slots := by
      unfold endRound
      dsimp only
      split <;> rfl
    rw [slots, freeSlot, Tab.get_upd]
    split
    · simp [SlotState.group]
    · next other => exact last k' other
  done one := by
    unfold endRound
    rw [if_pos (show r.rounds - 1 = 0 by omega)]
    refine ⟨by simp [hasRequest_dropRequest], ?_⟩
    dsimp only
    unfold releaseHolder
    split
    · simp
    · assumption
  owed more := by
    unfold endRound
    rw [if_neg (show ¬r.rounds - 1 = 0 by omega)]
    refine ⟨{ r with outcomes := Tab.set r.outcomes i (some o), inFlight := false, rounds := r.rounds - 1 }, ?_, rfl, rfl, rfl⟩
    have stored : { r with outcomes := Tab.set r.outcomes i (some o) } ∈ (storeOutcome r.group i o (freeSlot k s.psc)).queue :=
      List.mem_map.2 ⟨r, queued, if_pos rfl⟩
    exact List.mem_map.2 ⟨_, stored, if_pos rfl⟩

/-! ## The command -/

/-- A command that settles a probe settles it with its own outcome, once the frame it came in is out of interception (R120, R121). -/
theorem exec_settles {s : State} {c : Instr} {k : Fin 8} {g : Index} {i : Fin 4} {r : ProbeRequest} {o : LaneOutcome}
    (run : s.inReset = false) (found : findRequest s.psc.queue g = some r) (h : Settles s c k g i r o) :
    ∃ rx, exec c s = .next (((s.aside rx s.psc).settle k g i o).endEvent s)
      ∧ ∀ l, (∀ p j rest, c = .echoReceived p j rest → cell p j ≠ l) → Tab.get rx l = Tab.get s.fsu.lineRx l := by
  rcases h with ⟨rfl, rfl, sendTime, timeout, deadline, sent⟩ | ⟨p, j, rest, a, e, rfl, arriving, read, meets, rfl⟩
  · refine ⟨s.fsu.lineRx, ?_, fun _ _ => rfl⟩
    show execProbeDeadlineExpiry k s = _
    unfold execProbeDeadlineExpiry
    rw [unlessReset_running _ run, sent, aside_own]
  · refine ⟨Tab.set s.fsu.lineRx (cell p j) .none, ?_, fun l other => Tab.get_set_ne _ _ (other p j rest rfl).symm⟩
    have tag : k = tagSlot e.tag := by
      obtain ⟨_, _, _, tag, _⟩ := meets
      exact tag
    have items : echoItems (s.setLineRx (cell p j) .none) g (cell p j) a (a - e.sendTime).toNat e
        = { sendTime := e.sendTime, raw := (a - e.sendTime).toNat, arrival := a, far := e.responder, turnaround := e.turnaround
            view := e.view, back := cell p j, order := echoesTaken r.outcomes + 1 } := by
      unfold echoItems
      rw [psc_setLineRx, found]
      rfl
    show execEchoReceived p j rest s = _
    unfold execEchoReceived
    rw [unlessReset_running _ run, arriving]
    simp only [read, psc_setLineRx, matchEcho_some meets]
    rw [items, aside_setLineRx, tag]

/-- The slot of a probe that a command settles holds a probe of its group. -/
theorem Settles.own {s : State} {c : Instr} {k : Fin 8} {g : Index} {i : Fin 4} {r : ProbeRequest} {o : LaneOutcome}
    (h : Settles s c k g i r o) : (Tab.get s.psc.slots k).state.group = some g := by
  rcases h with ⟨_, _, _, _, _, sent⟩ | ⟨_, _, _, _, _, _, _, _, ⟨_, _, sent, _⟩, _⟩ <;> rw [sent] <;> rfl

/-- What the completion of a round of group g by command c is to the rest of the part. -/
structure RoundFrame (c : Instr) (g : Index) (s t : State) : Prop where
  others : OthersKept g s t
  blocks : BlocksKept s t
  receive : ReceiveKeptBut c s t
  notices : t.notices = groupNoticed s t s.notices g

/-- A completed round (R124, R125): its result is processed in a part whose scheduler has ended the round. -/
structure RoundCompleted (s : State) (c : Instr) (r : ProbeRequest) (rx : Tab LineRx 64) (p : Psc) (result : RoundResult) : Prop where
  runs : exec c s = .next (((s.aside rx p).roundResult result).endEvent s)
  ended : RoundOver s r p
  frame : RoundFrame c r.group s (((s.aside rx p).roundResult result).endEvent s)

theorem RoundOver.blocksKept_aside {s : State} {r : ProbeRequest} {rx : Tab LineRx 64} {p : Psc} (ended : RoundOver s r p) :
    BlocksKept s (s.aside rx p) :=
  ⟨rfl, rfl, rfl, rfl, rfl, ended.kept.blocks.now, rfl, rfl, rfl, rfl⟩

/-- Changes at context g after a round of g is over, to the end of the event (R57). -/
theorem roundFrame_endEvent {s t : State} {c : Instr} {r : ProbeRequest} {rx : Tab LineRx 64} {p : Psc} (ended : RoundOver s r p)
    (received : ∀ l, (∀ p j rest, c = .echoReceived p j rest → cell p j ≠ l) → Tab.get rx l = Tab.get s.fsu.lineRx l)
    (moves : ContextMoves r.group (s.aside rx p) t) : RoundFrame c r.group s (t.endEvent s) := by
  have start := ended.kept.others
  have others : OthersKept r.group s (s.aside rx p) :=
    ⟨start.contexts, start.paths, fun side => by cases side <;> exact fun _ => rfl, start.holds, start.probes, start.requests,
      start.notices⟩
  have blocks : BlocksKept s (s.aside rx p) := ended.blocksKept_aside
  have kept := others.trans moves.eventAt.others
  have after := moves.eventAt.trans (EventAt.ofEndEvent (before := s) kept.contexts)
  exact
    { others := others.trans after.others
      blocks := blocks.trans after.blocks
      receive := ⟨after.receive.lfr, after.receive.lockView, after.receive.ers, after.receive.late.trans ended.kept.receive.late,
        fun l other => by rw [after.receive.lineRx]; exact received l other⟩
      notices := notices_endEvent_at kept.contexts (blocks.trans moves.eventAt.blocks).now moves.notices }

/-- A command that completes a round ends the round in the scheduler and has its result processed (R120, R121, R124). -/
theorem CompletesRound.completed {s : State} {c : Instr} {g : Index} {i : Fin 4} {r : ProbeRequest} {o : LaneOutcome}
    (run : s.inReset = false) (consistent : SchedulerConsistent s) (h : CompletesRound s c g i r o) :
    ∃ rx p, RoundCompleted s c r rx p (r.resultWith i o) := by
  obtain ⟨⟨k, settles, last⟩, queued, rfl⟩ := h
  obtain ⟨rx, runs, received⟩ := exec_settles run (findRequest_of_mem consistent.oneRequest queued) settles
  have ended := roundOver_endRound i o queued settles.own last
  have consistent' : SchedulerConsistent (s.aside rx s.psc) :=
    ⟨consistent.oneRequest, consistent.holder, consistent.owned, consistent.flying, consistent.offsets, consistent.rounds⟩
  rw [settle_last consistent' i o settles.own last queued rfl, endRound_result] at runs
  have moves := ContextMoves.roundResult
    (s.aside rx (endRound { r with outcomes := Tab.set r.outcomes i (some o) } (storeOutcome r.group i o (freeSlot k s.psc))).1)
    (r.resultWith i o)
  exact ⟨rx, _, runs, ended, roundFrame_endEvent ended received moves⟩

/-! ## The round's view (R98) -/

/-- The echo of a lane is a candidate with its order and its view (R98). -/
theorem candidateView_eq_some {id : Identity} {dr : DiscoveryRecord} {n : Fin 4} {o : Option LaneOutcome} {order : Nat} {v : View} :
    candidateView id dr n o = some (order, v) ↔ ∃ e m, o = some (.echoed e) ∧ e.view = some v ∧ e.order = order
      ∧ (Tab.get dr.lanes n).merged = some m ∧ e.far = m.far ∧ ¬(e.far.chassis = id.chassis ∧ e.far.unit = id.unit) := by
  constructor
  · intro h
    unfold candidateView at h
    split at h
    · next e =>
      split at h
      · next v' m view merged =>
        split_ifs at h with accepted
        cases h
        exact ⟨e, m, rfl, view, rfl, merged, accepted.2, accepted.1⟩
      · cases h
    · cases h
  · rintro ⟨e, m, rfl, view, rfl, merged, far, foreign⟩
    unfold candidateView
    simp only [view, merged]
    exact if_pos ⟨foreign, far⟩

theorem viewCandidate_iff {id : Identity} {dr : DiscoveryRecord} {W : Nat} {outs : Tab (Option LaneOutcome) 4} {n : Fin 4} {order : Nat}
    {v : View} : ViewCandidate id dr W outs n order v ↔ n.val < W ∧ candidateView id dr n (Tab.get outs n) = some (order, v) := by
  rw [candidateView_eq_some]
  rfl

/-- Among candidates in which that of lane n is the latest by far, the later ones in turn lead to it. -/
theorem foldl_laterView {f : Fin 4 → Option (Nat × View)} {n : Fin 4} {x : Nat × View} (own : f n = some x) (is : List (Fin 4))
    (latest : ∀ i ∈ is, i ≠ n → ∀ y, f i = some y → y.1 < x.1) (acc : Option (Nat × View))
    (h : acc = some x ∨ n ∈ is ∧ ∀ y, acc = some y → y.1 < x.1) : (is.map f).foldl laterView acc = some x := by
  induction is generalizing acc with
  | nil => exact h.resolve_right fun later => nomatch later.1
  | cons i rest ih =>
    rw [List.map_cons, List.foldl_cons]
    apply ih fun j mem => latest j (.tail _ mem)
    by_cases here : i = n
    · rw [here, own]
      left
      rcases h with rfl | ⟨_, earlier⟩
      · simp [laterView]
      · cases acc with
        | none => rfl
        | some y => exact if_pos (earlier y rfl)
    · have before := latest i (.head _) here
      rcases h with rfl | ⟨mem, earlier⟩
      · left
        cases other : f i with
        | none => rfl
        | some y => exact if_neg (Nat.not_lt.2 (before y other).le)
      · refine .inr ⟨(List.mem_cons.1 mem).resolve_left fun e => here e.symm, fun y later => ?_⟩
        cases acc with
        | none => exact before y later
        | some z =>
          cases other : f i with
          | none =>
            rw [other] at later
            exact earlier y later
          | some w =>
            rw [other] at later
            unfold laterView at later
            dsimp only at later
            split_ifs at later with first
            · cases later
              exact before _ other
            · exact earlier y later

/-- The view of a round is that of the candidate whose echo was taken latest (R98). -/
theorem roundView_of_hasView {id : Identity} {dr : DiscoveryRecord} {W : Nat} {outs : Tab (Option LaneOutcome) 4} {v : View}
    (h : RoundHasView id dr W outs v) : roundView id dr W outs = some v := by
  obtain ⟨n, order, candidate, latest⟩ := h
  obtain ⟨inside, own⟩ := viewCandidate_iff.1 candidate
  have fold := foldl_laterView own ((List.finRange 4).filter fun i => decide (i.val < W))
    (fun i mem other y yes => latest i y.1 y.2 (viewCandidate_iff.2 ⟨by simpa using (List.mem_filter.1 mem).2, yes⟩) other)
    none (.inr ⟨List.mem_filter.2 ⟨List.mem_finRange n, by simpa using inside⟩, nofun⟩)
  unfold roundView
  rw [fold]
  rfl

/-- A round without candidates has no view (R98). -/
theorem roundView_of_noCandidate {id : Identity} {dr : DiscoveryRecord} {W : Nat} {outs : Tab (Option LaneOutcome) 4}
    (h : ∀ n order v, ¬ViewCandidate id dr W outs n order v) : roundView id dr W outs = none := by
  have none : ∀ is : List (Fin 4), (∀ i ∈ is, i.val < W) →
      (is.map fun i => candidateView id dr i (Tab.get outs i)).foldl laterView none = none := by
    intro is inside
    induction is with
    | nil => rfl
    | cons i rest ih =>
      have no : candidateView id dr i (Tab.get outs i) = none :=
        Option.eq_none_iff_forall_ne_some.2 fun x yes => h i x.1 x.2 (viewCandidate_iff.2 ⟨inside i (.head _), yes⟩)
      rw [List.map_cons, List.foldl_cons, no]
      exact ih fun j mem => inside j (.tail _ mem)
  unfold roundView
  rw [none _ fun i mem => by simpa using (List.mem_filter.1 mem).2]
  rfl

end Sys2Proof.Machine
end

section
/-! The verdict on a discovery record (R135, R142 to R146): what its checks answer, what it writes, and what it makes of the group. -/

namespace Sys2Proof.Machine

/-! ## Windows (R142, R143, R159, R176) -/

/-- Some lane of the entry's width is shorter than its window (R142). -/
def SomeShort (b : PlanFields) (dr : DiscoveryRecord) : Prop :=
  ∃ (n : Fin 4) (x : Nat), n.val < b.width.lanes ∧ (Tab.get dr.lanes n).length = some x ∧ x < b.lengthMin

/-- Some lane of the entry's width is longer than its window (R142). -/
def SomeLong (b : PlanFields) (dr : DiscoveryRecord) : Prop :=
  ∃ (n : Fin 4) (x : Nat), n.val < b.width.lanes ∧ (Tab.get dr.lanes n).length = some x ∧ b.lengthMax < x

theorem any_length_iff (dr : DiscoveryRecord) (W : Nat) (test : Nat → Bool) :
    ((((List.finRange 4).filter fun i => decide (i.val < W)).map fun i => (Tab.get dr.lanes i).length).any fun l => l.any test) = true
      ↔ ∃ (n : Fin 4) (x : Nat), n.val < W ∧ (Tab.get dr.lanes n).length = some x ∧ test x = true := by
  simp [Option.any_eq_true]

theorem lengthFinding_short {b : PlanFields} {dr : DiscoveryRecord} (short : SomeShort b dr) : lengthFinding b dr = some .lengthShort :=
  if_pos ((any_length_iff ..).2 (by simpa [SomeShort] using short))

theorem lengthFinding_notShort {b : PlanFields} {dr : DiscoveryRecord} (short : ¬SomeShort b dr) [Decidable (SomeLong b dr)] :
    lengthFinding b dr = if SomeLong b dr then some .lengthLong else none := by
  refine (if_neg fun any => short (by simpa [SomeShort] using (any_length_iff ..).1 any)).trans (if_congr ?_ rfl rfl)
  rw [any_length_iff]
  simp [SomeLong]

theorem skewFinding_withSkew (b : PlanFields) (dr : DiscoveryRecord) :
    skewFinding b (withSkew b.width.lanes dr) = if 16 * b.skewLimit < groupSkew dr b.width.lanes then some .skew else none := by
  simp [skewFinding, withSkew]

/-! ## What judging writes -/

/-- What the echoes have told of a record is the same in another: its last view, and of each lane all but length and compensation. -/
structure EchoesKept (a b : DiscoveryRecord) : Prop where
  lastView : b.lastView = a.lastView
  merged : ∀ n, (Tab.get b.lanes n).merged = (Tab.get a.lanes n).merged
  conflicted : ∀ n, (Tab.get b.lanes n).conflicted = (Tab.get a.lanes n).conflicted
  missRun : ∀ n, (Tab.get b.lanes n).missRun = (Tab.get a.lanes n).missRun
  estimate : ∀ n, (Tab.get b.lanes n).estimate = (Tab.get a.lanes n).estimate

theorem EchoesKept.refl (dr : DiscoveryRecord) : EchoesKept dr dr := ⟨rfl, fun _ => rfl, fun _ => rfl, fun _ => rfl, fun _ => rfl⟩

theorem EchoesKept.trans {a b c : DiscoveryRecord} (x : EchoesKept a b) (y : EchoesKept b c) : EchoesKept a c :=
  ⟨y.lastView.trans x.lastView, fun n => (y.merged n).trans (x.merged n), fun n => (y.conflicted n).trans (x.conflicted n),
    fun n => (y.missRun n).trans (x.missRun n), fun n => (y.estimate n).trans (x.estimate n)⟩

theorem get_mapLanes (dr : DiscoveryRecord) (W : Nat) (f : Fin 4 → LaneRecord → LaneRecord) (n : Fin 4) :
    Tab.get (dr.mapLanes W f).lanes n = if n.val < W then f n (Tab.get dr.lanes n) else Tab.get dr.lanes n :=
  Tab.get_build _ _

theorem echoesKept_withLengths (D W : Nat) (dr : DiscoveryRecord) : EchoesKept dr (withLengths D W dr) := by
  constructor
  · rfl
  all_goals
    intro n
    rw [withLengths, get_mapLanes]
    split <;> rfl

theorem echoesKept_withSkew (W : Nat) (dr : DiscoveryRecord) : EchoesKept dr (withSkew W dr) :=
  ⟨rfl, fun _ => rfl, fun _ => rfl, fun _ => rfl, fun _ => rfl⟩

theorem echoesKept_withComps (W : Nat) (dr : DiscoveryRecord) : EchoesKept dr (withComps W dr) := by
  constructor
  · rfl
  all_goals
    intro n
    rw [withComps, get_mapLanes]
    split <;> rfl

/-- The skew is that of the estimates (R159). -/
theorem EchoesKept.groupSkew {a b : DiscoveryRecord} (h : EchoesKept a b) (W : Nat) :
    Machine.groupSkew b W = Machine.groupSkew a W := by
  unfold Machine.groupSkew estimates
  simp only [h.estimate]

/-! ## The fourteen checks in their order -/

section

variable {b : PlanFields} {D : Nat} {inv : InventoryRecord} {id : Identity} {g : Index} {dr : DiscoveryRecord} {m : LaneMap}

theorem judgeRecord_error {reason : Reason} (fails : checks b dr inv id g = .error reason) :
    judgeRecord b D inv id g dr = (dr, .quarantined reason) := by
  unfold judgeRecord
  rw [fails]

theorem judgeRecord_short (passes : checks b dr inv id g = .ok m) (short : SomeShort b (withLengths D b.width.lanes dr)) :
    (judgeRecord b D inv id g dr).2 = .quarantined .lengthShort := by
  have finding : lengthFinding b (withLengths D b.width.lanes { dr with laneMap := some m }) = some .lengthShort :=
    lengthFinding_short short
  unfold judgeRecord
  simp only [passes, finding]

theorem judgeRecord_long (passes : checks b dr inv id g = .ok m) (short : ¬SomeShort b (withLengths D b.width.lanes dr))
    (long : SomeLong b (withLengths D b.width.lanes dr)) : (judgeRecord b D inv id g dr).2 = .quarantined .lengthLong := by
  classical
  have finding : lengthFinding b (withLengths D b.width.lanes { dr with laneMap := some m }) = some .lengthLong :=
    (lengthFinding_notShort short).trans (if_pos long)
  unfold judgeRecord
  simp only [passes, finding]

theorem judgeRecord_inWindow (passes : checks b dr inv id g = .ok m) (short : ¬SomeShort b (withLengths D b.width.lanes dr))
    (long : ¬SomeLong b (withLengths D b.width.lanes dr)) : (judgeRecord b D inv id g dr).2 =
      if 16 * b.skewLimit < groupSkew dr b.width.lanes then .quarantined .skew else viewCheck dr.lastView := by
  classical
  have finding : lengthFinding b (withLengths D b.width.lanes { dr with laneMap := some m }) = none :=
    (lengthFinding_notShort short).trans (if_neg long)
  have skew : groupSkew (withLengths D b.width.lanes { dr with laneMap := some m }) b.width.lanes = groupSkew dr b.width.lanes :=
    (echoesKept_withLengths ..).groupSkew _
  unfold judgeRecord
  by_cases skewed : 16 * b.skewLimit < groupSkew dr b.width.lanes
  · simp only [passes, finding, skewFinding_withSkew, skew, if_pos skewed]
  · simp only [passes, finding, skewFinding_withSkew, skew, if_neg skewed]
    rfl

end

/-- Judging leaves what the echoes have told, and writes the map that passes where the group is not quarantined. -/
theorem judgeRecord_record (b : PlanFields) (D : Nat) (inv : InventoryRecord) (id : Identity) (g : Index) (dr : DiscoveryRecord) :
    EchoesKept dr (judgeRecord b D inv id g dr).1
      ∧ ∀ m, checks b dr inv id g = .ok m → (judgeRecord b D inv id g dr).1.laneMap = some m := by
  unfold judgeRecord
  split
  · next reason fails => exact ⟨.refl dr, fun m passes => nomatch fails.symm.trans passes⟩
  · next m passes =>
    have same : ∀ m', checks b dr inv id g = .ok m' → m = m' := fun m' yes => Except.ok.inj (passes.symm.trans yes)
    have mapped : EchoesKept dr { dr with laneMap := some m } := ⟨rfl, fun _ => rfl, fun _ => rfl, fun _ => rfl, fun _ => rfl⟩
    have measured := mapped.trans (echoesKept_withLengths D b.width.lanes _)
    dsimp only
    split
    · exact ⟨measured, fun m' yes => congrArg some (same m' yes)⟩
    · split
      · exact ⟨measured.trans (echoesKept_withSkew ..), fun m' yes => congrArg some (same m' yes)⟩
      · exact ⟨(measured.trans (echoesKept_withSkew ..)).trans (echoesKept_withComps ..), fun m' yes => congrArg some (same m' yes)⟩

/-! ## The outcome of a verdict (R64, R145, R146) -/

/-- The state an outcome takes its group to. -/
def Outcome.state : Outcome → GroupState
  | .quarantined _ => .quarantined
  | .agreeing => .agreeing
  | .verified => .verified
  | .heldRemote => .held

/-- The reason an outcome gives. -/
def Outcome.reason : Outcome → Reason
  | .quarantined r => r
  | .agreeing | .verified => .none
  | .heldRemote => .holdRemote

/-- The hold origin an outcome gives. -/
def Outcome.origin : Outcome → Option HoldOrigin
  | .heldRemote => some .remoteHold
  | .quarantined _ | .agreeing | .verified => none

/-- The part before the change of state of an outcome: a group that is not quarantined has its map and compensations loaded (R146). -/
def Outcome.load (o : Outcome) (s : State) (g : Index) : State :=
  match o with
  | .quarantined _ => s
  | .agreeing | .verified | .heldRemote => s.loadFsu g

theorem takeOutcome_eq (s : State) (g : Index) (o : Outcome) :
    s.takeOutcome g o = (o.load s g).enter g o.state o.reason o.origin := by cases o <;> rfl

theorem ctx_load (o : Outcome) (s : State) (g h : Index) : (o.load s g).ctx h = s.ctx h := by cases o <;> rfl

theorem psc_load (o : Outcome) (s : State) (g : Index) : (o.load s g).psc = s.psc := by cases o <;> rfl

/-- No outcome clears the record. -/
theorem entryRecord_outcome (s : State) (g : Index) (c : Context) (o : Outcome) : entryRecord s g c o.state = c.record := by
  cases o <;> rfl

theorem inState_takeOutcome (s : State) (g : Index) (o : Outcome) : InState (s.takeOutcome g o) g o.state o.reason o.origin := by
  rw [takeOutcome_eq]
  exact inState_enter ..

theorem ctx_takeOutcome (s : State) (g : Index) (o : Outcome) : ((s.takeOutcome g o).ctx g).record = (s.ctx g).record
    ∧ ((s.takeOutcome g o).ctx g).bound = (s.ctx g).bound ∧ ((s.takeOutcome g o).ctx g).stale = (s.ctx g).stale := by
  rw [takeOutcome_eq, ctx_enter_same, ctx_load]
  exact ⟨entryRecord_outcome .., rfl, rfl⟩

/-- A change of state to another than DISCOVERING brings no probe work (R56, R63). -/
theorem NoProbeWork.enter {s : State} {g : Index} (idle : NoProbeWork s g) {st : GroupState} (r : Reason) (o : Option HoldOrigin)
    (other : st ≠ .discovering) : NoProbeWork (s.enter g st r o) g := by
  cases keeps : keepsRound st with
  | false => exact noProbeWork_enter s g r o keeps other
  | true =>
    have same : (s.enter g st r o).psc = s.psc := by
      rw [psc_enter]
      simp [enterPsc, keeps, other]
    exact ⟨by rw [same]; exact idle.slots, by rw [same]; exact idle.queue, by rw [same]; exact idle.holder⟩

theorem NoProbeWork.takeOutcome {s : State} {g : Index} (idle : NoProbeWork s g) (o : Outcome) : NoProbeWork (s.takeOutcome g o) g := by
  have loaded : NoProbeWork (o.load s g) g :=
    ⟨by rw [psc_load]; exact idle.slots, by rw [psc_load]; exact idle.queue, by rw [psc_load]; exact idle.holder⟩
  rw [takeOutcome_eq]
  exact loaded.enter _ _ (by cases o <;> nofun)

theorem profile_takeOutcome (s : State) (g : Index) (o : Outcome) :
    ((s.takeOutcome g o).path g).profile = ((s.ctx g).bound.map PlanFields.profile).getD (s.path g).profile := by
  have same : ((o.load s g).path g).profile = (s.path g).profile := by
    cases o with
    | quarantined => rfl
    | agreeing | verified | heldRemote =>
      unfold Outcome.load State.loadFsu
      rw [path_modPath_same]
  rw [takeOutcome_eq, profile_enter, ctx_load, same]

/-- A group that is quarantined keeps its map and compensations in the FSU. -/
theorem kept_quarantine (s : State) (g : Index) (r : Reason) :
    ((s.quarantine g r).path g).map = (s.path g).map ∧ ((s.quarantine g r).path g).comps = (s.path g).comps :=
  ⟨map_enter .., comps_enter ..⟩

/-- A group that is not quarantined has the map and compensations of its record loaded (R146). -/
theorem loaded_takeOutcome {s : State} {g : Index} {o : Outcome} (passes : ∀ r, o ≠ .quarantined r) :
    ((s.takeOutcome g o).path g).map = (s.ctx g).record.laneMap.getD .straight
      ∧ ∀ i, Tab.get ((s.takeOutcome g o).path g).comps i = ((Tab.get (s.ctx g).record.lanes i).comp).getD 0 := by
  rw [takeOutcome_eq, map_enter, comps_enter]
  cases o with
  | quarantined r => exact absurd rfl (passes r)
  | agreeing | verified | heldRemote =>
    unfold Outcome.load State.loadFsu
    rw [path_modPath_same]
    exact ⟨rfl, fun i => Tab.get_build _ _⟩

/-! ## The verdict (R135) -/

/-- What the fourteen checks answer of a group's record (R135). -/
def State.judgement (s : State) (g : Index) : DiscoveryRecord × Outcome :=
  judgeRecord (s.entry g).fields (portD s g) (s.record g) s.mga.identity g (s.ctx g).record

/-- The part with the binding refreshed and the record judged (R135). -/
def State.judged (s : State) (g : Index) : State := (s.refresh g).modCtx g fun c => { c with record := (s.judgement g).1 }

theorem ctx_refresh (s : State) (g : Index) :
    (s.refresh g).ctx g = { s.ctx g with bound := some (s.entry g).fields, stale := false } := ctx_modCtx_same ..

theorem ctx_judged (s : State) (g : Index) : (s.judged g).ctx g =
    { s.ctx g with bound := some (s.entry g).fields, stale := false, record := (s.judgement g).1 } := by
  unfold State.judged
  rw [ctx_modCtx_same, ctx_refresh]

theorem verdict_eq (s : State) (g : Index) : s.verdict g = (s.judged g).takeOutcome g (s.judgement g).2 := by
  unfold State.verdict State.judged State.judgement
  dsimp only
  rw [ctx_refresh]
  rfl

theorem inState_verdict (s : State) (g : Index) :
    InState (s.verdict g) g (s.judgement g).2.state (s.judgement g).2.reason (s.judgement g).2.origin := by
  rw [verdict_eq]
  exact inState_takeOutcome ..

theorem record_verdict (s : State) (g : Index) : ((s.verdict g).ctx g).record = (s.judgement g).1 := by
  rw [verdict_eq, (ctx_takeOutcome ..).1, ctx_judged]

theorem map_verdict {s : State} {g : Index} (passes : ∀ r, (s.judgement g).2 ≠ .quarantined r) :
    ((s.verdict g).ctx g).record.laneMap = some ((s.verdict g).path g).map
      ∧ ∀ i, Tab.get ((s.verdict g).path g).comps i = ((Tab.get ((s.verdict g).ctx g).record.lanes i).comp).getD 0 := by
  obtain ⟨m, map⟩ : ∃ m, (s.judgement g).1.laneMap = some m := judgeRecord_laneMap _ _ _ _ _ _ passes
  obtain ⟨toMap, toComps⟩ := loaded_takeOutcome (s := s.judged g) (g := g) passes
  rw [ctx_judged] at toMap toComps
  rw [record_verdict, verdict_eq, toMap, map]
  exact ⟨rfl, toComps⟩

/-- A verdict of a group whose round is over (R64, R135, R145, R146). -/
theorem verdictMade_verdict {s : State} {g : Index} (idle : NoProbeWork s g) : VerdictMade s (s.verdict g) g := by
  obtain ⟨_, bound, stale⟩ := ctx_takeOutcome (s.judged g) g (s.judgement g).2
  have profile := profile_takeOutcome (s.judged g) g (s.judgement g).2
  have entered := inState_verdict s g
  have idle' : NoProbeWork (s.judged g) g := ⟨idle.slots, idle.queue, idle.holder⟩
  rw [ctx_judged, ← verdict_eq] at bound stale profile
  refine ⟨verdict_eq s g ▸ idle'.takeOutcome _, bound, stale, ?_, profile⟩
  cases outcome : (s.judgement g).2 with
  | quarantined r =>
    have kept := kept_quarantine (s.judged g) g r
    rw [outcome] at entered
    rw [verdict_eq, outcome] at entered ⊢
    exact .inl ⟨⟨r, entered⟩, kept⟩
  | agreeing =>
    rw [outcome] at entered
    exact .inr ⟨.inl entered, map_verdict (by rw [outcome]; exact nofun)⟩
  | verified =>
    rw [outcome] at entered
    exact .inr ⟨.inr (.inl entered), map_verdict (by rw [outcome]; exact nofun)⟩
  | heldRemote =>
    rw [outcome] at entered
    exact .inr ⟨.inr (.inr entered), map_verdict (by rw [outcome]; exact nofun)⟩

/-- A verdict looks at no frame in interception and at nothing of the scheduler. -/
theorem verdict_aside (s : State) (rx : Tab LineRx 64) (p : Psc) (g : Index) :
    ∃ p', (s.aside rx p).verdict g = (s.verdict g).aside rx p' := by
  have judged : (s.aside rx p).judged g = (s.judged g).aside rx p := rfl
  have same : (s.aside rx p).judgement g = s.judgement g := rfl
  rw [verdict_eq, verdict_eq, judged, same, takeOutcome_eq, takeOutcome_eq]
  have load : ∀ o : Outcome, o.load ((s.judged g).aside rx p) g = (o.load (s.judged g) g).aside rx p := by
    intro o
    cases o <;> rfl
  rw [load, enter_aside]
  exact ⟨_, rfl⟩

/-! ## The verdict at the end of its event -/

/-- The outcome of a verdict by the checks, the windows and the last view (R135, R142 to R146). -/
structure VerdictByChecks (s t : State) (g : Index) : Prop where
  fails : ∀ reason, checks (s.entry g).fields (s.ctx g).record (s.record g) s.mga.identity g = .error reason →
    InState t g .quarantined reason none
  passes : ∀ m, checks (s.entry g).fields (s.ctx g).record (s.record g) s.mga.identity g = .ok m →
    let b := (s.entry g).fields
    let measured := withLengths (portD s g) b.width.lanes (s.ctx g).record
    let view := (s.ctx g).record.lastView
    (SomeShort b measured → InState t g .quarantined .lengthShort none)
    ∧ (¬SomeShort b measured → SomeLong b measured → InState t g .quarantined .lengthLong none)
    ∧ (¬SomeShort b measured → ¬SomeLong b measured → 16 * b.skewLimit < groupSkew (s.ctx g).record b.width.lanes →
      InState t g .quarantined .skew none)
    ∧ (¬SomeShort b measured → ¬SomeLong b measured → ¬16 * b.skewLimit < groupSkew (s.ctx g).record b.width.lanes →
      (view = some .fail ∨ view = some .unplanned → InState t g .quarantined .peerRejects none)
      ∧ (view = some .held → InState t g .held .holdRemote (some .remoteHold))
      ∧ (view = some .pass → InState t g .verified .none none)
      ∧ (view = some .pending ∨ view = none → InState t g .agreeing .none none)
      ∧ (view ≠ some .fail → view ≠ some .unplanned → (t.path g).map = m))

theorem verdictByChecks_verdict (s : State) (g : Index) : VerdictByChecks s (s.verdict g) g := by
  have entered : ∀ o, (s.judgement g).2 = o → InState (s.verdict g) g o.state o.reason o.origin :=
    fun o outcome => outcome ▸ inState_verdict s g
  refine ⟨fun reason fails => entered _ (congrArg Prod.snd (judgeRecord_error fails)), fun m passes => ?_⟩
  refine ⟨fun short => entered _ (judgeRecord_short passes short), fun short long => entered _ (judgeRecord_long passes short long),
    fun short long skewed => entered _ ((judgeRecord_inWindow passes short long).trans (if_pos skewed)),
    fun short long level => ?_⟩
  have outcome : (s.judgement g).2 = viewCheck (s.ctx g).record.lastView :=
    (judgeRecord_inWindow passes short long).trans (if_neg level)
  have viewed : ∀ v, (s.ctx g).record.lastView = v →
      InState (s.verdict g) g (viewCheck v).state (viewCheck v).reason (viewCheck v).origin :=
    fun v view => entered _ (view ▸ outcome)
  refine ⟨fun view => view.elim (viewed _) (viewed _), viewed _, viewed _, fun view => view.elim (viewed _) (viewed _),
    fun notFail notUnplanned => ?_⟩
  have accepted : ∀ r, (s.judgement g).2 ≠ .quarantined r := by
    intro r
    rw [outcome]
    cases view : (s.ctx g).record.lastView with
    | none => exact nofun
    | some v =>
      cases v with
      | fail => exact absurd view notFail
      | unplanned => exact absurd view notUnplanned
      | pending | pass | held => exact nofun
  have map := (map_verdict accepted).1
  rw [record_verdict, show (s.judgement g).1.laneMap = some m from (judgeRecord_record ..).2 m passes] at map
  exact (Option.some.inj map).symm

theorem VerdictByChecks.endEvent {s t u : State} {g : Index} (h : VerdictByChecks s t g) (granted : Granted t u) :
    VerdictByChecks s u g := by
  refine ⟨fun reason fails => granted.inState (h.fails reason fails), fun m passes => ?_⟩
  obtain ⟨short, long, skewed, level⟩ := h.passes m passes
  refine ⟨fun a => granted.inState (short a), fun a b => granted.inState (long a b), fun a b c => granted.inState (skewed a b c),
    fun a b c => ?_⟩
  obtain ⟨rejects, held, pass, waits, map⟩ := level a b c
  exact ⟨fun v => granted.inState (rejects v), fun v => granted.inState (held v), fun v => granted.inState (pass v),
    fun v => granted.inState (waits v), fun f n => (congrArg GroupPath.map (granted.path g)).trans (map f n)⟩

theorem VerdictMade.endEvent {s t u : State} {g : Index} (h : VerdictMade s t g) (granted : Granted t u) : VerdictMade s u g where
  probes := granted.noProbeWork h.probes
  bound := by rw [granted.ctx]; exact h.bound
  stale := by rw [granted.ctx]; exact h.stale
  outcome := by
    rw [granted.ctx, granted.path]
    rcases h.outcome with ⟨⟨r, quarantined⟩, kept⟩ | ⟨entered, loaded⟩
    · exact .inl ⟨⟨r, granted.inState quarantined⟩, kept⟩
    · exact .inr ⟨entered.imp granted.inState (Or.imp granted.inState granted.inState), loaded⟩
  profile := by rw [granted.path]; exact h.profile

/-- The verdict of group g of s as it stands in t, at the end of its event. -/
structure VerdictTaken (s t : State) (g : Index) : Prop where
  ctx : t.ctx g = (s.verdict g).ctx g
  path : t.path g = (s.verdict g).path g
  checked : VerdictByChecks s t g
  made : VerdictMade s t g
  echoes : EchoesKept (s.ctx g).record (t.ctx g).record

/-- A verdict is the same with the scheduler and the frames in interception set aside, once no probe work is left of its group. -/
theorem verdictTaken_aside {s : State} {g : Index} {rx : Tab LineRx 64} {p : Psc} (idle : NoProbeWork (s.aside rx p) g)
    (before : State) : VerdictTaken s (((s.aside rx p).verdict g).endEvent before) g := by
  have granted := Granted.endEvent ((s.aside rx p).verdict g) before
  obtain ⟨p', apart⟩ := verdict_aside s rx p g
  have checked := (verdictByChecks_verdict (s.aside rx p) g).endEvent granted
  have made := (verdictMade_verdict idle).endEvent granted
  refine ⟨?_, ?_, ⟨checked.fails, checked.passes⟩, ⟨made.probes, made.bound, made.stale, made.outcome, made.profile⟩, ?_⟩
  · rw [granted.ctx, apart, ctx_aside]
  · rw [granted.path, apart, path_aside]
  · rw [granted.ctx, record_verdict]
    exact (judgeRecord_record ..).1

end Sys2Proof.Machine
end

section
/-! Burst rounds: their merging into the discovery record, and the verdict that the last one brings (R131 to R135). -/

namespace Sys2Proof.Machine

/-! ## Merging (R131 to R134) -/

/-- The lanes of a burst round merged one by one (R131 to R133). -/
def LanesMerged (t : Settings) (W : Nat) (outs : Tab (Option LaneOutcome) 4) (before after : Tab LaneRecord 4) : Prop :=
  ∀ n : Fin 4,
    (W ≤ n.val ∨ Tab.get outs n = none → Tab.get after n = Tab.get before n)
    ∧ (n.val < W → Tab.get outs n = some .missed →
      Tab.get after n = { Tab.get before n with missRun := min ((Tab.get before n).missRun + 1) 3 })
    ∧ ∀ e, n.val < W → Tab.get outs n = some (.echoed e) →
      ((Tab.get before n).merged = none →
        Tab.get after n = ({ Tab.get before n with merged := some e.merged, missRun := 0 }).takeSample t e)
      ∧ ((Tab.get before n).merged = some e.merged →
        Tab.get after n = ({ Tab.get before n with missRun := 0 }).takeSample t e)
      ∧ (∀ m, (Tab.get before n).merged = some m → m ≠ e.merged →
        Tab.get after n = { Tab.get before n with conflicted := true, missRun := 0 })

theorem lanesMerged_mergeRound (t : Settings) (W : Nat) (outs : Tab (Option LaneOutcome) 4) (dr : DiscoveryRecord) :
    LanesMerged t W outs dr.lanes (mergeRound t W outs dr).lanes := by
  intro n
  unfold mergeRound
  rw [get_mapLanes]
  refine ⟨fun apart => ?_, fun inside missed => ?_, fun e inside echoed => ?_⟩
  · split
    · next inside =>
      rw [apart.resolve_left (Nat.not_le.2 inside)]
      rfl
    · rfl
  · rw [if_pos inside, missed]
    rfl
  · rw [if_pos inside, echoed]
    unfold mergeLane
    refine ⟨fun fresh => ?_, fun same => ?_, fun m old differs => ?_⟩
    · rw [fresh]
    · simp only [same, if_true]
    · simp only [old, differs, if_false]

/-- The record after a burst round: its lanes merged, and its view, if it has one, recorded (R98, R101, R134). -/
def burstRecord (s : State) (g : Index) (outs : Tab (Option LaneOutcome) 4) : DiscoveryRecord :=
  let merged := mergeRound s.mga.settings (boundWidth s g) outs (s.ctx g).record
  { merged with lastView := (roundView s.mga.identity merged (boundWidth s g) outs).or merged.lastView }

theorem modCtx_modCtx (s : State) (g : Index) (f f' : Context → Context) :
    (s.modCtx g f).modCtx g f' = s.modCtx g fun c => f' (f c) := by
  have contexts : Tab.upd (Tab.upd s.buc.contexts g f) g f' = Tab.upd s.buc.contexts g fun c => f' (f c) := by
    refine Tab.ext fun h => ?_
    simp only [Tab.get_upd]
    split <;> simp
  unfold State.modCtx
  simp only [contexts]

theorem modCtx_congr {s : State} {g : Index} {f f' : Context → Context} (same : f (s.ctx g) = f' (s.ctx g)) :
    s.modCtx g f = s.modCtx g f' := by
  unfold State.ctx at same
  unfold State.modCtx Tab.upd
  rw [same]

theorem modCtx_self {s : State} {g : Index} {f : Context → Context} (same : f (s.ctx g) = s.ctx g) : s.modCtx g f = s := by
  rw [modCtx_congr (f' := fun c => c) same]
  unfold State.modCtx
  rw [Tab.upd_id]

/-- In DISCOVERING a view is recorded and nothing else (R101). -/
theorem applyView_discovering {s : State} {g : Index} (st : (s.ctx g).state = .discovering) (v : View) :
    s.applyView g v = s.modCtx g fun c => { c with record := { c.record with lastView := some v } } := by
  unfold State.applyView
  rw [st]

/-- The part with another record of a group. -/
def State.withRecord (s : State) (g : Index) (dr : DiscoveryRecord) : State := s.modCtx g fun c => { c with record := dr }

@[simp] theorem ctx_withRecord (s : State) (g : Index) (dr : DiscoveryRecord) :
    (s.withRecord g dr).ctx g = { s.ctx g with record := dr } := ctx_modCtx_same ..

/-- A burst round at a DISCOVERING context writes its record, and the last one makes the verdict of it (R134). -/
theorem burstRound_eq {s : State} {r : RoundResult} (st : (s.ctx r.group).state = .discovering) :
    s.burstRound r = if r.rounds = 0 then (s.withRecord r.group (burstRecord s r.group r.outcomes)).verdict r.group
      else s.withRecord r.group (burstRecord s r.group r.outcomes) := by
  unfold State.burstRound State.withRecord
  dsimp only
  generalize hm : s.modCtx r.group (fun c =>
    { c with record := mergeRound s.mga.settings (boundWidth s r.group) r.outcomes c.record }) = m
  have ctx : m.ctx r.group
      = { s.ctx r.group with record := mergeRound s.mga.settings (boundWidth s r.group) r.outcomes (s.ctx r.group).record } := by
    rw [← hm, ctx_modCtx_same]
  have settings : m.mga = s.mga := by rw [← hm, mga_modCtx]
  rw [settings, ctx]
  dsimp only
  cases view : roundView s.mga.identity (mergeRound s.mga.settings (boundWidth s r.group) r.outcomes (s.ctx r.group).record)
    (boundWidth s r.group) r.outcomes with
  | none =>
    have recorded : m = s.modCtx r.group fun c => { c with record := burstRecord s r.group r.outcomes } := by
      rw [← hm]
      exact modCtx_congr (by simp only [burstRecord, view, Option.none_or])
    dsimp only
    rw [recorded]
  | some v =>
    have recorded : m.applyView r.group v = s.modCtx r.group fun c => { c with record := burstRecord s r.group r.outcomes } := by
      rw [applyView_discovering (by rw [ctx]; exact st), ← hm, modCtx_modCtx]
      exact modCtx_congr (by simp only [burstRecord, view, Option.some_or])
    dsimp only
    rw [recorded]

/-- The view a burst round leaves recorded: the round's, else the one recorded before (R98, R101). -/
theorem lastView_burstRecord (s : State) (g : Index) (outs : Tab (Option LaneOutcome) 4) :
    let dr : DiscoveryRecord :=
      { (s.ctx g).record with lanes := (mergeRound s.mga.settings (boundWidth s g) outs (s.ctx g).record).lanes }
    (∀ v, RoundHasView s.mga.identity dr (boundWidth s g) outs v → (burstRecord s g outs).lastView = some v)
      ∧ ((∀ n order v, ¬ViewCandidate s.mga.identity dr (boundWidth s g) outs n order v) →
        (burstRecord s g outs).lastView = dr.lastView) := by
  refine ⟨fun v has => ?_, fun none => ?_⟩
  · have view : roundView s.mga.identity (mergeRound s.mga.settings (boundWidth s g) outs (s.ctx g).record) (boundWidth s g) outs
        = some v := roundView_of_hasView has
    simp only [burstRecord, view, Option.some_or]
  · have view : roundView s.mga.identity (mergeRound s.mga.settings (boundWidth s g) outs (s.ctx g).record) (boundWidth s g) outs
        = .none := roundView_of_noCandidate none
    simp only [burstRecord, view, Option.none_or]
    rfl

/-! ## The round's result -/

/-- A burst round with rounds still owed writes its record and nothing else (R124, R134). -/
theorem roundResult_burst_owed {s : State} {r : RoundResult} (burst : r.kind = .burst) (st : (s.ctx r.group).state = .discovering)
    (owed : r.rounds ≠ 0) : s.roundResult r = s.withRecord r.group (burstRecord s r.group r.outcomes) := by
  rw [State.roundResult, burst]
  exact (if_pos st).trans ((burstRound_eq st).trans (if_neg owed))

/-- The last round of a burst writes its record and brings the verdict (R124, R134). -/
theorem roundResult_burst_last {s : State} {r : RoundResult} (burst : r.kind = .burst) (st : (s.ctx r.group).state = .discovering)
    (last : r.rounds = 0) :
    s.roundResult r = (s.withRecord r.group (burstRecord s r.group r.outcomes)).verdict r.group := by
  rw [State.roundResult, burst]
  exact (if_pos st).trans ((burstRound_eq st).trans (if_pos last))

/-- Settles O23: the round is over and merged; with rounds owed that is all, and the last one brings the verdict on the merged record. -/
theorem burstRoundsMergeAndBringTheVerdict : Obligations.BurstRoundsMergeAndBringTheVerdict := by
  unfold Obligations.BurstRoundsMergeAndBringTheVerdict
  intro s c g i r o run consistent completes burst st
  obtain rfl := completes.group
  obtain ⟨rx, p, runs, ended, frame⟩ := completes.completed run consistent
  obtain ⟨ofRound, ofNone⟩ := lastView_burstRecord s r.group (Tab.set r.outcomes i (some o))
  refine ⟨_, (burstRecord s r.group (Tab.set r.outcomes i (some o))).lanes, _, runs,
    lanesMerged_mergeRound s.mga.settings (boundWidth s r.group) (Tab.set r.outcomes i (some o)) (s.ctx r.group).record,
    ⟨ofRound, ofNone, fun more => ?_, fun one => ?_⟩, frame.others, frame.blocks, frame.receive⟩
  · obtain ⟨q, queued, own, kind, left⟩ := ended.owed more
    have notices := frame.notices
    rw [roundResult_burst_owed burst st (show r.rounds - 1 ≠ 0 by omega)] at notices ⊢
    have granted := Granted.endEvent
      ((s.aside rx p).withRecord r.group (burstRecord s r.group (Tab.set r.outcomes i (some o)))) s
    have ctx := (granted.ctx r.group).trans (ctx_withRecord ..)
    obtain ⟨q', queued', own', kind', left'⟩ := mem_of_terms granted.psc.terms queued
    refine ⟨ctx, granted.path _, notices.trans (if_pos ?_), q', queued', own'.trans own, (kind'.trans kind).trans burst,
      left'.trans left⟩
    exact ⟨(congrArg Context.state ctx :), (congrArg Context.reason ctx :), (congrArg Context.origin ctx :)⟩
  · have notices := frame.notices
    rw [roundResult_burst_last burst st (show r.rounds - 1 = 0 by omega)] at notices ⊢
    have idle : NoProbeWork (s.aside rx p) r.group := ⟨ended.idle, (ended.done one).1, (ended.done one).2⟩
    have taken := verdictTaken_aside (s := s.withRecord r.group (burstRecord s r.group (Tab.set r.outcomes i (some o))))
      (rx := rx) (p := p) ⟨idle.slots, idle.queue, idle.holder⟩ s
    obtain ⟨ctx, path, ⟨fails, passes⟩, made, echoes⟩ := taken
    rw [ctx_withRecord] at fails passes echoes
    exact ⟨ctx, path, fails, passes, ⟨made.probes, made.bound, made.stale, made.outcome, made.profile⟩, notices,
      echoes.lastView, fun n => ⟨echoes.merged n, echoes.conflicted n, echoes.missRun n, echoes.estimate n⟩⟩

end Sys2Proof.Machine
end

section
/-! Recheck rounds (R173 to R178): lanes compared, rediscovery, the stale binding, windows and hysteresis, and the round's view last. -/

namespace Sys2Proof.Machine

/-! ## Lanes compared (R174) -/

/-- Some echo of the round differs from the record in far identity or return lane (R174). -/
def EchoDiffers (W : Nat) (outs : Tab (Option LaneOutcome) 4) (lanes : Tab LaneRecord 4) : Prop :=
  ∃ n e, n.val < W ∧ Tab.get outs n = some (.echoed e) ∧ (Tab.get lanes n).merged ≠ some e.merged

/-- Some lane's miss run comes to 3, or stands there (R174). -/
def ThirdMiss (W : Nat) (outs : Tab (Option LaneOutcome) 4) (lanes : Tab LaneRecord 4) : Prop :=
  ∃ n : Fin 4, n.val < W
    ∧ (Tab.get outs n = some .missed ∧ 2 ≤ (Tab.get lanes n).missRun ∨ Tab.get outs n = none ∧ 3 ≤ (Tab.get lanes n).missRun)

/-- The lanes of a recheck round that brings no rediscovery (R174). -/
def LanesCompared (t : Settings) (W : Nat) (outs : Tab (Option LaneOutcome) 4) (before after : Tab LaneRecord 4) : Prop :=
  ∀ n : Fin 4,
    (W ≤ n.val ∨ Tab.get outs n = none → Tab.get after n = Tab.get before n)
    ∧ (n.val < W → Tab.get outs n = some .missed →
      Tab.get after n = { Tab.get before n with missRun := (Tab.get before n).missRun + 1 })
    ∧ ∀ e, n.val < W → Tab.get outs n = some (.echoed e) →
      Tab.get after n = ({ Tab.get before n with missRun := 0 }).takeSample t e

/-- The record after step 2 of a recheck round (R174). -/
def recheckRecord (s : State) (g : Index) (outs : Tab (Option LaneOutcome) 4) : DiscoveryRecord :=
  (s.ctx g).record.mapLanes (boundWidth s g) fun i x => recheckLane s.mga.settings (Tab.get outs i) x

/-- What of one lane sends its group to DISCOVERING (R174). -/
theorem rediscovers_lane (t : Settings) (o : Option LaneOutcome) (x : LaneRecord) :
    laneDiffers o x = true ∨ 3 ≤ (recheckLane t o x).missRun
      ↔ (∃ e, o = some (.echoed e) ∧ x.merged ≠ some e.merged)
        ∨ (o = some .missed ∧ 2 ≤ x.missRun ∨ o = none ∧ 3 ≤ x.missRun) := by
  cases o with
  | none => simp [laneDiffers, recheckLane]
  | some outcome =>
    cases outcome with
    | missed =>
      simp [laneDiffers, recheckLane, Config.missLimit]
    | echoed e =>
      by_cases same : x.merged = some e.merged
      · simp [laneDiffers, recheckLane, same, LaneRecord.takeSample]
      · simp [laneDiffers, same]

theorem mustRediscover_iff (s : State) (g : Index) (outs : Tab (Option LaneOutcome) 4) :
    mustRediscover (boundWidth s g) outs (s.ctx g).record (recheckRecord s g outs) = true
      ↔ EchoDiffers (boundWidth s g) outs (s.ctx g).record.lanes ∨ ThirdMiss (boundWidth s g) outs (s.ctx g).record.lanes := by
  have lane : ∀ n : Fin 4, n.val < boundWidth s g → ((laneDiffers (Tab.get outs n) (Tab.get (s.ctx g).record.lanes n)
        || decide (Config.missLimit ≤ (Tab.get (recheckRecord s g outs).lanes n).missRun)) = true
      ↔ (∃ e, Tab.get outs n = some (.echoed e) ∧ (Tab.get (s.ctx g).record.lanes n).merged ≠ some e.merged)
        ∨ (Tab.get outs n = some .missed ∧ 2 ≤ (Tab.get (s.ctx g).record.lanes n).missRun
          ∨ Tab.get outs n = none ∧ 3 ≤ (Tab.get (s.ctx g).record.lanes n).missRun)) := by
    intro n inside
    rw [recheckRecord, get_mapLanes, if_pos inside, Bool.or_eq_true, decide_eq_true_iff]
    exact rediscovers_lane ..
  unfold mustRediscover
  simp only [List.any_eq_true, List.mem_filter, List.mem_finRange, true_and, decide_eq_true_iff]
  constructor
  · rintro ⟨n, inside, why⟩
    rcases (lane n inside).1 why with ⟨e, echoed, differs⟩ | missed
    · exact .inl ⟨n, e, inside, echoed, differs⟩
    · exact .inr ⟨n, inside, missed⟩
  · rintro (⟨n, e, inside, echoed, differs⟩ | ⟨n, inside, missed⟩)
    · exact ⟨n, inside, (lane n inside).2 (.inl ⟨e, echoed, differs⟩)⟩
    · exact ⟨n, inside, (lane n inside).2 (.inr missed)⟩

theorem lanesCompared_recheckRecord {s : State} {g : Index} {outs : Tab (Option LaneOutcome) 4}
    (same : ¬EchoDiffers (boundWidth s g) outs (s.ctx g).record.lanes)
    (few : ¬ThirdMiss (boundWidth s g) outs (s.ctx g).record.lanes) :
    LanesCompared s.mga.settings (boundWidth s g) outs (s.ctx g).record.lanes (recheckRecord s g outs).lanes := by
  intro n
  rw [recheckRecord, get_mapLanes]
  refine ⟨fun apart => ?_, fun inside missed => ?_, fun e inside echoed => ?_⟩
  · split
    · next inside =>
      rw [apart.resolve_left (Nat.not_le.2 inside)]
      rfl
    · rfl
  · have early : (Tab.get (s.ctx g).record.lanes n).missRun < 2 := Nat.not_le.1 fun late => few ⟨n, inside, .inl ⟨missed, late⟩⟩
    have counted : min ((Tab.get (s.ctx g).record.lanes n).missRun + 1) Config.missLimit
        = (Tab.get (s.ctx g).record.lanes n).missRun + 1 := Nat.min_eq_left (show _ ≤ 3 by omega)
    rw [if_pos inside, missed, recheckLane, counted]
  · have agrees : (Tab.get (s.ctx g).record.lanes n).merged = some e.merged :=
      not_not.1 fun differs => same ⟨n, e, inside, echoed, differs⟩
    rw [if_pos inside, echoed]
    exact if_pos agrees

/-! ## The stale binding (R175) -/

theorem staleStep_fresh {s : State} {g : Index} (fresh : (s.ctx g).stale = false) : s.staleStep g = (s, none) :=
  if_neg (by rw [fresh]; decide)

theorem staleStep_fails {s : State} {g : Index} {reason : Reason} (stale : (s.ctx g).stale = true)
    (fails : checks (s.entry g).fields (s.ctx g).record (s.record g) s.mga.identity g = .error reason) :
    s.staleStep g = ((s.refresh g).quarantine g reason, some reason) := by
  unfold State.staleStep
  rw [if_pos stale]
  simp only [ctx_refresh, entry_refresh, record_refresh, mga_refresh, fails]

theorem staleStep_passes {s : State} {g : Index} {m : LaneMap} (stale : (s.ctx g).stale = true)
    (passes : checks (s.entry g).fields (s.ctx g).record (s.record g) s.mga.identity g = .ok m) :
    s.staleStep g = (s.refresh g, none) := by
  unfold State.staleStep
  rw [if_pos stale]
  simp only [ctx_refresh, entry_refresh, record_refresh, mga_refresh, passes]

/-! ## The steps of a round (R173) -/

section

variable {s : State} {r : RoundResult}

/-- The view of the round whose result r is, chosen before any step (R98, R173). -/
def resultView (s : State) (r : RoundResult) : Option View :=
  roundView s.mga.identity (s.ctx r.group).record (boundWidth s r.group) r.outcomes

theorem resultView_some {v : View}
    (has : RoundHasView s.mga.identity (s.ctx r.group).record (boundWidth s r.group) r.outcomes v) : resultView s r = some v :=
  roundView_of_hasView has

theorem resultView_none
    (none : ∀ n order v, ¬ViewCandidate s.mga.identity (s.ctx r.group).record (boundWidth s r.group) r.outcomes n order v) :
    resultView s r = .none := roundView_of_noCandidate none

/-- The part after step 2 of a round that brings no rediscovery (R174). -/
def State.compared (s : State) (r : RoundResult) : State := s.withRecord r.group (recheckRecord s r.group r.outcomes)

theorem ctx_compared : (s.compared r).ctx r.group = { s.ctx r.group with record := recheckRecord s r.group r.outcomes } :=
  ctx_withRecord ..

/-- The part with a stale binding refreshed as well (R175). -/
def State.refreshed (s : State) (r : RoundResult) : State := (s.compared r).refresh r.group

theorem ctx_refreshed : (s.refreshed r).ctx r.group = { s.ctx r.group with
    record := recheckRecord s r.group r.outcomes, bound := some (s.entry r.group).fields, stale := false } := by
  rw [State.refreshed, ctx_refresh, ctx_compared]
  rfl

theorem roundResult_recheck (recheck : r.kind ≠ .burst) : s.roundResult r = s.recheckRound r := by
  unfold State.roundResult
  split
  · next burst => exact absurd burst recheck
  · rfl
  · rfl

theorem recheckRound_held (st : (s.ctx r.group).state = .held) :
    s.recheckRound r = s.applyRoundView r.group (resultView s r) := by
  unfold State.recheckRound resultView
  rw [st]

theorem recheckRound_open (st : passedVerdict (s.ctx r.group).state) : s.recheckRound r = s.openRecheck r (resultView s r) := by
  unfold State.recheckRound resultView
  rcases st with st | st | st <;> rw [st]

theorem openRecheck_rediscovers (view : Option View)
    (must : EchoDiffers (boundWidth s r.group) r.outcomes (s.ctx r.group).record.lanes
      ∨ ThirdMiss (boundWidth s r.group) r.outcomes (s.ctx r.group).record.lanes) :
    s.openRecheck r view = ((s.compared r).enter r.group .discovering .none none).applyRoundView r.group view := by
  exact if_pos ((mustRediscover_iff ..).2 must)

variable (same : ¬EchoDiffers (boundWidth s r.group) r.outcomes (s.ctx r.group).record.lanes)
  (few : ¬ThirdMiss (boundWidth s r.group) r.outcomes (s.ctx r.group).record.lanes)

include same few

/-- Steps 3 to 6 of a round that brings no rediscovery (R173). -/
theorem openRecheck_stays (view : Option View) :
    s.openRecheck r view = match (s.compared r).staleStep r.group with
      | (u, some _) => u.applyRoundView r.group view
      | (u, none) =>
        let u := (u.windowStep r.group).applyRoundView r.group view
        if ((s.compared r).ctx r.group).stale then u.syncGate r.group else u := by
  refine (if_neg fun must => ?_).trans ?_
  · exact ((mustRediscover_iff ..).1 must).elim same few
  · rfl

/-- A round whose binding is not stale goes to its windows (R173). -/
theorem openRecheck_fresh (fresh : (s.ctx r.group).stale = false) (view : Option View) :
    s.openRecheck r view = ((s.compared r).windowStep r.group).applyRoundView r.group view := by
  have still : ((s.compared r).ctx r.group).stale = false := by rw [ctx_compared]; exact fresh
  rw [openRecheck_stays same few, staleStep_fresh still]
  exact if_neg (by rw [still]; decide)

/-- A stale binding is refreshed, and the checks that fail on it quarantine the context (R175). -/
theorem openRecheck_fails (stale : (s.ctx r.group).stale = true) {reason : Reason}
    (fails : checks (s.entry r.group).fields (recheckRecord s r.group r.outcomes) (s.record r.group) s.mga.identity r.group
      = .error reason) (view : Option View) :
    s.openRecheck r view = ((s.refreshed r).quarantine r.group reason).applyRoundView r.group view := by
  rw [openRecheck_stays same few, staleStep_fails (by rw [ctx_compared]; exact stale) (by rw [ctx_compared]; exact fails)]
  rfl

/-- A stale binding is refreshed, and with the checks passed its profile is in the gate at the round's end (R175). -/
theorem openRecheck_passes (stale : (s.ctx r.group).stale = true) {m : LaneMap}
    (passes : checks (s.entry r.group).fields (recheckRecord s r.group r.outcomes) (s.record r.group) s.mga.identity r.group
      = .ok m) (view : Option View) :
    s.openRecheck r view
      = (((s.refreshed r).windowStep r.group).applyRoundView r.group view).syncGate r.group := by
  have still : ((s.compared r).ctx r.group).stale = true := by rw [ctx_compared]; exact stale
  rw [openRecheck_stays same few, staleStep_passes still (by rw [ctx_compared]; exact passes)]
  exact if_pos still

end

/-! ## Windows and hysteresis (R176, R177) -/

/-- The record with lengths and skew written (R158, R159). -/
def windowRecord (b : PlanFields) (D : Nat) (dr : DiscoveryRecord) : DiscoveryRecord :=
  withSkew b.width.lanes (withLengths D b.width.lanes dr)

theorem windowCheck_short {b : PlanFields} {D : Nat} {dr : DiscoveryRecord} (short : SomeShort b (windowRecord b D dr)) :
    (windowCheck b D dr).2 = some .lengthShort := by
  have finding : lengthFinding b (withSkew b.width.lanes (withLengths D b.width.lanes dr)) = _ := lengthFinding_short short
  unfold windowCheck
  simp only [finding]

theorem windowCheck_long {b : PlanFields} {D : Nat} {dr : DiscoveryRecord} (short : ¬SomeShort b (windowRecord b D dr))
    (long : SomeLong b (windowRecord b D dr)) : (windowCheck b D dr).2 = some .lengthLong := by
  classical
  have finding : lengthFinding b (withSkew b.width.lanes (withLengths D b.width.lanes dr)) = some .lengthLong :=
    (lengthFinding_notShort short).trans (if_pos long)
  unfold windowCheck
  simp only [finding]

theorem windowCheck_inWindow {b : PlanFields} {D : Nat} {dr : DiscoveryRecord} (short : ¬SomeShort b (windowRecord b D dr))
    (long : ¬SomeLong b (windowRecord b D dr)) :
    (windowCheck b D dr).2 = if 16 * b.skewLimit < groupSkew dr b.width.lanes then some .skew else none := by
  classical
  have finding : lengthFinding b (withSkew b.width.lanes (withLengths D b.width.lanes dr)) = none :=
    (lengthFinding_notShort short).trans (if_neg long)
  unfold windowCheck
  simp only [finding, skewFinding_withSkew, (echoesKept_withLengths ..).groupSkew]

/-- What the windows and the hysteresis make of context `base`, in state st with good-recheck count `good` and record dr, for a port's D and a
hysteresis h (R176, R177). -/
def WindowsTaken (h D : Nat) (st : GroupState) (good : Nat) (dr : DiscoveryRecord) (base after : Context) : Prop :=
  (st = .agreeing → after = base)
  ∧ ∀ b, base.bound = some b →
    let judged : Context := { base with record := windowRecord b D dr }
    let entered := fun (x : GroupState) (reason : Reason) =>
      { judged with state := x, reason := reason, origin := none, goodCount := 0, timer := none, poll := none }
    let finds := fun reason : Reason =>
      (st = .verified → after = entered .degraded reason) ∧
        (st = .degraded → after = { judged with reason := reason, goodCount := 0 })
    let short := SomeShort b judged.record
    let long := SomeLong b judged.record
    let skewed := 16 * b.skewLimit < groupSkew dr b.width.lanes
    (short → finds .lengthShort) ∧ (¬short → long → finds .lengthLong) ∧ (¬short → ¬long → skewed → finds .skew)
    ∧ (¬short → ¬long → ¬skewed →
      (st = .verified → after = judged)
      ∧ (st = .degraded → good + 1 < h → after = { judged with goodCount := good + 1 })
      ∧ (st = .degraded → h ≤ good + 1 → after = entered .verified .none))

theorem windowStep_agreeing {s : State} {g : Index} (st : (s.ctx g).state = .agreeing) : s.windowStep g = s := by
  unfold State.windowStep
  rw [st]

/-- The part with a group's lengths and skew written into its record (R176). -/
def State.measured (s : State) (g : Index) (b : PlanFields) : State := s.withRecord g (windowRecord b (portD s g) (s.ctx g).record)

theorem ctx_measured (s : State) (g : Index) (b : PlanFields) : (s.measured g b).ctx g =
    { s.ctx g with record := windowRecord b (portD s g) (s.ctx g).record } := ctx_withRecord ..

section

variable {s : State} {g : Index} {b : PlanFields} {reason : Reason}

/-- A finding makes a VERIFIED context DEGRADED (R176, R177). -/
theorem windowStep_verified_found (st : (s.ctx g).state = .verified) (bound : (s.ctx g).bound = some b)
    (finding : (windowCheck b (portD s g) (s.ctx g).record).2 = some reason) :
    s.windowStep g = ((s.measured g b).enter g .degraded reason none).modCtx g fun c => { c with goodCount := 0 } := by
  unfold State.windowStep
  rw [st, bound]
  dsimp only
  rw [finding]
  rfl

theorem windowStep_verified_clear (st : (s.ctx g).state = .verified) (bound : (s.ctx g).bound = some b)
    (clear : (windowCheck b (portD s g) (s.ctx g).record).2 = none) : s.windowStep g = s.measured g b := by
  unfold State.windowStep
  rw [st, bound]
  dsimp only
  rw [clear]
  rfl

/-- A finding gives a DEGRADED context its reason and starts its count again (R177). -/
theorem windowStep_degraded_found (st : (s.ctx g).state = .degraded) (bound : (s.ctx g).bound = some b)
    (finding : (windowCheck b (portD s g) (s.ctx g).record).2 = some reason) :
    s.windowStep g = (s.measured g b).modCtx g fun c => { c with reason := reason, goodCount := 0 } := by
  unfold State.windowStep
  rw [st, bound]
  dsimp only
  rw [finding]
  rfl

/-- A good round of a DEGRADED context counts, and the one that makes up the hysteresis takes it to VERIFIED (R177). -/
theorem windowStep_degraded_clear (st : (s.ctx g).state = .degraded) (bound : (s.ctx g).bound = some b)
    (clear : (windowCheck b (portD s g) (s.ctx g).record).2 = none) :
    s.windowStep g =
      if s.mga.settings.hysteresis ≤ (s.ctx g).goodCount + 1 then
        ((s.measured g b).enter g .verified .none none).modCtx g fun c => { c with goodCount := 0 }
      else (s.measured g b).modCtx g fun c => { c with goodCount := (s.ctx g).goodCount + 1 } := by
  have counted : ((s.measured g b).ctx g).goodCount = (s.ctx g).goodCount := by rw [ctx_measured]
  rw [← counted]
  unfold State.windowStep
  rw [st, bound]
  dsimp only
  rw [clear]
  rfl

end

/-- A context that has entered a state in which it is open, its count set to 0. -/
theorem ctx_enterOpen (s : State) (g : Index) {st : GroupState} (r : Reason) (opened : st = .verified ∨ st = .degraded) :
    ((s.enter g st r none).modCtx g fun c => { c with goodCount := 0 }).ctx g =
      { s.ctx g with state := st, reason := r, origin := none, goodCount := 0, timer := none, poll := none } := by
  rw [ctx_modCtx_same, ctx_enter_same]
  rcases opened with rfl | rfl <;> rfl

/-- Steps 4 and 5 are those of R176 and R177. -/
theorem windowsTaken_windowStep (s : State) (g : Index) :
    WindowsTaken s.mga.settings.hysteresis (portD s g) (s.ctx g).state (s.ctx g).goodCount (s.ctx g).record (s.ctx g)
      ((s.windowStep g).ctx g) := by
  refine ⟨fun st => by rw [windowStep_agreeing st], fun b bound => ?_⟩
  dsimp only
  have found : ∀ reason, (windowCheck b (portD s g) (s.ctx g).record).2 = some reason →
      ((s.ctx g).state = .verified → (s.windowStep g).ctx g =
        { s.ctx g with
          record := windowRecord b (portD s g) (s.ctx g).record, state := .degraded, reason := reason, origin := none
          goodCount := 0, timer := none, poll := none })
      ∧ ((s.ctx g).state = .degraded → (s.windowStep g).ctx g =
        { s.ctx g with record := windowRecord b (portD s g) (s.ctx g).record, reason := reason, goodCount := 0 }) := by
    intro reason finding
    refine ⟨fun st => ?_, fun st => ?_⟩
    · rw [windowStep_verified_found st bound finding, ctx_enterOpen _ g reason (.inr rfl), ctx_measured]
    · rw [windowStep_degraded_found st bound finding, ctx_modCtx_same, ctx_measured]
  refine ⟨fun short => found _ (windowCheck_short short), fun short long => found _ (windowCheck_long short long),
    fun short long skewed => found _ ((windowCheck_inWindow short long).trans (if_pos skewed)), fun short long level => ?_⟩
  have clear := (windowCheck_inWindow short long).trans (if_neg level)
  refine ⟨fun st => ?_, fun st few => ?_, fun st enough => ?_⟩
  · rw [windowStep_verified_clear st bound clear, ctx_measured]
  · rw [windowStep_degraded_clear st bound clear, if_neg (Nat.not_le.2 few), ctx_modCtx_same, ctx_measured]
  · rw [windowStep_degraded_clear st bound clear, if_pos enough, ctx_enterOpen _ g .none (.inl rfl), ctx_measured]

/-! ## Gate and steering through the steps -/

/-- From s to t context g and its gate have moved together: the binding, steering map and compensations are those of s; and gate and state are
those of s too, or the context is in another state, whose gate and whose binding's profile the FSU holds (R13, R17, R31). -/
structure GateFollows (g : Index) (s t : State) : Prop where
  bound : (t.ctx g).bound = (s.ctx g).bound
  map : (t.path g).map = (s.path g).map
  comps : (t.path g).comps = (s.path g).comps
  follows : t.path g = s.path g ∧ (t.ctx g).state = (s.ctx g).state
    ∨ (t.ctx g).state ≠ (s.ctx g).state ∧ (t.path g).gate = gateOf (t.ctx g).state
      ∧ (t.path g).profile = ((s.ctx g).bound.map PlanFields.profile).getD (s.path g).profile

theorem GateFollows.refl (g : Index) (s : State) : GateFollows g s s := ⟨rfl, rfl, rfl, .inl ⟨rfl, rfl⟩⟩

theorem GateFollows.modCtx {g : Index} {s t : State} (h : GateFollows g s t) {f : Context → Context}
    (state : (f (t.ctx g)).state = (t.ctx g).state) (bound : (f (t.ctx g)).bound = (t.ctx g).bound) :
    GateFollows g s (t.modCtx g f) := by
  refine ⟨?_, h.map, h.comps, ?_⟩
  · rw [ctx_modCtx_same, bound, h.bound]
  · rw [ctx_modCtx_same, path_modCtx, state]
    exact h.follows

theorem GateFollows.enter {g : Index} {s t : State} (h : GateFollows g s t) {st : GroupState} (r : Reason) (o : Option HoldOrigin)
    (other : st ≠ (s.ctx g).state) : GateFollows g s (t.enter g st r o) := by
  refine ⟨?_, (map_enter ..).trans h.map, (comps_enter ..).trans h.comps, .inr ⟨?_, ?_, ?_⟩⟩
  · rw [ctx_enter_same]
    exact h.bound
  · rw [state_enter]
    exact other
  · rw [gate_enter, state_enter]
  · rw [profile_enter, h.bound]
    rcases h.follows with ⟨same, _⟩ | ⟨_, _, profile⟩
    · rw [same]
    · rw [profile]
      cases (s.ctx g).bound <;> rfl

/-- Where the steps before the view can have taken a context that a round came to in `old` (R175 to R177): to QUARANTINED; else an AGREEING one
nowhere, and a VERIFIED or DEGRADED one to one of these two. -/
def StepsReach (old new : GroupState) : Prop :=
  new = .quarantined ∨ old = .agreeing ∧ new = .agreeing ∨
    (old = .verified ∨ old = .degraded) ∧ (new = .verified ∨ new = .degraded)

theorem state_windowStep {s : State} {g : Index} (passed : passedVerdict (s.ctx g).state) :
    (s.ctx g).state = .agreeing ∧ ((s.windowStep g).ctx g).state = .agreeing
      ∨ ((s.ctx g).state = .verified ∨ (s.ctx g).state = .degraded)
        ∧ (((s.windowStep g).ctx g).state = .verified ∨ ((s.windowStep g).ctx g).state = .degraded) := by
  unfold State.windowStep
  split
  · next b st _ =>
    refine .inr ⟨.inl st, ?_⟩
    dsimp only
    split
    · exact .inr (by rw [ctx_modCtx_same, ctx_enter_same]; rfl)
    · exact .inl (by rw [ctx_modCtx_same]; exact st)
  · next b st _ =>
    refine .inr ⟨.inr st, ?_⟩
    dsimp only
    split
    · exact .inr (by rw [ctx_modCtx_same, ctx_modCtx_same]; exact st)
    · split
      · exact .inl (by rw [ctx_modCtx_same, ctx_enter_same]; rfl)
      · exact .inr (by rw [ctx_modCtx_same, ctx_modCtx_same]; exact st)
  · rcases passed with st | st | st
    · exact .inl ⟨st, st⟩
    · exact .inr ⟨.inl st, .inl st⟩
    · exact .inr ⟨.inr st, .inr st⟩

theorem passedVerdict_windowStep {s : State} {g : Index} (passed : passedVerdict (s.ctx g).state) :
    passedVerdict ((s.windowStep g).ctx g).state := by
  rcases state_windowStep passed with ⟨_, st⟩ | ⟨_, st⟩
  · exact .inl st
  · exact .inr st

theorem gateFollows_windowStep (s : State) (g : Index) : GateFollows g s (s.windowStep g) := by
  unfold State.windowStep
  split
  · next b st _ =>
    have judged := (GateFollows.refl g s).modCtx (f := fun c => { c with record := (windowCheck b (portD s g) (s.ctx g).record).1 }) rfl rfl
    dsimp only
    split
    · exact (judged.enter _ _ (by rw [st]; decide)).modCtx rfl rfl
    · exact judged
  · next b st _ =>
    have judged := (GateFollows.refl g s).modCtx (f := fun c => { c with record := (windowCheck b (portD s g) (s.ctx g).record).1 }) rfl rfl
    dsimp only
    split
    · exact judged.modCtx rfl rfl
    · split
      · exact (judged.enter _ _ (by rw [st]; decide)).modCtx rfl rfl
      · exact judged.modCtx rfl rfl
  · exact .refl g s

/-- A view applied behind the other steps leaves the context alone, or takes it to a state it was not in when the round came to it (R178). -/
theorem applyView_cases {s : State} {g : Index} {old : GroupState} (passed : passedVerdict old)
    (reached : StepsReach old (s.ctx g).state)
    (v : View) : s.applyView g v = s ∨ ∃ st r o, s.applyView g v = s.enter g st r o ∧ st ≠ old := by
  have quarantines : ∀ r, ∃ st r' o, s.quarantine g r = s.enter g st r' o ∧ st ≠ old := fun r =>
    ⟨_, _, _, rfl, by rcases passed with rfl | rfl | rfl <;> decide⟩
  have holds : ∃ st r o, s.holdRemote g = s.enter g st r o ∧ st ≠ old :=
    ⟨_, _, _, rfl, by rcases passed with rfl | rfl | rfl <;> decide⟩
  unfold State.applyView
  rcases reached with st | ⟨rfl, st⟩ | ⟨past, st | st⟩
  · rw [st]
    cases v with
    | held => exact .inr holds
    | pass | pending | fail | unplanned => exact .inl rfl
  · rw [st]
    cases v with
    | pass => exact .inr ⟨_, _, _, rfl, by decide⟩
    | pending => exact .inl rfl
    | fail | unplanned => exact .inr (quarantines _)
    | held => exact .inr holds
  all_goals
    rw [st]
    cases v with
    | pass => exact .inl rfl
    | pending => exact .inr ⟨_, _, _, rfl, by rcases past with rfl | rfl <;> decide⟩
    | fail | unplanned => exact .inr (quarantines _)
    | held => exact .inr holds

theorem GateFollows.applyRoundView {g : Index} {s t : State} (h : GateFollows g s t) (passed : passedVerdict (s.ctx g).state)
    (reached : StepsReach (s.ctx g).state (t.ctx g).state) (view : Option View) : GateFollows g s (t.applyRoundView g view) := by
  cases view with
  | none => exact h
  | some v =>
    rcases applyView_cases passed reached v with same | ⟨st, r, o, entered, other⟩
    · exact (congrArg (GateFollows g s) same).mpr h
    · exact (congrArg (GateFollows g s) entered).mpr (h.enter r o other)

/-! ## The profile after a refresh (R31, R175) -/

theorem ctx_syncGate (s : State) (g h : Index) : (s.syncGate g).ctx h = s.ctx h := by
  unfold State.syncGate
  split
  · split
    · rfl
    · exact ctx_writeGate ..
  · rfl

/-- Writing the refreshed profile changes gate and profile alone: afterwards the profile is that of the binding, and the gate was left or is
the one of the state. -/
theorem path_syncGate {s : State} {g : Index} {b : PlanFields} (bound : (s.ctx g).bound = some b) :
    ((s.syncGate g).path g).map = (s.path g).map ∧ ((s.syncGate g).path g).comps = (s.path g).comps
      ∧ ((s.syncGate g).path g).profile = b.profile
      ∧ (((s.syncGate g).path g).gate = (s.path g).gate ∨ ((s.syncGate g).path g).gate = gateOf (s.ctx g).state) := by
  unfold State.syncGate
  rw [bound]
  dsimp only
  split
  · next same => exact ⟨rfl, rfl, same.symm, .inl rfl⟩
  · rw [path_writeGate]
    exact ⟨rfl, rfl, rfl, .inr rfl⟩

/-- A change of state writes the binding's profile itself (R56). -/
theorem syncGate_enter (s : State) (g : Index) (st : GroupState) (r : Reason) (o : Option HoldOrigin) :
    (s.enter g st r o).syncGate g = s.enter g st r o := by
  have bound : ((s.enter g st r o).ctx g).bound = (s.ctx g).bound := by rw [ctx_enter_same]; rfl
  unfold State.syncGate
  rw [bound]
  cases own : (s.ctx g).bound with
  | none => rfl
  | some b => exact if_pos (by rw [profile_enter, own]; rfl)

/-- The view acts on an open or agreeing context as it does without the refreshed profile (R175, R178). -/
theorem viewActed_syncGate {s : State} {g : Index} (passed : passedVerdict (s.ctx g).state) (v : View) :
    ViewActed s ((s.applyView g v).syncGate g) g v := by
  have acted := viewActed_applyView s g v
  unfold ViewActed State.applyView at *
  rcases passed with st | st | st
  · rw [st] at acted ⊢
    cases v with
    | pass => exact (congrArg (Opens s · g) (syncGate_enter ..)).mpr acted
    | pending => exact ctx_syncGate ..
    | fail | unplanned => exact (congrArg (Quarantined s · g _) (syncGate_enter ..)).mpr acted
    | held => exact (congrArg (Held s · g _ _) (syncGate_enter ..)).mpr acted
  all_goals
    rw [st] at acted ⊢
    cases v with
    | pass => exact ctx_syncGate ..
    | pending => exact (congrArg (StartsAgreeing s · g) (syncGate_enter ..)).mpr acted
    | fail | unplanned => exact (congrArg (Quarantined s · g _) (syncGate_enter ..)).mpr acted
    | held => exact (congrArg (Held s · g _ _) (syncGate_enter ..)).mpr acted

/-! ## Rediscovery (R174) -/

/-- What a rediscovery leaves of its group, with the round's view applied to it in DISCOVERING (R101, R174). -/
structure Rediscovers (t : State) (g : Index) (rounds : Nat) (view : Option View) : Prop where
  inState : InState t g .discovering .none none
  lanes : ∀ n, Tab.get (t.ctx g).record.lanes n = freshLane t g n
  goodCount : (t.ctx g).goodCount = 0
  lastView : (t.ctx g).record.lastView = view
  burst : ∃ b ∈ t.psc.queue, b.group = g ∧ b.kind = .burst ∧ b.rounds = rounds

/-- The view of a round that has brought a rediscovery is recorded in the fresh record. -/
theorem StartsDiscovery.viewed {s : State} {g : Index} {rounds : Nat} (h : StartsDiscovery s g rounds) (view : Option View) :
    Rediscovers (s.applyRoundView g view) g rounds view := by
  have recorded : s.applyRoundView g view = s.modCtx g fun c => { c with record := { c.record with lastView := view } } := by
    cases view with
    | none => exact (modCtx_self (s := s) (by rw [← h.lastView])).symm
    | some v => exact applyView_discovering h.inState.state v
  have ctx : (s.applyRoundView g view).ctx g = { s.ctx g with record := { (s.ctx g).record with lastView := view } } := by
    rw [recorded, ctx_modCtx_same]
  have width : boundWidth (s.applyRoundView g view) g = boundWidth s g := by
    unfold boundWidth
    rw [ctx]
  refine ⟨⟨?_, ?_, ?_, ?_⟩, fun n => ?_, ?_, by rw [ctx], ?_⟩
  · rw [ctx]; exact h.inState.state
  · rw [ctx]; exact h.inState.reason
  · rw [ctx]; exact h.inState.origin
  · rw [recorded]; exact h.inState.gate
  · rw [freshLane, width, (EventAt.applyRoundView s g view).receive.lockView, ctx]
    exact h.lanes n
  · rw [ctx]; exact h.goodCount
  · rw [recorded]; exact h.burst

theorem Rediscovers.endEvent {t u : State} {g : Index} {rounds : Nat} {view : Option View} (h : Rediscovers t g rounds view)
    (granted : Granted t u) : Rediscovers u g rounds view := by
  obtain ⟨b, queued, own, kind, owed⟩ := h.burst
  obtain ⟨b', queued', own', kind', owed'⟩ := mem_of_terms granted.psc.terms queued
  refine ⟨granted.inState h.inState, fun n => ?_, by rw [granted.ctx]; exact h.goodCount, by rw [granted.ctx]; exact h.lastView,
    b', queued', own'.trans own, kind'.trans kind, owed'.trans owed⟩
  rw [freshLane, boundWidth, granted.ctx, granted.lockView]
  exact h.lanes n

/-! ## A round that brings no rediscovery (R175 to R178) -/

/-- The context before the checks and windows: its lanes compared, and a stale binding refreshed (R174, R175). -/
def recheckBase (s : State) (g : Index) (dr : DiscoveryRecord) : Context :=
  if (s.ctx g).stale then { s.ctx g with record := dr, bound := some (s.entry g).fields, stale := false }
  else { s.ctx g with record := dr }

theorem recheckBase_fresh {s : State} {g : Index} (fresh : (s.ctx g).stale = false) (dr : DiscoveryRecord) :
    recheckBase s g dr = { s.ctx g with record := dr } := if_neg (by rw [fresh]; decide)

theorem recheckBase_stale {s : State} {g : Index} (stale : (s.ctx g).stale = true) (dr : DiscoveryRecord) :
    recheckBase s g dr = { s.ctx g with record := dr, bound := some (s.entry g).fields, stale := false } := if_pos stale

/-- Steps 3 to 6 of a recheck round, with mid the part before the last and dr the record after step 2 (R173). -/
structure RecheckTaken (s mid t : State) (g : Index) (view : Option View) (dr : DiscoveryRecord) : Prop where
  blocks : BlocksKept s mid
  acted : ∀ v, view = some v → ViewActed mid t g v
  kept : view = none → t.ctx g = mid.ctx g
  map : (t.path g).map = (s.path g).map
  comps : (t.path g).comps = (s.path g).comps
  gate : (s.path g).gate = gateOf (s.ctx g).state → (t.path g).gate = gateOf (t.ctx g).state
  profile : (s.ctx g).stale = true → (t.path g).profile = (s.entry g).fields.profile
  path : (s.ctx g).stale = false → (t.ctx g).state = (s.ctx g).state → t.path g = s.path g
  fails : ∀ reason, (s.ctx g).stale = true → checks (s.entry g).fields dr (s.record g) s.mga.identity g = .error reason →
    mid.ctx g =
      { recheckBase s g dr with
        state := .quarantined, reason := reason, origin := none, poll := none
        timer := if (s.entry g).fields.retry = 0 then none
          else some { kind := .retry, remaining := 1000000000 * (s.entry g).fields.retry } }
  steps : (s.ctx g).stale = false ∨ (∃ m, checks (s.entry g).fields dr (s.record g) s.mga.identity g = .ok m) →
    WindowsTaken s.mga.settings.hysteresis (portD s g) (s.ctx g).state (s.ctx g).goodCount dr (recheckBase s g dr) (mid.ctx g)

theorem GateFollows.gate {g : Index} {s t : State} (h : GateFollows g s t) (was : (s.path g).gate = gateOf (s.ctx g).state) :
    (t.path g).gate = gateOf (t.ctx g).state := by
  rcases h.follows with ⟨path, state⟩ | ⟨_, gate, _⟩
  · rw [path, state]
    exact was
  · exact gate

theorem GateFollows.path_of_state {g : Index} {s t : State} (h : GateFollows g s t) (state : (t.ctx g).state = (s.ctx g).state) :
    t.path g = s.path g := by
  rcases h.follows with ⟨path, _⟩ | ⟨other, _⟩
  · exact path
  · exact absurd state other

/-- The view of a round takes the profile of the binding along (R31, R56). -/
theorem profile_applyRoundView {s : State} {g : Index} {b : PlanFields} {old : GroupState} (passed : passedVerdict old)
    (reached : StepsReach old (s.ctx g).state) (bound : (s.ctx g).bound = some b) (profile : (s.path g).profile = b.profile)
    (view : Option View) : ((s.applyRoundView g view).path g).profile = b.profile := by
  cases view with
  | none => exact profile
  | some v =>
    show ((s.applyView g v).path g).profile = _
    rcases applyView_cases passed reached v with same | ⟨st, r, o, entered, _⟩
    · rw [same]
      exact profile
    · rw [entered, profile_enter, bound]
      rfl

theorem viewActed_applyRoundView {s : State} {g : Index} {view : Option View} {v : View} (has : view = some v) :
    ViewActed s (s.applyRoundView g view) g v := by
  subst has
  exact viewActed_applyView s g v

section

variable {s : State} {r : RoundResult} (passed : passedVerdict (s.ctx r.group).state)
  (same : ¬EchoDiffers (boundWidth s r.group) r.outcomes (s.ctx r.group).record.lanes)
  (few : ¬ThirdMiss (boundWidth s r.group) r.outcomes (s.ctx r.group).record.lanes)

include passed same few

theorem recheckTaken_fresh (fresh : (s.ctx r.group).stale = false) (view : Option View) :
    RecheckTaken s ((s.compared r).windowStep r.group) (s.openRecheck r view) r.group view (recheckRecord s r.group r.outcomes) := by
  have ctx := ctx_compared (s := s) (r := r)
  have passed' : passedVerdict ((s.compared r).ctx r.group).state := by rw [ctx]; exact passed
  have follows := (gateFollows_windowStep (s.compared r) r.group).applyRoundView passed' (.inr (state_windowStep passed')) view
  have windows := windowsTaken_windowStep (s.compared r) r.group
  have stale : ¬(s.ctx r.group).stale = true := by rw [fresh]; decide
  rw [ctx] at windows
  rw [openRecheck_fresh same few fresh]
  exact
    { blocks := ((EventAt.modCtx ..).trans (.windowStep (s.compared r) r.group)).blocks
      acted := fun v has => viewActed_applyRoundView has
      kept := fun none => by rw [none]; rfl
      map := follows.map
      comps := follows.comps
      gate := fun was => follows.gate (by rw [ctx]; exact was)
      profile := fun yes => absurd yes stale
      path := fun _ state => follows.path_of_state (by rw [ctx]; exact state)
      fails := fun _ yes => absurd yes stale
      steps := fun _ => by rw [recheckBase_fresh fresh]; exact windows }

theorem recheckTaken_fails (stale : (s.ctx r.group).stale = true) {reason : Reason}
    (fails : checks (s.entry r.group).fields (recheckRecord s r.group r.outcomes) (s.record r.group) s.mga.identity r.group
      = .error reason) (view : Option View) :
    RecheckTaken s ((s.refreshed r).quarantine r.group reason) (s.openRecheck r view) r.group view
      (recheckRecord s r.group r.outcomes) := by
  have base := recheckBase_stale stale (recheckRecord s r.group r.outcomes)
  have ctx := ctx_refreshed (s := s) (r := r)
  have passed' : passedVerdict ((s.refreshed r).ctx r.group).state := by rw [ctx]; exact passed
  have entered := (GateFollows.refl r.group (s.refreshed r)).enter (st := .quarantined) reason none
    (by rcases passed' with st | st | st <;> rw [st] <;> decide)
  have reached : StepsReach ((s.refreshed r).ctx r.group).state
      (((s.refreshed r).quarantine r.group reason).ctx r.group).state := .inl (state_enter ..)
  have follows := entered.applyRoundView passed' reached view
  have bound : (((s.refreshed r).quarantine r.group reason).ctx r.group).bound = some (s.entry r.group).fields := by
    rw [State.quarantine, ctx_enter_same, ctx]
    rfl
  have profile : (((s.refreshed r).quarantine r.group reason).path r.group).profile
      = (s.entry r.group).fields.profile := by
    rw [State.quarantine, profile_enter, ctx]
    rfl
  rw [openRecheck_fails same few stale fails]
  exact
    { blocks := (((EventAt.modCtx ..).trans (.refresh (s.compared r) r.group)).trans (.quarantine ..)).blocks
      acted := fun v has => viewActed_applyRoundView has
      kept := fun none => by rw [none]; rfl
      map := follows.map
      comps := follows.comps
      gate := fun was => follows.gate (by rw [ctx]; exact was)
      profile := fun _ => profile_applyRoundView passed' reached bound profile view
      path := fun fresh => absurd (stale.symm.trans fresh) (by decide)
      fails := fun reason' _ yes => by
        obtain rfl := Except.error.inj (fails.symm.trans yes)
        rw [State.quarantine, ctx_enter_same, ctx, base]
        simp only [enterContext, entryRecord, entryGoodCount, entryTimer, msToNs, ← Nat.mul_assoc]
        rfl
      steps := fun passes => by
        obtain fresh | ⟨m, yes⟩ := passes
        · exact absurd (stale.symm.trans fresh) (by decide)
        · exact nomatch fails.symm.trans yes }

theorem recheckTaken_passes (stale : (s.ctx r.group).stale = true) {m : LaneMap}
    (passes : checks (s.entry r.group).fields (recheckRecord s r.group r.outcomes) (s.record r.group) s.mga.identity r.group
      = .ok m) (view : Option View) :
    RecheckTaken s ((s.refreshed r).windowStep r.group) (s.openRecheck r view) r.group view
      (recheckRecord s r.group r.outcomes) := by
  have base := recheckBase_stale stale (recheckRecord s r.group r.outcomes)
  have ctx := ctx_refreshed (s := s) (r := r)
  have passed' : passedVerdict ((s.refreshed r).ctx r.group).state := by rw [ctx]; exact passed
  have follows := (gateFollows_windowStep (s.refreshed r) r.group).applyRoundView passed'
    (.inr (state_windowStep passed')) view
  have bound : ((((s.refreshed r).windowStep r.group).applyRoundView r.group view).ctx r.group).bound
      = some (s.entry r.group).fields := by
    rw [follows.bound, ctx]
  obtain ⟨map, comps, profile, gate⟩ := path_syncGate bound
  have windows := windowsTaken_windowStep (s.refreshed r) r.group
  rw [ctx] at windows
  rw [openRecheck_passes same few stale passes]
  exact
    { blocks := (((EventAt.modCtx ..).trans (.refresh (s.compared r) r.group)).trans (.windowStep ..)).blocks
      acted := fun v has => by
        rw [has]
        exact viewActed_syncGate (passedVerdict_windowStep passed') v
      kept := fun none => by rw [none]; exact ctx_syncGate ..
      map := map.trans follows.map
      comps := comps.trans follows.comps
      gate := fun was => by
        rw [ctx_syncGate]
        exact gate.elim (fun left => left.trans (follows.gate (by rw [ctx]; exact was))) id
      profile := fun _ => profile
      path := fun fresh => absurd (stale.symm.trans fresh) (by decide)
      fails := fun reason _ yes => nomatch passes.symm.trans yes
      steps := fun _ => by rw [base]; exact windows }

/-- A round that brings no rediscovery takes the steps of R175 to R178. -/
theorem recheckTaken_openRecheck (view : Option View) :
    ∃ mid, RecheckTaken s mid (s.openRecheck r view) r.group view (recheckRecord s r.group r.outcomes) := by
  cases stale : (s.ctx r.group).stale with
  | false => exact ⟨_, recheckTaken_fresh passed same few stale view⟩
  | true =>
    cases checked : checks (s.entry r.group).fields (recheckRecord s r.group r.outcomes) (s.record r.group) s.mga.identity r.group with
    | error reason => exact ⟨_, recheckTaken_fails passed same few stale checked view⟩
    | ok m => exact ⟨_, recheckTaken_passes passed same few stale checked view⟩

end

/-- With the scheduler and the frames in interception set aside at its start, and taken to the end of the event. -/
theorem RecheckTaken.endEvent {s mid t u : State} {g : Index} {rx : Tab LineRx 64} {p : Psc} {view : Option View} {dr : DiscoveryRecord}
    (h : RecheckTaken (s.aside rx p) mid t g view dr) (start : BlocksKept s (s.aside rx p)) (granted : Granted t u) :
    RecheckTaken s mid u g view dr where
  blocks := start.trans h.blocks
  acted v has := granted.viewActed (h.acted v has)
  kept none := (granted.ctx g).trans (h.kept none)
  map := by rw [granted.path]; exact h.map
  comps := by rw [granted.path]; exact h.comps
  gate was := by rw [granted.path, granted.ctx]; exact h.gate was
  profile stale := by rw [granted.path]; exact h.profile stale
  path fresh state := by rw [granted.path]; exact h.path fresh (by rw [← granted.ctx]; exact state)
  fails := h.fails
  steps := h.steps

/-- A view applied to a part whose scheduler and frames in interception are set aside, at the end of the event. -/
theorem viewActed_aside {s : State} {g : Index} {rx : Tab LineRx 64} {p : Psc} {view : Option View} {v : View} (has : view = some v)
    (before : State) : ViewActed s (((s.aside rx p).applyRoundView g view).endEvent before) g v :=
  (sameAt_aside g s rx p).viewActed ((Granted.endEvent _ before).viewActed (viewActed_applyRoundView has))

/-- Settles O24: by the state of the group and by what the round's echoes show, each step in its turn and the view last. -/
theorem recheckRoundTakesItsSteps : Obligations.RecheckRoundTakesItsSteps := by
  unfold Obligations.RecheckRoundTakesItsSteps
  intro s c g i r o run consistent completes recheck
  obtain rfl := completes.group
  obtain ⟨rx, p, runs, ended, frame⟩ := completes.completed run consistent
  rw [roundResult_recheck recheck] at runs frame
  have viewed := fun v => resultView_some (s := s.aside rx p) (r := r.resultWith i o) (v := v)
  have unviewed := resultView_none (s := s.aside rx p) (r := r.resultWith i o)
  refine ⟨_, runs, frame.others, frame.blocks, frame.receive, frame.notices, fun held => ?_,
    fun passed => ⟨fun must => ?_, fun same few => ?_⟩⟩
  · rw [recheckRound_held held]
    refine ⟨fun v has => viewActed_aside (viewed v has) s, fun none => ?_⟩
    rw [unviewed none, ctx_endEvent, path_endEvent]
    exact ⟨rfl, rfl⟩
  · rw [recheckRound_open passed, openRecheck_rediscovers (s := s.aside rx p) (r := r.resultWith i o) _ must]
    have discovers := ((startsDiscovery_enter ((s.aside rx p).compared (r.resultWith i o)) r.group).viewed
      (resultView (s.aside rx p) (r.resultWith i o))).endEvent (Granted.endEvent _ s)
    exact ⟨discovers.inState, discovers.lanes, discovers.goodCount, fun v has => discovers.lastView.trans (viewed v has),
      fun none => discovers.lastView.trans (unviewed none), discovers.burst⟩
  · rw [recheckRound_open passed]
    obtain ⟨mid, taken⟩ := recheckTaken_openRecheck (s := s.aside rx p) (r := r.resultWith i o) passed same few
      (resultView (s.aside rx p) (r.resultWith i o))
    have taken := taken.endEvent ended.blocksKept_aside (Granted.endEvent _ s)
    exact ⟨_, mid, lanesCompared_recheckRecord (s := s.aside rx p) same few, taken.blocks, fun v has => taken.acted v (viewed v has),
      fun none => taken.kept (unviewed none), taken.map, taken.comps, taken.gate, taken.profile, taken.path, taken.fails, taken.steps⟩

end Sys2Proof.Machine
end

section
/-! The settling of a probe while others of its round are unsettled, and the echoes that are late (R120, R121, R123). -/

namespace Sys2Proof.Machine

/-! ## The request queue and the slots -/

theorem group_of_probe {st : SlotState} {g : Index} {i : Fin 4} (h : st.probe = some (g, i)) : st.group = some g := by
  cases st <;> cases h <;> rfl

/-- Changes in place keep the groups of the queue. -/
theorem groups_modRequest (q : List ProbeRequest) (g : Index) {f : ProbeRequest → ProbeRequest} (keep : ∀ r, (f r).group = r.group) :
    (modRequest q g f).map ProbeRequest.group = q.map ProbeRequest.group := by
  unfold modRequest
  rw [List.map_map]
  refine List.map_congr_left fun r _ => ?_
  simp only [Function.comp]
  split
  · exact keep r
  · rfl

/-- The request of a group with an outstanding probe is in flight (R112). -/
theorem inFlight_of_outstanding {s : State} (consistent : SchedulerConsistent s) {k : Fin 8} {r : ProbeRequest}
    (held : (Tab.get s.psc.slots k).state.group = some r.group) (queued : r ∈ s.psc.queue) : r.inFlight = true := by
  obtain ⟨x, mem, same, flies⟩ := consistent.owned k r.group held
  rwa [← List.inj_on_of_nodup_map consistent.oneRequest mem queued same]

/-- Grants give no slot to a group whose request is in flight: a slot that is FREE before them holds no probe of it after them (R113). -/
theorem GrantsOnly.free_of_flying {p q : Psc} (h : GrantsOnly p q) {g : Index} (flies : ∀ r ∈ p.queue, r.group = g → r.inFlight = true)
    {k : Fin 8} (free : (Tab.get p.slots k).state = .free) : (Tab.get q.slots k).state.group ≠ some g := by
  intro held
  rcases h.taken k g held with before | ⟨r, mem, own, waits⟩
  · rw [free] at before
    cases before
  · rw [flies r mem own] at waits
    cases waits

/-! ## A probe settled while its round goes on -/

/-- The scheduler once the probe of slot k, of lane offset i of group g, has been settled with outcome o (R120, R121). -/
def settledPsc (k : Fin 8) (g : Index) (i : Fin 4) (o : LaneOutcome) (p : Psc) : Psc := storeOutcome g i o (freeSlot k p)

theorem slots_settledPsc_same (k : Fin 8) (g : Index) (i : Fin 4) (o : LaneOutcome) (p : Psc) :
    (Tab.get (settledPsc k g i o p).slots k).state = .free := congrArg Slot.state (Tab.get_upd_same _ _ _)

theorem slots_settledPsc_ne {k k' : Fin 8} (ne : k' ≠ k) (g : Index) (i : Fin 4) (o : LaneOutcome) (p : Psc) :
    Tab.get (settledPsc k g i o p).slots k' = Tab.get p.slots k' := Tab.get_upd_ne _ _ ne

theorem groups_settledPsc (k : Fin 8) (g : Index) (i : Fin 4) (o : LaneOutcome) (p : Psc) :
    (settledPsc k g i o p).queue.map ProbeRequest.group = p.queue.map ProbeRequest.group := groups_modRequest _ _ fun _ => rfl

/-- The outcome is stored in the request of the group. -/
theorem mem_settledPsc (k : Fin 8) (i : Fin 4) (o : LaneOutcome) {p : Psc} {r : ProbeRequest} (mem : r ∈ p.queue) :
    { r with outcomes := Tab.set r.outcomes i (some o) } ∈ (settledPsc k r.group i o p).queue :=
  List.mem_map.2 ⟨r, mem, if_pos rfl⟩

/-- While another probe of the group is outstanding, a probe settled is stored and no more (R120, R121, R124). -/
theorem settle_unfinished {s : State} {k k' : Fin 8} {g : Index} (i : Fin 4) (o : LaneOutcome) (other : k' ≠ k)
    (held : (Tab.get s.psc.slots k').state.group = some g) :
    s.settle k g i o = { s with psc := settledPsc k g i o s.psc } := by
  have flies : roundSettled g (settledPsc k g i o s.psc) = false := by
    rw [roundSettled, Bool.not_eq_false', Tab.any_iff]
    exact ⟨k', by rw [slots_settledPsc_ne other, held]; exact beq_self_eq_true _⟩
  exact if_neg (by rw [Bool.not_eq_true]; exact flies)

/-- The command that settles a probe whose round goes on. -/
theorem exec_settles_unfinished {s : State} {c : Instr} {k k' : Fin 8} {g : Index} {i : Fin 4} {r : ProbeRequest} {o : LaneOutcome}
    (run : s.inReset = false) (consistent : SchedulerConsistent s) (h : Settles s c k g i r o) (other : k' ≠ k)
    (held : (Tab.get s.psc.slots k').state.group = some g) (queued : r ∈ s.psc.queue) (own : r.group = g) :
    ∃ rx, exec c s = .next ((s.aside rx (settledPsc k g i o s.psc)).endEvent s)
      ∧ ∀ l, (∀ p j rest, c = .echoReceived p j rest → cell p j ≠ l) → Tab.get rx l = Tab.get s.fsu.lineRx l := by
  subst own
  obtain ⟨rx, runs, received⟩ := exec_settles run (findRequest_of_mem consistent.oneRequest queued) h
  rw [settle_unfinished (s := s.aside rx s.psc) i o other held] at runs
  exact ⟨rx, runs, received⟩

/-- An echo that fails a condition of R120 for every slot is counted (R123). -/
theorem exec_echoReceived_late {s : State} {p : Fin 16} {j : Fin 4} {rest : List Byte} {a : Time} {e : EchoFields}
    (run : s.inReset = false) (arriving : Tab.get s.fsu.lineRx (cell p j) = .echo a) (read : readEcho rest = some e)
    (fails : ∀ k g i, ¬EchoMatches s k g i a e) :
    exec (.echoReceived p j rest) s = .next (s.setLineRx (cell p j) .none).countLate := by
  show execEchoReceived p j rest s = _
  unfold execEchoReceived
  rw [unlessReset_running _ run, arriving]
  simp only [read, psc_setLineRx, matchEcho_none fails]

/-- Settles O22: an echo without a match is counted; a probe settled while its round goes on is stored with its request, which is in flight
and so is passed over by the grants at the end of the event. -/
theorem echoesSettleTheirProbeOrAreLate : Obligations.EchoesSettleTheirProbeOrAreLate := by
  unfold Obligations.EchoesSettleTheirProbeOrAreLate
  refine ⟨fun s p j rest a e run arriving read fails => exec_echoReceived_late run arriving read fails, ?_⟩
  rintro s c k k' g i r o run consistent settles other held queued rfl
  obtain ⟨rx, runs, received⟩ := exec_settles_unfinished run consistent settles other held queued rfl
  obtain ⟨buc, paths, -, -, -, -, -, blocks, receive⟩ := endEvent_rest (s.aside rx (settledPsc k r.group i o s.psc)) s
  have grants := (Granted.endEvent (s.aside rx (settledPsc k r.group i o s.psc)) s).psc
  have one : ((settledPsc k r.group i o s.psc).queue.map ProbeRequest.group).Nodup := by
    rw [groups_settledPsc]
    exact consistent.oneRequest
  have stored := mem_settledPsc k i o queued
  have flies := inFlight_of_outstanding consistent held queued
  have kept : BlocksKept s (s.aside rx (settledPsc k r.group i o s.psc)) := ⟨rfl, rfl, rfl, rfl, rfl, rfl, rfl, rfl, rfl, rfl⟩
  refine ⟨_, runs, buc, paths, ?_, fun probe => ?_, grants.mem_of_flying one stored flies, kept.trans blocks,
    receive.lfr, receive.lockView, receive.ers, receive.late, fun l away => ?_⟩
  · refine Eq.trans (notices_endEvent_at (g := r.group) ?_ ?_ ?_) (groupNoticed_same (ctx_endEvent ..) _)
    exacts [fun _ _ => rfl, rfl, rfl]
  · refine grants.free_of_flying (fun x mem own => ?_) (slots_settledPsc_same ..) (group_of_probe probe)
    rw [List.inj_on_of_nodup_map one mem stored own]
    exact flies
  · rw [receive.lineRx]
    exact received l away

end Sys2Proof.Machine
end

section
/-! The arbiter's grant attempts at the end of each kind of event (R110 to R118, R120, R121, R124, R126). -/

namespace Sys2Proof.Machine

/-- The end of an event makes the grant attempts of R112. -/
theorem grantsMade_endEvent (s before : State) : GrantsMade (boundWidth s) s.psc (s.endEvent before).psc := by
  obtain ⟨-, -, -, -, -, psc, -⟩ := endEvent_rest s before
  rw [psc]
  exact grantsMade_grant s

/-- The attempts at the end of an event that left every bound width as it was. -/
theorem grantsMade_endEvent_of {s t before : State} {p : Psc} (width : ∀ g, boundWidth t g = boundWidth s g) (psc : t.psc = p) :
    GrantsMade (boundWidth s) p (t.endEvent before).psc := by
  have made := grantsMade_endEvent t before
  rwa [funext width, psc] at made

/-- A change of a context that keeps its bound copy keeps every bound width. -/
theorem boundWidth_modCtx {s : State} {g : Index} {f : Context → Context} (bound : (f (s.ctx g)).bound = (s.ctx g).bound) (h : Index) :
    boundWidth (s.modCtx g f) h = boundWidth s h := by
  unfold boundWidth
  by_cases e : h = g
  · subst e
    rw [ctx_modCtx_same, bound]
  · rw [ctx_modCtx_ne _ _ e]

/-- The poll of an AGREEING group with no request posts a ROUTINE (R110, R164). -/
theorem exec_agreementPollExpiry_posts {s : State} {g : Index} (run : s.inReset = false) (polls : (s.ctx g).poll ≠ none)
    (agreeing : (s.ctx g).state = .agreeing) (none : hasRequest s.psc.queue g = false) :
    exec (.agreementPollExpiry g) s = .next
      ((({ s with psc := { s.psc with queue := s.psc.queue ++ [newRequest g .routine s.mga.settings.discoveryRounds] } } : State).modCtx g
        fun c => { c with poll := some Config.pollInterval }).endEvent s) := by
  refine ((unlessReset_running _ run).trans (congrArg Host.Outcome.next (if_pos ⟨Option.isSome_iff_ne_none.2 polls, agreeing⟩))).trans ?_
  rw [postRequest_new none]

/-- An URGENT posting (R110): the ROUTINE request of the group is upgraded in place, or a new request joins the queue. -/
theorem postRequest_urgent (g : Index) (n : Nat) (p : Psc) : postRequest g .urgent n p =
    { p with queue :=
        if hasRequest p.queue g then p.queue.map fun q => if q.group = g ∧ q.kind = .routine then { q with kind := .urgent } else q
        else p.queue ++ [newRequest g .urgent n] } := by
  cases has : hasRequest p.queue g with
  | false => exact postRequest_new has
  | true =>
    have upgraded : modRequest p.queue g ProbeRequest.upgrade
        = p.queue.map fun q => if q.group = g ∧ q.kind = .routine then { q with kind := .urgent } else q := by
      rw [modRequest_upgrade]
      refine List.map_congr_left fun q _ => ?_
      unfold urgedKind
      split <;> rfl
    simp only [postRequest, has, if_true, upgraded]

/-- The end of the last round of a request that is no BURST takes the request away; the burst holder is another group's (R116, R124). -/
theorem endRound_settledPsc {s : State} (consistent : SchedulerConsistent s) (k : Fin 8) (i : Fin 4) (o : LaneOutcome) {r : ProbeRequest}
    (queued : r ∈ s.psc.queue) (recheck : r.kind ≠ .burst) :
    (endRound { r with outcomes := Tab.set r.outcomes i (some o) } (settledPsc k r.group i o s.psc)).1
      = { s.psc with
          slots := Tab.upd s.psc.slots k fun sl => { sl with state := .free }
          queue := s.psc.queue.filter fun q => q.group != r.group } := by
  have last : r.rounds - 1 = 0 := by rw [(consistent.rounds r queued).2 recheck]
  have holder : releaseHolder r.group s.psc.holder = s.psc.holder := if_neg fun holds => by
    obtain ⟨x, mem, same, burst⟩ := consistent.holder r.group holds
    exact recheck (List.inj_on_of_nodup_map consistent.oneRequest mem queued same ▸ burst)
  have queue : dropRequest (settledPsc k r.group i o s.psc).queue r.group = s.psc.queue.filter fun q => q.group != r.group :=
    filter_modRequest_group s.psc.queue r.group _ fun _ => rfl
  unfold endRound
  rw [if_pos last]
  dsimp only
  rw [queue]
  show ({ settledPsc k r.group i o s.psc with queue := _, holder := releaseHolder r.group s.psc.holder } : Psc) = _
  rw [holder]
  rfl

/-- The command that settles the last probe of a round of a HELD group, where no echo brings a view (R124, R178). -/
theorem exec_settles_held {s : State} {c : Instr} {k : Fin 8} {i : Fin 4} {r : ProbeRequest} {o : LaneOutcome}
    (run : s.inReset = false) (consistent : SchedulerConsistent s) (h : Settles s c k r.group i r o) (queued : r ∈ s.psc.queue)
    (last : ∀ k', k' ≠ k → (Tab.get s.psc.slots k').state.group ≠ some r.group) (held : (s.ctx r.group).state = .held)
    (recheck : r.kind ≠ .burst)
    (viewless : ∀ n order v, ¬ViewCandidate s.mga.identity (s.ctx r.group).record (boundWidth s r.group)
      (Tab.set r.outcomes i (some o)) n order v) :
    ∃ rx, exec c s = .next ((s.aside rx { s.psc with
      slots := Tab.upd s.psc.slots k fun sl => { sl with state := .free }
      queue := s.psc.queue.filter fun q => q.group != r.group }).endEvent s) := by
  obtain ⟨rx, runs, -⟩ := exec_settles run (findRequest_of_mem consistent.oneRequest queued) h
  refine ⟨rx, runs.trans ?_⟩
  have consistent' : SchedulerConsistent (s.aside rx s.psc) :=
    ⟨consistent.oneRequest, consistent.holder, consistent.owned, consistent.flying, consistent.offsets, consistent.rounds⟩
  rw [settle_last consistent' i o h.own last queued rfl, endRound_result, ← endRound_settledPsc consistent k i o queued recheck]
  have quiet : ∀ p, (s.aside rx p).roundResult (r.resultWith i o) = s.aside rx p := fun p => by
    have viewless : resultView (s.aside rx p) (r.resultWith i o) = none := resultView_none viewless
    rw [roundResult_recheck (r := r.resultWith i o) recheck, recheckRound_held (s := s.aside rx p) (r := r.resultWith i o) held, viewless]
    rfl
  exact congrArg (fun t => Host.Outcome.next (State.endEvent t s)) (quiet _)

/-- The command that reports a LOSS on a lane of a running group abandons the group's probe work (R66, R126). -/
theorem exec_loss_running {s : State} {p : Fin 16} {j : Fin 4} {g : Index} {c : Instr} (run : s.inReset = false)
    (locked : s.rx (cell p j) = .locked) (loss : c = .lockLost p j ∨ c = .signalLost p j)
    (covered : covering s.cpt.plan (cell p j) = some g) (running : (s.ctx g).state = .discovering ∨ passedVerdict (s.ctx g).state) :
    ∃ into, exec c s = .next (((s.lostAt (cell p j) into).enter g .lost .lockLost none).endEvent s) := by
  obtain ⟨into, exec⟩ := exec_loss run locked loss
  rw [loseLock_covered into covered, contextLoss_running (s := s.lostAt (cell p j) into) running] at exec
  exact ⟨into, exec⟩

/-- Settles O25: what each event leaves in the queue and the slots, and the grant attempts its end makes of that. -/
theorem arbiterGrantsInItsOrder : Obligations.ArbiterGrantsInItsOrder := by
  unfold Obligations.ArbiterGrantsInItsOrder
  refine ⟨grantsMade_endEvent, ?_, ?_, ?_, ?_, ?_⟩
  · intro s g run polls agreeing none posted
    exact ⟨_, exec_agreementPollExpiry_posts run polls agreeing none,
      grantsMade_endEvent_of (fun h => boundWidth_modCtx rfl h) rfl⟩
  · intro s r a b g run first code args index bits checked posted upgraded
    have posts := recheckAction_checked checked
    exact ⟨_, exec_groupAction_one (x := .recheck) run first code args (pickAction_recheck bits) index posts,
      grantsMade_endEvent_of (fun _ => rfl) (postRequest_urgent g _ s.psc)⟩
  · rintro s c k g i r o run consistent settles queued rfl slots stored last
    refine ⟨fun unfinished => ?_, fun finished held recheck viewless => ?_⟩
    · obtain ⟨k', other, flies⟩ : ∃ k', k' ≠ k ∧ (Tab.get s.psc.slots k').state.group = some r.group := by
        simpa [last] using unfinished
      obtain ⟨rx, runs, -⟩ := exec_settles_unfinished run consistent settles other flies queued rfl
      exact ⟨_, runs, grantsMade_endEvent_of (fun _ => rfl) rfl⟩
    · obtain ⟨rx, runs⟩ := exec_settles_held run consistent settles queued finished held recheck viewless
      exact ⟨_, runs, grantsMade_endEvent_of (fun _ => rfl) rfl⟩
  · intro s p j g c run locked loss covered running abandoned
    obtain ⟨into, runs⟩ := exec_loss_running run locked loss covered running
    exact ⟨_, runs, grantsMade_endEvent_of (fun h => boundWidth_enter (s.lostAt (cell p j) into) g .lost .lockLost none h)
      (psc_enter ..)⟩
  · intro W c psc enough
    have round := roundGranted_grantRound c W.lanes_le_four enough
    exact ⟨round.taken, round.kept⟩

end Sys2Proof.Machine
end

section
/-! The agreement of the probe scheduler's queue and slots through each of its own operations: posting, abandonment, settling, the end of a
round, and the grants (R109, R112, R116, R117). -/

namespace Sys2Proof.Machine

/-! ## The agreement, said of the scheduler alone -/

theorem group_eq_probe (st : SlotState) : st.group = st.probe.map Prod.fst := by cases st <;> rfl

/-- What SchedulerConsistent says but for rounds in flight: one request per group; the burst holder is a BURST in the queue; every outstanding
probe belongs to a request in flight, no two to one lane offset of a group; and the rounds owed. -/
structure Psc.Sound (p : Psc) : Prop where
  oneRequest : (p.queue.map ProbeRequest.group).Nodup
  holder : ∀ h, p.holder = some h → ∃ r ∈ p.queue, r.group = h ∧ r.kind = .burst
  owned : ∀ k g, (Tab.get p.slots k).state.group = some g → ∃ r ∈ p.queue, r.group = g ∧ r.inFlight = true
  offsets : ∀ k k' g i, (Tab.get p.slots k).state.probe = some (g, i) → (Tab.get p.slots k').state.probe = some (g, i) → k = k'
  rounds : ∀ r ∈ p.queue, 1 ≤ r.rounds ∧ (r.kind ≠ .burst → r.rounds = 1)

/-- A round of the request in flight has an outstanding probe. -/
def Psc.Outstanding (p : Psc) (g : Index) : Prop := ∃ k, (Tab.get p.slots k).state.group = some g

/-- The queue and the slots agree. -/
structure Psc.Agrees (p : Psc) : Prop where
  sound : p.Sound
  flying : ∀ r ∈ p.queue, r.inFlight = true → p.Outstanding r.group

theorem schedulerConsistent_iff (s : State) : SchedulerConsistent s ↔ s.psc.Agrees :=
  ⟨fun h => ⟨⟨h.oneRequest, h.holder, h.owned, h.offsets, h.rounds⟩, h.flying⟩,
    fun h => ⟨h.sound.oneRequest, h.sound.holder, h.sound.owned, h.flying, h.sound.offsets, h.sound.rounds⟩⟩

/-- The requests are for enabled entries of a plan, and so are the outstanding probes, each for a lane offset of its entry. -/
structure Psc.Planned (plan : Tab PlanEntry 64) (p : Psc) : Prop where
  requests : ∀ r ∈ p.queue, (Tab.get plan r.group).enabled = true
  probes : ∀ k g i, (Tab.get p.slots k).state.probe = some (g, i) →
    (Tab.get plan g).enabled = true ∧ i.val < (Tab.get plan g).fields.width.lanes

/-! ## No two outstanding probes for one lane -/

/-- An entry that is aligned covers the lanes of its offsets (R21, R23). -/
theorem covers_laneAt {g : Index} {w : Width} (aligned : (laneOf g).val % w.lanes = 0) {i : Nat} (inside : i < w.lanes) :
    covers g w (laneAt g i) = true := by
  rw [covers_iff]
  simp only [portOf, laneOf, laneAt, Fin.ext_iff] at aligned ⊢
  cases w <;> simp only [Width.lanes] at aligned inside ⊢ <;> omega

/-- Two offsets of a group are two lanes (R53). -/
theorem laneAt_injective {g : Index} {i j : Fin 4} (same : laneAt g i.val = laneAt g j.val) : i = j := by
  simp only [laneAt, Fin.ext_iff] at same ⊢
  omega

/-- Probes of enabled entries whose groups are apart, one for each lane offset, are for distinct lanes (R24, R117). -/
theorem lanesDistinct_iff {s : State} (tables : TablesValid s) (consistent : SchedulerConsistent s) :
    LanesDistinct s ↔ s.psc.Planned s.cpt.plan := by
  refine ⟨fun h => ⟨h.planned, h.covered⟩, fun h => ⟨h.requests, h.probes, fun k k' g i g' i' held held' lane => ?_⟩⟩
  obtain ⟨on, inside⟩ := h.probes k g i held
  obtain ⟨on', inside'⟩ := h.probes k' g' i' held'
  have covered := covers_laneAt (tables.aligned g).1 inside
  have covered' := covers_laneAt (tables.aligned g').1 inside'
  obtain rfl : g = g' := tables.disjoint g g' _ on on' covered (lane ▸ covered')
  obtain rfl := laneAt_injective lane
  exact consistent.offsets k k' g i held held'

/-! ## What the agreement looks at -/

/-- The queue, the burst holder and the probes in the slots are the same. -/
structure Psc.SameWork (p q : Psc) : Prop where
  queue : q.queue = p.queue
  holder : q.holder = p.holder
  probes : ∀ k, (Tab.get q.slots k).state.probe = (Tab.get p.slots k).state.probe

theorem Psc.SameWork.refl (p : Psc) : p.SameWork p := ⟨rfl, rfl, fun _ => rfl⟩

theorem Psc.SameWork.groups {p q : Psc} (h : p.SameWork q) (k : Fin 8) :
    (Tab.get q.slots k).state.group = (Tab.get p.slots k).state.group := by
  rw [group_eq_probe, group_eq_probe, h.probes]

theorem Psc.Agrees.same {p q : Psc} (h : p.Agrees) (same : p.SameWork q) : q.Agrees := by
  obtain ⟨⟨one, holder, owned, offsets, rounds⟩, flying⟩ := h
  refine ⟨⟨?_, ?_, ?_, ?_, ?_⟩, ?_⟩
  all_goals simp only [Psc.Outstanding, same.queue, same.holder, same.probes, same.groups]
  exacts [one, holder, owned, offsets, rounds, flying]

theorem Psc.Planned.same {plan : Tab PlanEntry 64} {p q : Psc} (h : p.Planned plan) (same : p.SameWork q) : q.Planned plan := by
  constructor
  all_goals simp only [same.queue, same.probes]
  exacts [h.requests, h.probes]

/-- A slot that holds a probe is as it was, where slots are only freed. -/
theorem probe_of_freed {a b : Slot} (freed : b = a ∨ b.state = .free) {x : Index × Fin 4} (held : b.state.probe = some x) :
    a.state.probe = some x := by
  rcases freed with rfl | free
  · exact held
  · rw [free] at held
    cases held

theorem group_of_freed {a b : Slot} (freed : b = a ∨ b.state = .free) {g : Index} (held : b.state.group = some g) :
    a.state.group = some g := by
  rcases freed with rfl | free
  · exact held
  · rw [free] at held
    cases held

/-- Requests and probes that were there before are for enabled entries still. -/
theorem Psc.Planned.shrink {plan : Tab PlanEntry 64} {p q : Psc} (h : p.Planned plan)
    (queue : ∀ r ∈ q.queue, ∃ x ∈ p.queue, x.group = r.group)
    (slots : ∀ k, Tab.get q.slots k = Tab.get p.slots k ∨ (Tab.get q.slots k).state = .free) : q.Planned plan where
  requests r mem := by
    obtain ⟨x, mem, own⟩ := queue r mem
    exact own ▸ h.requests x mem
  probes k g i held := h.probes k g i (probe_of_freed (slots k) held)

/-- Requests changed in place, and slots freed. -/
theorem Psc.Sound.changed {p q : Psc} (h : p.Sound) (f : ProbeRequest → ProbeRequest) (queue : q.queue = p.queue.map f)
    (holder : q.holder = p.holder) (groups : ∀ r, (f r).group = r.group) (bursts : ∀ r, r.kind = .burst → (f r).kind = .burst)
    (slots : ∀ k, Tab.get q.slots k = Tab.get p.slots k ∨ (Tab.get q.slots k).state = .free)
    (flies : ∀ r ∈ p.queue, r.inFlight = true → q.Outstanding r.group → (f r).inFlight = true)
    (rounds : ∀ r ∈ p.queue, 1 ≤ (f r).rounds ∧ ((f r).kind ≠ .burst → (f r).rounds = 1)) : q.Sound where
  oneRequest := by
    have same : ProbeRequest.group ∘ f = ProbeRequest.group := funext groups
    rw [queue, List.map_map, same]
    exact h.oneRequest
  holder g holds := by
    obtain ⟨r, mem, own, burst⟩ := h.holder g (holder ▸ holds)
    exact ⟨f r, queue ▸ List.mem_map_of_mem mem, (groups r).trans own, bursts r burst⟩
  owned k g held := by
    obtain ⟨r, mem, rfl, flying⟩ := h.owned k g (group_of_freed (slots k) held)
    exact ⟨f r, queue ▸ List.mem_map_of_mem mem, groups r, flies r mem flying ⟨k, held⟩⟩
  offsets k k' g i held held' := h.offsets k k' g i (probe_of_freed (slots k) held) (probe_of_freed (slots k') held')
  rounds r mem := by
    rw [queue] at mem
    obtain ⟨x, was, rfl⟩ := List.mem_map.1 mem
    exact rounds x was

/-! ## Abandonment -/

theorem mem_dropRequest {q : List ProbeRequest} {g : Index} {r : ProbeRequest} : r ∈ dropRequest q g ↔ r ∈ q ∧ r.group ≠ g := by
  rw [dropRequest, List.mem_filter, bne_iff_ne]

/-- Abandonment frees the slots of its group and leaves the others (R126). -/
theorem slots_abandonProbes (g : Index) (p : Psc) (k : Fin 8) :
    Tab.get (abandonProbes g p).slots k = Tab.get p.slots k ∨ (Tab.get (abandonProbes g p).slots k).state = .free := by
  simp only [abandonProbes, Tab.get_map, Slot.freeIf]
  split
  · exact .inr rfl
  · exact .inl rfl

/-- Abandonment needs no agreement of its own group's round (R126). -/
theorem Psc.Sound.abandonProbes {p : Psc} (h : p.Sound) (g : Index) : (abandonProbes g p).Sound where
  oneRequest := h.oneRequest.sublist (List.filter_sublist.map _)
  holder k holds := by
    have apart : k ≠ g := fun same => (abandonProbes_noWork g p).2.2 (same ▸ holds)
    have before : p.holder = some k := by
      simp only [Machine.abandonProbes, releaseHolder] at holds
      split at holds
      · cases holds
      · exact holds
    obtain ⟨r, mem, own, burst⟩ := h.holder k before
    exact ⟨r, mem_dropRequest.2 ⟨mem, own ▸ apart⟩, own, burst⟩
  owned k j held := by
    have apart : j ≠ g := fun same => (abandonProbes_noWork g p).2.1 k (same ▸ held)
    obtain ⟨r, mem, own, flies⟩ := h.owned k j (group_of_freed (slots_abandonProbes g p k) held)
    exact ⟨r, mem_dropRequest.2 ⟨mem, own ▸ apart⟩, own, flies⟩
  offsets k k' j i held held' :=
    h.offsets k k' j i (probe_of_freed (slots_abandonProbes g p k) held) (probe_of_freed (slots_abandonProbes g p k') held')
  rounds r mem := h.rounds r (mem_dropRequest.1 mem).1

theorem Psc.Agrees.abandonProbes {p : Psc} (h : p.Agrees) (g : Index) : (abandonProbes g p).Agrees where
  sound := h.sound.abandonProbes g
  flying r mem flies := by
    obtain ⟨mem, apart⟩ := mem_dropRequest.1 mem
    obtain ⟨k, held⟩ := h.flying r mem flies
    exact ⟨k, by rw [abandonProbes_slots apart held]; exact held⟩

theorem Psc.Planned.abandonProbes {plan : Tab PlanEntry 64} {p : Psc} (h : p.Planned plan) (g : Index) :
    (abandonProbes g p).Planned plan :=
  h.shrink (fun r mem => ⟨r, (mem_dropRequest.1 mem).1, rfl⟩) (slots_abandonProbes g p)

/-! ## Posting -/

theorem upgrade_terms (r : ProbeRequest) : r.upgrade.group = r.group ∧ r.upgrade.rounds = r.rounds ∧ r.upgrade.inFlight = r.inFlight
    ∧ (r.upgrade.kind = .burst ↔ r.kind = .burst) := by
  unfold ProbeRequest.upgrade
  split <;> simp_all

/-- A posting does nothing, upgrades the group's request in place, or adds a request that waits (R110). -/
theorem postRequest_cases (g : Index) (kind : RequestKind) (n : Nat) (p : Psc) :
    postRequest g kind n p = p ∨ postRequest g kind n p = { p with queue := modRequest p.queue g ProbeRequest.upgrade }
      ∨ hasRequest p.queue g = false ∧ postRequest g kind n p = { p with queue := p.queue ++ [newRequest g kind n] } := by
  cases has : hasRequest p.queue g with
  | false => exact .inr (.inr ⟨rfl, postRequest_new has⟩)
  | true => cases kind <;> simp [postRequest, has]

theorem Psc.Agrees.upgrade {p : Psc} (h : p.Agrees) (g : Index) :
    ({ p with queue := modRequest p.queue g ProbeRequest.upgrade } : Psc).Agrees where
  sound := by
    refine h.sound.changed _ rfl rfl (fun r => ?_) (fun r burst => ?_) (fun k => .inl rfl) (fun r mem flies _ => ?_) fun r mem => ?_
    all_goals split
    exacts [(upgrade_terms r).1, rfl, (upgrade_terms r).2.2.2.2 burst, burst, (upgrade_terms r).2.2.1.trans flies, flies,
      by simpa only [ne_eq, upgrade_terms] using h.sound.rounds r mem, h.sound.rounds r mem]
  flying r mem flies := by
    obtain ⟨x, was, rfl⟩ := List.mem_map.1 mem
    split at flies
    · next own =>
      rw [if_pos own, (upgrade_terms x).1]
      exact h.flying x was ((upgrade_terms x).2.2.1.symm.trans flies)
    · next other =>
      rw [if_neg other]
      exact h.flying x was flies

theorem Psc.Agrees.append {p : Psc} (h : p.Agrees) {r : ProbeRequest} (fresh : hasRequest p.queue r.group = false)
    (waits : r.inFlight = false) (rounds : 1 ≤ r.rounds ∧ (r.kind ≠ .burst → r.rounds = 1)) :
    ({ p with queue := p.queue ++ [r] } : Psc).Agrees where
  sound :=
    { oneRequest := by
        rw [List.map_append]
        refine List.nodup_append.2 ⟨h.sound.oneRequest, List.nodup_singleton _, fun g mem k new same => ?_⟩
        obtain ⟨x, queued, rfl⟩ := List.mem_map.1 mem
        exact hasRequest_false_iff.1 fresh x queued (same.trans (List.mem_singleton.1 new))
      holder := fun g holds => by
        obtain ⟨x, mem, own⟩ := h.sound.holder g holds
        exact ⟨x, List.mem_append_left _ mem, own⟩
      owned := fun k g held => by
        obtain ⟨x, mem, own⟩ := h.sound.owned k g held
        exact ⟨x, List.mem_append_left _ mem, own⟩
      offsets := h.sound.offsets
      rounds := fun x mem => (List.mem_append.1 mem).elim (h.sound.rounds x) fun new => List.mem_singleton.1 new ▸ rounds }
  flying x mem flies := (List.mem_append.1 mem).elim (fun old => h.flying x old flies) fun new => by
    rw [List.mem_singleton.1 new, waits] at flies
    cases flies

/-- A posting, of a BURST with a round at least (R110). -/
theorem Psc.Agrees.postRequest {p : Psc} (h : p.Agrees) (g : Index) (kind : RequestKind) {n : Nat} (rounds : 1 ≤ n) :
    (postRequest g kind n p).Agrees := by
  rcases postRequest_cases g kind n p with same | same | ⟨fresh, same⟩ <;> rw [same]
  · exact h
  · exact h.upgrade g
  · refine h.append fresh rfl ?_
    cases kind
    · exact ⟨rounds, fun no => absurd rfl no⟩
    all_goals exact ⟨Nat.le_refl 1, fun _ => rfl⟩

theorem Psc.Planned.postRequest {plan : Tab PlanEntry 64} {p : Psc} (h : p.Planned plan) {g : Index} (kind : RequestKind) (n : Nat)
    (on : (Tab.get plan g).enabled = true) : (postRequest g kind n p).Planned plan := by
  rcases postRequest_cases g kind n p with same | same | ⟨-, same⟩ <;> rw [same]
  · exact h
  · refine h.shrink (fun r mem => ?_) fun k => .inl rfl
    obtain ⟨x, was, rfl⟩ := List.mem_map.1 mem
    refine ⟨x, was, ?_⟩
    split
    · exact (upgrade_terms x).1.symm
    · rfl
  · exact ⟨fun r mem => (List.mem_append.1 mem).elim (h.requests r) fun new => List.mem_singleton.1 new ▸ on, h.probes⟩

/-! ## Settling and the end of a round -/

theorem slots_settledPsc (k : Fin 8) (g : Index) (i : Fin 4) (o : LaneOutcome) (p : Psc) (k' : Fin 8) :
    Tab.get (settledPsc k g i o p).slots k' = Tab.get p.slots k' ∨ (Tab.get (settledPsc k g i o p).slots k').state = .free := by
  by_cases same : k' = k
  · subst same
    exact .inr (slots_settledPsc_same ..)
  · exact .inl (slots_settledPsc_ne same ..)

/-- A request in the queue with another outcome in its round is one that was there before. -/
theorem mem_modRequest {q : List ProbeRequest} {g : Index} {f : ProbeRequest → ProbeRequest} {r : ProbeRequest} (mem : r ∈ modRequest q g f) :
    ∃ x ∈ q, r = if x.group = g then f x else x := by
  obtain ⟨x, mem, same⟩ := List.mem_map.1 mem
  exact ⟨x, mem, same.symm⟩

theorem Psc.Sound.settledPsc {p : Psc} (h : p.Sound) (k : Fin 8) (g : Index) (i : Fin 4) (o : LaneOutcome) :
    (settledPsc k g i o p).Sound := by
  refine h.changed _ rfl rfl (fun r => ?_) (fun r burst => ?_) (slots_settledPsc k g i o p) (fun r mem flies _ => ?_) fun r mem => ?_
  all_goals split
  exacts [rfl, rfl, burst, burst, flies, flies, h.rounds r mem, h.rounds r mem]

/-- A probe settled leaves the rounds of other groups outstanding. -/
theorem outstanding_settledPsc {p : Psc} (h : p.Agrees) {k : Fin 8} {g : Index} (i : Fin 4) (o : LaneOutcome)
    (own : (Tab.get p.slots k).state.group = some g) {r : ProbeRequest} (mem : r ∈ (settledPsc k g i o p).queue) (other : r.group ≠ g)
    (flies : r.inFlight = true) : (settledPsc k g i o p).Outstanding r.group := by
  obtain ⟨x, was, rfl⟩ := mem_modRequest mem
  split at other
  · next same => exact absurd same other
  · next apart =>
    rw [if_neg apart] at flies ⊢
    obtain ⟨k', held⟩ := h.flying x was flies
    have distinct : k' ≠ k := by
      rintro rfl
      exact apart (Option.some.inj (held.symm.trans own))
    exact ⟨k', by rw [slots_settledPsc_ne distinct]; exact held⟩

/-- A probe settled while another of its group is outstanding (R120, R121). -/
theorem Psc.Agrees.settled_unfinished {p : Psc} (h : p.Agrees) {k : Fin 8} {g : Index} (i : Fin 4) (o : LaneOutcome)
    (own : (Tab.get p.slots k).state.group = some g) (unfinished : (settledPsc k g i o p).Outstanding g) :
    (settledPsc k g i o p).Agrees where
  sound := h.sound.settledPsc k g i o
  flying r mem flies := by
    by_cases same : r.group = g
    · exact same ▸ unfinished
    · exact outstanding_settledPsc h i o own mem same flies

/-- With no probe of its group outstanding, the end of a request's last round abandons what is left of its probe work (R124, R126). -/
theorem endRound_last {p : Psc} {r : ProbeRequest} (settled : ¬p.Outstanding r.group) (last : r.rounds - 1 = 0) :
    (endRound r p).1 = abandonProbes r.group p := by
  have slots : Tab.map (Slot.freeIf r.group) p.slots = p.slots := Tab.ext fun k => by
    rw [Tab.get_map]
    exact if_neg fun held => settled ⟨k, held⟩
  unfold endRound
  rw [if_pos last, Machine.abandonProbes, slots]

theorem endRound_owing {p : Psc} {r : ProbeRequest} (owes : r.rounds - 1 ≠ 0) : (endRound r p).1
    = { p with queue := modRequest p.queue r.group fun x => { x with inFlight := false, rounds := r.rounds - 1 } } := by
  unfold endRound
  rw [if_neg owes]

/-- The end of a round of a request whose probes are all settled (R124). -/
theorem Psc.Sound.endRound {p : Psc} (h : p.Sound) {r : ProbeRequest} (queued : r ∈ p.queue) (settled : ¬p.Outstanding r.group)
    (others : ∀ x ∈ p.queue, x.group ≠ r.group → x.inFlight = true → p.Outstanding x.group) : (endRound r p).1.Agrees := by
  by_cases last : r.rounds - 1 = 0
  · rw [endRound_last settled last]
    refine ⟨h.abandonProbes r.group, fun x mem flies => ?_⟩
    obtain ⟨mem, apart⟩ := mem_dropRequest.1 mem
    obtain ⟨k, held⟩ := others x mem apart flies
    exact ⟨k, by rw [abandonProbes_slots apart held]; exact held⟩
  · rw [endRound_owing last]
    have burst : r.kind = .burst := by
      by_contra recheck
      have one := (h.rounds r queued).2 recheck
      omega
    refine ⟨h.changed _ rfl rfl (fun x => ?_) (fun x burst => ?_) (fun k => .inl rfl) (fun x mem flies out => ?_) fun x mem => ?_,
      fun x mem flies => ?_⟩
    · dsimp only
      split <;> rfl
    · dsimp only
      split <;> exact burst
    · rw [if_neg fun same : x.group = r.group => settled (same ▸ out)]
      exact flies
    · split
      · next same =>
        obtain rfl := List.inj_on_of_nodup_map h.oneRequest mem queued same
        exact ⟨Nat.one_le_iff_ne_zero.2 last, fun recheck => absurd burst recheck⟩
      · exact h.rounds x mem
    · obtain ⟨y, was, rfl⟩ := mem_modRequest mem
      split at flies
      · cases flies
      · next apart =>
        rw [if_neg apart]
        exact others y was apart flies

theorem Psc.Planned.settledPsc {plan : Tab PlanEntry 64} {p : Psc} (h : p.Planned plan) (k : Fin 8) (g : Index) (i : Fin 4)
    (o : LaneOutcome) : (settledPsc k g i o p).Planned plan := by
  refine h.shrink (fun r mem => ?_) (slots_settledPsc k g i o p)
  obtain ⟨x, was, rfl⟩ := mem_modRequest mem
  exact ⟨x, was, by split <;> rfl⟩

theorem Psc.Planned.endRound {plan : Tab PlanEntry 64} {p : Psc} (h : p.Planned plan) (r : ProbeRequest) :
    (endRound r p).1.Planned plan := by
  unfold Machine.endRound
  dsimp only
  split
  · exact h.shrink (fun x mem => ⟨x, (mem_dropRequest.1 mem).1, rfl⟩) fun k => .inl rfl
  · refine h.shrink (fun x mem => ?_) fun k => .inl rfl
    obtain ⟨y, was, rfl⟩ := mem_modRequest mem
    exact ⟨y, was, by split <;> rfl⟩

/-! ## Grants -/

/-- A slot after a grant: as it was, or FREE before and taken for the lane offset of its place among the FREE slots (R118). -/
theorem RoundGranted.slot_cases {W : Nat} {c : ProbeRequest} {p q : Psc} (round : RoundGranted W c p q) (lanes : W ≤ 4) (k : Fin 8) :
    Tab.get q.slots k = Tab.get p.slots k
      ∨ ∃ i : Fin 4, i.val < W ∧ (freeSlots p)[i.val]? = some k ∧ (Tab.get q.slots k).state = .granted c.group i := by
  by_cases taken : k ∈ (freeSlots p).take W
  · obtain ⟨n, place⟩ := List.mem_iff_getElem?.1 taken
    have small : n < W := by
      by_contra large
      rw [List.getElem?_take_eq_none (Nat.le_of_not_lt large)] at place
      cases place
    rw [List.getElem?_take_of_lt small] at place
    exact .inr ⟨⟨n, by omega⟩, small, place, congrArg Slot.state (round.taken ⟨n, by omega⟩ k small place)⟩
  · exact .inl (round.kept k taken)

/-- A slot that held a probe before a grant is as it was. -/
theorem RoundGranted.slot_held {W : Nat} {c : ProbeRequest} {p q : Psc} (round : RoundGranted W c p q) {k : Fin 8}
    (held : (Tab.get p.slots k).state ≠ .free) : Tab.get q.slots k = Tab.get p.slots k :=
  round.kept k fun taken => held (mem_freeSlots.1 (List.mem_of_mem_take taken))

/-- A request that waits has no probe outstanding. -/
theorem Psc.Sound.not_outstanding {p : Psc} (h : p.Sound) {c : ProbeRequest} (queued : c ∈ p.queue) (waits : c.inFlight = false) :
    ¬p.Outstanding c.group := fun ⟨k, held⟩ => by
  obtain ⟨r, mem, own, flies⟩ := h.owned k c.group held
  rw [List.inj_on_of_nodup_map h.oneRequest mem queued own, waits] at flies
  cases flies

/-- A round of a group without outstanding probes gives each lane offset one slot (R118). -/
theorem RoundGranted.offsets {W : Nat} {c : ProbeRequest} {p q : Psc} (round : RoundGranted W c p q) (lanes : W ≤ 4)
    (vacant : ¬p.Outstanding c.group)
    (apart : ∀ k k' g i, (Tab.get p.slots k).state.probe = some (g, i) → (Tab.get p.slots k').state.probe = some (g, i) → k = k')
    (k k' : Fin 8) (g : Index) (i : Fin 4) (held : (Tab.get q.slots k).state.probe = some (g, i))
    (held' : (Tab.get q.slots k').state.probe = some (g, i)) : k = k' := by
  rcases round.slot_cases lanes k with same | ⟨j, -, place, taken⟩ <;>
    rcases round.slot_cases lanes k' with same' | ⟨j', -, place', taken'⟩
  · exact apart k k' g i (same ▸ held) (same' ▸ held')
  · rw [taken'] at held'
    cases held'
    exact absurd ⟨k, group_of_probe (same ▸ held)⟩ vacant
  · rw [taken] at held
    cases held
    exact absurd ⟨k', group_of_probe (same' ▸ held')⟩ vacant
  · rw [taken] at held
    rw [taken'] at held'
    cases held
    cases held'
    exact Option.some.inj (place.symm.trans place')

/-- A round granted to a request that waits (R116, R118). -/
theorem RoundGranted.sound {W : Nat} {c : ProbeRequest} {p q : Psc} (round : RoundGranted W c p q) (h : p.Sound) (queued : c ∈ p.queue)
    (waits : c.inFlight = false) (lanes : W ≤ 4) : q.Sound := by
  have granted : ∀ r ∈ p.queue, (if r.group = c.group then { r with inFlight := true, outcomes := Tab.fill none } else r) ∈ q.queue :=
    fun r mem => round.queue ▸ List.mem_map_of_mem mem
  refine ⟨?_, fun g holds => ?_, fun k g held => ?_, round.offsets lanes (h.not_outstanding queued waits) h.offsets, fun r mem => ?_⟩
  · rw [round.queue]
    exact (congrArg List.Nodup (groups_modRequest p.queue c.group (f := fun r => { r with inFlight := true, outcomes := Tab.fill none })
      fun _ => rfl)).mpr h.oneRequest
  · have burst : ∃ r ∈ p.queue, r.group = g ∧ r.kind = .burst := by
      rw [round.holder] at holds
      split at holds
      · next takes => exact ⟨c, queued, Option.some.inj holds, takes.1⟩
      · exact h.holder g holds
    obtain ⟨r, mem, own, burst⟩ := burst
    refine ⟨_, granted r mem, ?_⟩
    split <;> exact ⟨own, burst⟩
  · rcases round.slot_cases lanes k with same | ⟨i, -, -, taken⟩
    · obtain ⟨r, mem, own, flies⟩ := h.owned k g (same ▸ held)
      refine ⟨_, granted r mem, ?_⟩
      split
      · exact ⟨own, rfl⟩
      · exact ⟨own, flies⟩
    · rw [taken] at held
      exact ⟨_, granted c queued, by rw [if_pos rfl]; exact ⟨Option.some.inj held, rfl⟩⟩
  · rw [round.queue] at mem
    obtain ⟨x, was, rfl⟩ := mem_modRequest mem
    split <;> exact h.rounds x was

/-- A round granted has a lane at least, so its probes are outstanding (R118). -/
theorem RoundGranted.agrees {W : Nat} {c : ProbeRequest} {p q : Psc} (round : RoundGranted W c p q) (h : p.Agrees) (queued : c ∈ p.queue)
    (waits : c.inFlight = false) (lanes : 1 ≤ W ∧ W ≤ 4) (enough : W ≤ (freeSlots p).length) : q.Agrees where
  sound := round.sound h.sound queued waits lanes.2
  flying r mem flies := by
    rw [round.queue] at mem
    obtain ⟨x, was, rfl⟩ := mem_modRequest mem
    split at flies
    · next own =>
      rw [if_pos own]
      obtain ⟨k, rest, free⟩ := List.exists_cons_of_length_pos (l := freeSlots p) (by omega)
      have taken := round.taken 0 k (Nat.lt_of_lt_of_le Nat.one_pos lanes.1) (show (freeSlots p)[0]? = some k by rw [free]; rfl)
      exact ⟨k, by rw [taken]; exact congrArg some own.symm⟩
    · next other =>
      rw [if_neg other]
      obtain ⟨k, held⟩ := h.flying x was flies
      exact ⟨k, by rw [round.slot_held fun free => by rw [free] at held; cases held]; exact held⟩

theorem RoundGranted.planned {W : Nat} {c : ProbeRequest} {p q : Psc} {plan : Tab PlanEntry 64} (round : RoundGranted W c p q)
    (h : p.Planned plan) (queued : c ∈ p.queue) (lanes : W ≤ 4) (width : W ≤ (Tab.get plan c.group).fields.width.lanes) :
    q.Planned plan where
  requests r mem := by
    rw [round.queue] at mem
    obtain ⟨x, was, rfl⟩ := mem_modRequest mem
    split <;> exact h.requests x was
  probes k g i held := by
    rcases round.slot_cases lanes k with same | ⟨j, small, -, taken⟩
    · exact h.probes k g i (same ▸ held)
    · rw [taken] at held
      cases held
      exact ⟨h.requests c queued, Nat.lt_of_lt_of_le small width⟩

/-- The grant attempts of an event, for widths of one to four lanes (R112). -/
theorem GrantsMade.agrees {width : Index → Nat} (lanes : ∀ g, 1 ≤ width g ∧ width g ≤ 4) {p q : Psc} (made : GrantsMade width p q)
    (h : p.Agrees) : q.Agrees := by
  induction made with
  | none | blocked => exact h
  | granted candidate passes round _ ih =>
    obtain ⟨queued, waits⟩ := candidate.waits
    exact ih (round.agrees h queued waits (lanes _) passes.1)

/-- The grant attempts of an event, with the widths of the plan for the groups whose entry is enabled (R112). -/
theorem GrantsMade.planned {width : Index → Nat} {plan : Tab PlanEntry 64} (lanes : ∀ g, width g ≤ 4)
    (widths : ∀ g, (Tab.get plan g).enabled = true → width g = (Tab.get plan g).fields.width.lanes) {p q : Psc}
    (made : GrantsMade width p q) (h : p.Planned plan) : q.Planned plan := by
  induction made with
  | none | blocked => exact h
  | granted candidate _ round _ ih =>
    have queued := candidate.waits.1
    exact ih (round.planned h queued (lanes _) (widths _ (h.requests _ queued)).le)

end Sys2Proof.Machine
end

section
/-! What the probe scheduler's agreement rests on, through each operation on a context: the tables, the contexts, the queue and the slots
(R55 to R60, R101 to R106, R110, R124 to R126). -/

namespace Sys2Proof.Machine

/-! ## The parts that the scheduler's agreement rests on -/

/-- The tables are valid, and the queue and the slots agree; and where planned is asked for, the contexts are valid, and the requests and
the probes are for enabled entries. -/
structure Scheduled (planned : Prop) (s : State) : Prop where
  tables : TablesValid s
  agrees : s.psc.Agrees
  contexts : planned → ContextsValid s
  plan : planned → s.psc.Planned s.cpt.plan

/-- What one part of an event does to the scheduler, and to what it rests on, keeps them in agreement. -/
structure KeepsScheduled (s t : State) : Prop where
  keep : ∀ {planned}, Scheduled planned s → Scheduled planned t

theorem KeepsScheduled.refl {s : State} : KeepsScheduled s s := ⟨id⟩

theorem KeepsScheduled.trans {s t u : State} (a : KeepsScheduled s t) (b : KeepsScheduled t u) : KeepsScheduled s u :=
  ⟨fun h => b.keep (a.keep h)⟩

/-- An operation given to contexts one after another. -/
theorem KeepsScheduled.fold {α : Type} {f : State → α → State} (each : ∀ s x, KeepsScheduled s (f s x)) (xs : List α) (s : State) :
    KeepsScheduled s (xs.foldl f s) := by
  induction xs generalizing s with
  | nil => exact .refl
  | cons x rest ih => exact (each s x).trans (ih _)

/-- A change that leaves the scheduler's work and the plan as they are. -/
theorem KeepsScheduled.quiet {s t : State} (tables : TablesValid s → TablesValid t) (contexts : ContextsValid s → ContextsValid t)
    (work : s.psc.SameWork t.psc) (plan : t.cpt.plan = s.cpt.plan) : KeepsScheduled s t where
  keep h :=
    ⟨tables h.tables, h.agrees.same work, fun ask => contexts (h.contexts ask), fun ask => plan ▸ (h.plan ask).same work⟩

/-- A change at one context that leaves the scheduler alone. -/
theorem KeepsScheduled.move {s t : State} {g : Index} (m : ContextMove g s t) (psc : t.psc = s.psc) : KeepsScheduled s t :=
  .quiet (·.move (.context m)) (·.contextMove m) (psc ▸ .refl _) (by rw [m.eventAt.blocks.cpt])

/-! ## The states of a context -/

/-- A change of state abandons the group's probe work but for the states that keep their round, and posts a BURST at DISCOVERING (R56). -/
theorem KeepsScheduled.enter_of {s : State} {g : Index} {st : GroupState} {r : Reason} {o : Option HoldOrigin}
    (planned : (s.ctx g).state ≠ .unplanned) (target : st ≠ .unplanned)
    (allowed : st = .waiting ∨ s.mga.identity.assigned = true ∨ (s.ctx g).state ≠ .waiting) :
    KeepsScheduled s (s.enter g st r o) := by
  refine ⟨fun h => ?_⟩
  have move := ContextMove.enter (g := g) (s := s) st r o planned target allowed
  have rounds := h.tables.rounds.1
  refine ⟨h.tables.move (.context move), ?_, fun ask => (h.contexts ask).contextMove move, fun ask => ?_⟩
  · rw [psc_enter]
    unfold enterPsc
    have kept : (if keepsRound st then s.psc else abandonProbes g s.psc).Agrees := by
      split
      exacts [h.agrees, h.agrees.abandonProbes g]
    dsimp only
    split
    exacts [kept.postRequest g .burst rounds, kept]
  · rw [psc_enter, move.eventAt.blocks.cpt]
    unfold enterPsc
    have on := ((contextsValid_iff s).1 (h.contexts ask) g).enabled planned
    have kept : (if keepsRound st then s.psc else abandonProbes g s.psc).Planned s.cpt.plan := by
      split
      exacts [h.plan ask, (h.plan ask).abandonProbes g]
    dsimp only
    split
    exacts [kept.postRequest .burst _ on, kept]

/-- A started context enters any planned state (R55). -/
theorem KeepsScheduled.enter {s : State} {g : Index} {st : GroupState} (h : Started s g) (r : Reason) (o : Option HoldOrigin)
    (target : st ≠ .unplanned) : KeepsScheduled s (s.enter g st r o) :=
  .enter_of h.1 target (.inr (.inr h.2))

/-- A planned context has a request posted (R110). -/
theorem KeepsScheduled.post {s : State} {g : Index} (kind : RequestKind) (planned : (s.ctx g).state ≠ .unplanned) :
    KeepsScheduled s { s with psc := postRequest g kind s.mga.settings.discoveryRounds s.psc } where
  keep h :=
    { tables := h.tables.congr rfl rfl rfl rfl
      agrees := h.agrees.postRequest g kind h.tables.rounds.1
      contexts := fun ask => (h.contexts ask).congr (fun _ => rfl) (fun _ => rfl) (fun _ => rfl) rfl
      plan := fun ask => (h.plan ask).postRequest kind _ (((contextsValid_iff s).1 (h.contexts ask) g).enabled planned) }

/-- A change of a context that keeps its state, its binding and its stale mark. -/
theorem KeepsScheduled.context {s : State} {g : Index} {f : Context → Context} (state : (f (s.ctx g)).state = (s.ctx g).state)
    (bound : (f (s.ctx g)).bound = (s.ctx g).bound) (stale : (f (s.ctx g)).stale = (s.ctx g).stale) : KeepsScheduled s (s.modCtx g f) :=
  .move (.context f state bound stale) rfl

theorem KeepsScheduled.refresh {s : State} {g : Index} (planned : (s.ctx g).state ≠ .unplanned) : KeepsScheduled s (s.refresh g) :=
  .move (.refresh planned) rfl

theorem KeepsScheduled.quarantine {s : State} {g : Index} (h : Started s g) (r : Reason) : KeepsScheduled s (s.quarantine g r) :=
  .enter h _ _ (by decide)

theorem KeepsScheduled.holdRemote {s : State} {g : Index} (h : Started s g) : KeepsScheduled s (s.holdRemote g) :=
  .enter h _ _ (by decide)

theorem KeepsScheduled.toWaiting {s : State} {g : Index} (planned : (s.ctx g).state ≠ .unplanned) (r : Reason) :
    KeepsScheduled s (s.toWaiting g r) :=
  .enter_of planned (by decide) (.inl rfl)

theorem KeepsScheduled.enterAcquiring {s : State} {g : Index} (planned : (s.ctx g).state ≠ .unplanned)
    (allowed : s.mga.identity.assigned = true ∨ (s.ctx g).state ≠ .waiting) : KeepsScheduled s (s.enterAcquiring g) := by
  have acquiring : KeepsScheduled s (s.enter g .acquiring .none none) := .enter_of planned (by decide) (.inr allowed)
  unfold State.enterAcquiring
  dsimp only
  split
  · exact acquiring.trans (.enter (.of_state (state_enter ..) (by decide)) _ _ (by decide))
  · exact acquiring

theorem KeepsScheduled.applyStart {s : State} {g : Index} (planned : (s.ctx g).state ≠ .unplanned) :
    KeepsScheduled s (s.applyStart g) := by
  unfold State.applyStart
  split
  · next pass => exact .enterAcquiring planned (.inl (assigned_of_startTest pass))
  · split
    · exact .context rfl rfl rfl
    · exact .enter_of planned (by decide) (.inl rfl)

/-! ## Lanes, ports and views -/

theorem KeepsScheduled.contextLock (s : State) (g : Index) : KeepsScheduled s (s.contextLock g) := by
  unfold State.contextLock
  split
  case h_1 | h_2 =>
    next st =>
    split
    · exact .enter (.of_state st (by decide)) _ _ (by decide)
    · exact .refl
  all_goals exact .refl

theorem KeepsScheduled.contextLoss (s : State) (g : Index) : KeepsScheduled s (s.contextLoss g) := by
  unfold State.contextLoss
  split
  case h_1 | h_2 | h_3 | h_4 =>
    next st => exact .enter (.of_state st (by decide)) _ _ (by decide)
  all_goals exact .refl

/-- A port change moves a planned context alone (R60). -/
theorem KeepsScheduled.portChange (s : State) (g : Index) (e : PortChange) : KeepsScheduled s (s.portChange g e) := by
  by_cases planned : (s.ctx g).state = .unplanned
  · simp only [State.portChange, planned]
    exact .refl
  · unfold State.portChange
    split <;> try split
    all_goals first | exact .refl | exact .applyStart planned | exact .toWaiting planned _

theorem KeepsScheduled.applyView (s : State) (g : Index) (v : View) : KeepsScheduled s (s.applyView g v) := by
  unfold State.applyView
  split
  case h_1 => exact .context rfl rfl rfl
  case h_2 | h_3 | h_4 | h_6 =>
    next st =>
    have started : Started s g := .of_state st (by decide)
    cases v
    all_goals first | exact .refl | exact .enter started _ _ (by decide)
  case h_5 =>
    next st =>
    split
    case h_5 => exact .refl
    all_goals exact .applyStart (planned_of_state st (by decide))
  all_goals exact .refl

theorem KeepsScheduled.applyRoundView (s : State) (g : Index) (v : Option View) : KeepsScheduled s (s.applyRoundView g v) := by
  cases v
  exacts [.refl, .applyView ..]

/-! ## Group actions and identity -/

theorem KeepsScheduled.holdAction (s : State) (g : Index) : KeepsScheduled s (s.holdAction g).1 := by
  unfold State.holdAction
  split
  case h_1 | h_2 => exact .refl
  case h_3 => exact .context rfl rfl rfl
  all_goals
    next st =>
    dsimp only
    exact .enter (.of_state st (by decide)) _ _ (by decide)

theorem KeepsScheduled.resumeAction (s : State) (g : Index) : KeepsScheduled s (s.resumeAction g).1 := by
  unfold State.resumeAction
  split
  · next held => exact .applyStart (planned_of_state held.1 (by decide))
  · exact .refl

theorem KeepsScheduled.recheckAction (s : State) (g : Index) : KeepsScheduled s (s.recheckAction g).1 := by
  unfold State.recheckAction
  split
  case h_5 => next st => exact .applyStart (planned_of_state st (by decide))
  case h_1 | h_2 | h_3 | h_4 => next st => exact .post _ (planned_of_state st (by decide))
  all_goals exact .refl

theorem KeepsScheduled.groupAction (a : GroupAction) (s : State) (g : Index) : KeepsScheduled s (a.apply s g).1 := by
  cases a
  exacts [.holdAction s g, .resumeAction s g, .recheckAction s g]

theorem KeepsScheduled.contextIdentity (s : State) (g : Index) : KeepsScheduled s (s.contextIdentity g) := by
  unfold State.contextIdentity
  split
  case h_8 => next st => exact .applyStart (planned_of_state st (by decide))
  case h_9 | h_10 => exact .refl
  all_goals next st => exact .enterAcquiring (planned_of_state st (by decide)) (.inr (by rw [st]; decide))

/-! ## Verdicts and rounds -/

theorem KeepsScheduled.takeOutcome {s : State} {g : Index} (h : Started s g) (o : Outcome) :
    KeepsScheduled s (s.takeOutcome g o) := by
  have load : KeepsScheduled s (s.loadFsu g) := .move (g := g) .load rfl
  have loaded : Started (s.loadFsu g) g := h
  unfold State.takeOutcome
  cases o with
  | quarantined r => exact .quarantine h r
  | agreeing => exact load.trans (.enter loaded _ _ (by decide))
  | verified => exact load.trans (.enter loaded _ _ (by decide))
  | heldRemote => exact load.trans (.holdRemote loaded)

theorem KeepsScheduled.verdict {s : State} {g : Index} (h : Started s g) : KeepsScheduled s (s.verdict g) :=
  ((KeepsScheduled.refresh h.1).trans (.context rfl rfl rfl)).trans (.takeOutcome (h.refresh.modCtx rfl) _)

theorem KeepsScheduled.burstRound {s : State} {r : RoundResult} (st : (s.ctx r.group).state = .discovering) :
    KeepsScheduled s (s.burstRound r) := by
  unfold State.burstRound
  dsimp only
  generalize hm : s.modCtx r.group (fun c =>
    { c with record := mergeRound s.mga.settings (boundWidth s r.group) r.outcomes c.record }) = merged
  have first : KeepsScheduled s merged := hm ▸ .context rfl rfl rfl
  have kept : (merged.ctx r.group).state = .discovering := by rw [← hm, ctx_modCtx_same]; exact st
  have viewed : ∀ v : Option View, KeepsScheduled s (match v with
        | some v => merged.applyView r.group v
        | none => merged)
      ∧ ((match v with
        | some v => merged.applyView r.group v
        | none => merged).ctx r.group).state = .discovering := by
    intro v
    cases v with
    | none => exact ⟨first, kept⟩
    | some v => exact ⟨first.trans (.applyView ..), state_applyView_discovering kept v⟩
  split
  · exact (viewed _).1.trans (.verdict (.of_state (viewed _).2 (by decide)))
  · exact (viewed _).1

theorem KeepsScheduled.windowStep (s : State) (g : Index) : KeepsScheduled s (s.windowStep g) := by
  have record : ∀ dr, KeepsScheduled s (s.modCtx g fun c => { c with record := dr }) := fun _ => .context rfl rfl rfl
  unfold State.windowStep
  split
  · next st _ =>
    have started : Started s g := .of_state st (by decide)
    dsimp only
    split
    · exact ((record _).trans (.enter (started.modCtx rfl) _ _ (by decide))).trans (.context rfl rfl rfl)
    · exact record _
  · next st _ =>
    have started : Started s g := .of_state st (by decide)
    dsimp only
    split
    · exact (record _).trans (.context rfl rfl rfl)
    · split
      · exact ((record _).trans (.enter (started.modCtx rfl) _ _ (by decide))).trans (.context rfl rfl rfl)
      · exact (record _).trans (.context rfl rfl rfl)
  · exact .refl

theorem KeepsScheduled.syncGate (s : State) (g : Index) : KeepsScheduled s (s.syncGate g) := by
  unfold State.syncGate
  split
  · split
    · exact .refl
    · exact .move (.gate _) (writeGate_rest ..).2.1
  · exact .refl

theorem KeepsScheduled.staleStep {s : State} {g : Index} (h : Started s g) : KeepsScheduled s (s.staleStep g).1 := by
  unfold State.staleStep
  split
  · dsimp only
    split
    · exact (KeepsScheduled.refresh h.1).trans (.quarantine h.refresh _)
    · exact .refresh h.1
  · exact .refl

theorem KeepsScheduled.openRecheck {s : State} {r : RoundResult} (h : Started s r.group) (v : Option View) :
    KeepsScheduled s (s.openRecheck r v) := by
  unfold State.openRecheck
  dsimp only
  generalize hm : s.modCtx r.group _ = measured
  have first : KeepsScheduled s measured := hm ▸ .context rfl rfl rfl
  have started : Started measured r.group := hm ▸ h.modCtx rfl
  split
  · exact (first.trans (.enter started _ _ (by decide))).trans (.applyRoundView ..)
  · have checked := first.trans (.staleStep started)
    split
    · next e =>
      rw [e] at checked
      exact checked.trans (.applyRoundView ..)
    · next e =>
      rw [e] at checked
      have viewed := (checked.trans (.windowStep _ r.group)).trans (.applyRoundView _ r.group v)
      split
      · exact viewed.trans (.syncGate ..)
      · exact viewed

/-- What the result of a round does to its group's context (R124, R125). -/
theorem KeepsScheduled.roundResult (s : State) (r : RoundResult) : KeepsScheduled s (s.roundResult r) := by
  have recheck : KeepsScheduled s (s.recheckRound r) := by
    unfold State.recheckRound
    dsimp only
    split
    case h_1 => exact .applyRoundView ..
    case h_2 | h_3 | h_4 => next st => exact .openRecheck (.of_state st (by decide)) _
    all_goals exact .refl
  unfold State.roundResult
  split
  · split
    · next st => exact .burstRound st
    · exact .refl
  all_goals exact recheck

end Sys2Proof.Machine
end

section
/-! The probe scheduler's agreement through the settling of a probe, plan writes, the grants at the end of an event, and resets (R25, R82,
R112, R124). -/

namespace Sys2Proof.Machine

/-! ## Settling -/

theorem Scheduled.setPsc {planned : Prop} {s : State} (h : Scheduled planned s) {p : Psc} (agrees : p.Agrees)
    (plan : planned → p.Planned s.cpt.plan) : Scheduled planned { s with psc := p } where
  tables := h.tables.congr rfl rfl rfl rfl
  agrees := agrees
  contexts ask := (h.contexts ask).congr (fun _ => rfl) (fun _ => rfl) (fun _ => rfl) rfl
  plan := plan

/-- Settling a probe, and the end of its round with the last of them (R120, R121, R124). -/
theorem KeepsScheduled.settle (s : State) {k : Fin 8} {g : Index} (i : Fin 4) (o : LaneOutcome)
    (own : (Tab.get s.psc.slots k).state.group = some g) : KeepsScheduled s (s.settle k g i o) := by
  refine ⟨fun h => ?_⟩
  obtain ⟨r, queued, rfl, -⟩ := h.agrees.sound.owned k g own
  by_cases unfinished : ∃ k', k' ≠ k ∧ (Tab.get s.psc.slots k').state.group = some r.group
  · obtain ⟨k', other, held⟩ := unfinished
    rw [settle_unfinished i o other held]
    refine h.setPsc (h.agrees.settled_unfinished i o own ⟨k', ?_⟩) fun ask => (h.plan ask).settledPsc k r.group i o
    rw [slots_settledPsc_ne other]
    exact held
  · have last : ∀ k', k' ≠ k → (Tab.get s.psc.slots k').state.group ≠ some r.group := fun k' other held => unfinished ⟨k', other, held⟩
    rw [settle_last ((schedulerConsistent_iff s).2 h.agrees) i o own last queued rfl]
    have settled : ¬(settledPsc k r.group i o s.psc).Outstanding r.group := fun ⟨k', held⟩ => by
      by_cases same : k' = k
      · subst same
        rw [slots_settledPsc_same] at held
        cases held
      · rw [slots_settledPsc_ne same] at held
        exact last k' same held
    have ended := (h.agrees.sound.settledPsc k r.group i o).endRound (mem_settledPsc k i o queued) settled fun x mem other flies =>
      outstanding_settledPsc h.agrees i o own mem other flies
    exact (KeepsScheduled.roundResult ..).keep (h.setPsc ended fun ask => ((h.plan ask).settledPsc k r.group i o).endRound _)

/-! ## The end of an event -/

/-- The width of a valid context's rounds is that of its enabled entry (R27, R116). -/
theorem boundWidth_planned {s : State} (contexts : ContextsValid s) {g : Index} (on : (Tab.get s.cpt.plan g).enabled = true) :
    boundWidth s g = (Tab.get s.cpt.plan g).fields.width.lanes := by
  obtain ⟨b, bound, width⟩ := contexts.bound g on
  unfold boundWidth
  rw [bound]
  exact congrArg Width.lanes width

/-- The grants at the end of an event (R112 to R118). -/
theorem KeepsScheduled.endEvent (s before : State) : KeepsScheduled s (s.endEvent before) where
  keep h :=
    have made := grantsMade_endEvent s before
    have ended := Event.ended (.refl (s := s)) before
    { tables := h.tables.event ended
      agrees := made.agrees (boundWidth_lanes s) h.agrees
      contexts := fun ask => (h.contexts ask).event ended
      plan := fun ask => by
        rw [(BlocksKept.endEvent s before).cpt]
        exact made.planned (fun g => (boundWidth_lanes s g).2) (fun _ on => boundWidth_planned (h.contexts ask) on) (h.plan ask) }

/-! ## Plan writes -/

/-- A group without probe work is free to have its entry written. -/
theorem Psc.Planned.write {plan : Tab PlanEntry 64} {p : Psc} (h : p.Planned plan) (g : Index) (e : PlanEntry) :
    (Machine.abandonProbes g p).Planned (Tab.set plan g e) where
  requests r mem := by
    obtain ⟨was, apart⟩ := mem_dropRequest.1 mem
    rw [Tab.get_set_ne _ _ apart]
    exact h.requests r was
  probes k j i held := by
    have apart : j ≠ g := fun same => (abandonProbes_noWork g p).2.1 k ((group_of_probe held).trans (congrArg some same))
    rw [Tab.get_set_ne _ _ apart]
    exact (h.abandonProbes g).probes k j i held

/-- An entry that stays enabled keeps its width (R25). -/
theorem Psc.Planned.rewrite {plan : Tab PlanEntry 64} {p : Psc} (h : p.Planned plan) {g : Index} {e : PlanEntry}
    (same : e.enabled = (Tab.get plan g).enabled) (width : (Tab.get plan g).enabled = true → e.fields.width = (Tab.get plan g).fields.width) :
    p.Planned (Tab.set plan g e) where
  requests r mem := by
    have on := h.requests r mem
    by_cases own : r.group = g
    · rw [own] at on ⊢
      rw [Tab.get_set_same, same]
      exact on
    · rw [Tab.get_set_ne _ _ own]
      exact on
  probes k j i held := by
    obtain ⟨on, inside⟩ := h.probes k j i held
    by_cases own : j = g
    · subst own
      rw [Tab.get_set_same, same, width on]
      exact ⟨on, inside⟩
    · rw [Tab.get_set_ne _ _ own]
      exact ⟨on, inside⟩

/-- The move of an accepted plan write that enables or disables its entry abandons the group's probe work (R25, R126). -/
theorem KeepsScheduled.planMove {s t : State} {g : Index} {e : PlanEntry} (m : Move s t) (psc : t.psc = abandonProbes g s.psc)
    (plan : t.cpt.plan = Tab.set s.cpt.plan g e) : KeepsScheduled s t where
  keep h :=
    { tables := h.tables.move m
      agrees := psc ▸ h.agrees.abandonProbes g
      contexts := fun ask => (h.contexts ask).move m
      plan := fun ask => by
        rw [psc, plan]
        exact (h.plan ask).write g e }

theorem KeepsScheduled.rewritten {s : State} {g : Index} {e : PlanEntry} {w : WrittenEntry} (valid : validateEntry s.cpt.plan g w = .ok e)
    (same : e.enabled = (s.entry g).enabled) : KeepsScheduled s (s.storeEntry g e) where
  keep h :=
    have move := Move.rewritten g e w valid same
    { tables := h.tables.move move
      agrees := h.agrees
      contexts := fun ask => (h.contexts ask).move move
      plan := fun ask => (h.plan ask).rewrite same fun on => ((entryValid_of_validateEntry valid).width on (same.trans on)).symm }

/-- An accepted plan write, by its kind (R25). -/
theorem KeepsScheduled.acceptEntry {s : State} {g : Index} {e : PlanEntry} {w : WrittenEntry}
    (valid : validateEntry s.cpt.plan g w = .ok e) : KeepsScheduled s (s.acceptEntry g e) := by
  obtain ⟨kept, -, psc, -⟩ := recomputeUnplanned_kept (s.storeEntry g e) (portOf g)
  unfold State.acceptEntry
  dsimp only
  split
  · next off on =>
    refine (KeepsScheduled.planMove (.enabled g e w valid off on) (g := g) (e := e) ?_ ?_).trans (.applyStart (by rw [state_enter]; decide))
    · rw [psc_enter]
      exact congrArg (abandonProbes g) psc
    · rw [((EventAt.modCtx ..).trans (.enter ..)).blocks.cpt, kept.cpt]
      rfl
  · next on off =>
    refine .planMove (.disabled g e w valid on off) (g := g) (e := e) ?_ ?_
    · show ((State.modCtx _ g _).enter g .unplanned .none none).psc = _
      rw [psc_enter]
      exact congrArg (abandonProbes g) psc
    · rw [(EventAt.disableContext ..).blocks.cpt, kept.cpt]
      rfl
  · next was is =>
    have stored := KeepsScheduled.rewritten valid (is.trans was.symm)
    split
    · exact stored
    · refine stored.trans (.move (.stale ?_) rfl)
      rw [entry_storeEntry_same]
      exact is
  · next was is => exact .rewritten valid (is.trans was.symm)

/-! ## Resets -/

/-- The scheduler after a soft reset has only bursts that wait (R82, R128). -/
theorem agrees_softReset_withBursts (p : Psc) {rounds : Nat} (one : 1 ≤ rounds) {gs : List Index} (distinct : gs.Nodup) :
    (p.softReset.withBursts rounds gs).Agrees := by
  have queue := queue_softReset_withBursts p rounds gs
  have free : ∀ k, (Tab.get (p.softReset.withBursts rounds gs).slots k).state = .free := fun k => by rw [slots_softReset_withBursts]
  refine ⟨⟨?_, fun _ holds => (by cases holds), fun k g held => ?_, fun k k' g i held => ?_, fun r mem => ?_⟩, fun r mem flies => ?_⟩
  · rw [queue, List.map_map]
    exact (List.map_id gs).symm ▸ distinct
  · rw [free] at held
    cases held
  · rw [free] at held
    cases held
  · rw [queue] at mem
    obtain ⟨g, -, rfl⟩ := List.mem_map.1 mem
    exact ⟨one, fun no => absurd rfl no⟩
  · rw [queue] at mem
    obtain ⟨g, -, rfl⟩ := List.mem_map.1 mem
    cases flies

theorem planned_softReset_withBursts (p : Psc) (rounds : Nat) {plan : Tab PlanEntry 64} {gs : List Index}
    (on : ∀ g ∈ gs, (Tab.get plan g).enabled = true) : (p.softReset.withBursts rounds gs).Planned plan where
  requests r mem := by
    rw [queue_softReset_withBursts] at mem
    obtain ⟨g, starts, rfl⟩ := List.mem_map.1 mem
    exact on g starts
  probes k g i held := by
    rw [slots_softReset_withBursts] at held
    cases held

theorem enabled_of_starts {s : State} {g : Index} (h : starts s g = true) : (s.entry g).enabled = true := by
  unfold starts at h
  simp only [Bool.and_eq_true] at h
  exact h.1.1

/-- A soft reset posts BURSTs for enabled entries, and grants (R82, R128). -/
theorem KeepsScheduled.softReset (s : State) : KeepsScheduled s s.softReset := by
  refine ⟨fun h => ?_⟩
  have kept := softReset_kept s
  have cpt : s.softReset.cpt = s.cpt := kept.cpt.trans ((blocks_rebuilt s).cpt.trans (cpt_clearForSoftReset s))
  have contexts := contextsValid_softReset s
  have width : boundWidth s.softReset = boundWidth (rebuilt s) := funext fun g => by
    unfold boundWidth
    rw [kept.ctx]
  have made := grantsMade_grant (rebuilt s)
  rw [← kept.psc, ← width, psc_rebuilt] at made
  refine ⟨h.tables.event .softReset, ?_, fun _ => contexts, fun _ => ?_⟩
  · exact made.agrees (boundWidth_lanes _)
      (agrees_softReset_withBursts s.psc h.tables.rounds.1 ((List.nodup_finRange 64).filter _))
  · refine made.planned (fun g => (boundWidth_lanes _ g).2) (fun _ on => boundWidth_planned contexts on)
      (planned_softReset_withBursts _ _ fun g mem => ?_)
    rw [cpt]
    exact enabled_of_starts (List.mem_filter.1 mem).2

theorem agrees_reset : Psc.reset.Agrees :=
  agrees_softReset_withBursts Psc.reset (Nat.le_refl 1) List.nodup_nil

/-- A hard reset leaves no probe work (R20). -/
theorem KeepsScheduled.assertReset (s : State) : KeepsScheduled s s.assertReset where
  keep h :=
    { tables := h.tables.event .hardReset
      agrees := by
        rw [psc_assertReset]
        exact agrees_reset
      contexts := fun ask => (h.contexts ask).event .hardReset
      plan := fun _ => by
        rw [psc_assertReset]
        exact planned_softReset_withBursts Psc.reset 1 (gs := []) (by simp) }

end Sys2Proof.Machine
end

section
/-! Every command, and every step, keeps the probe scheduler's queue and slots in agreement (R109 to R117). -/

namespace Sys2Proof.Machine

/-! ## What does not touch the scheduler -/

/-- The scheduler and the plan are as they were. -/
structure SchedulerAside (s t : State) : Prop where
  psc : t.psc = s.psc
  plan : t.cpt.plan = s.cpt.plan

theorem SchedulerAside.refl {s : State} : SchedulerAside s s := ⟨rfl, rfl⟩

theorem SchedulerAside.trans {s t u : State} (a : SchedulerAside s t) (b : SchedulerAside t u) : SchedulerAside s u :=
  ⟨b.psc.trans a.psc, b.plan.trans a.plan⟩

theorem SchedulerAside.frames {s t : State} (h : FramesOnly s t) : SchedulerAside s t := ⟨h.psc, by rw [h.blocks.cpt]⟩

theorem SchedulerAside.triggerRead (s : State) : SchedulerAside s s.triggerRead := by
  unfold State.triggerRead
  split <;> exact ⟨rfl, rfl⟩

theorem SchedulerAside.afterRead (s : State) : SchedulerAside s s.afterRead := by
  unfold State.afterRead
  split <;> exact ⟨rfl, rfl⟩

theorem SchedulerAside.systemLead (s : State) (l : Index) (frame : Incoming) : SchedulerAside s (s.systemLead l frame).arbitrate := by
  unfold State.systemLead
  split
  case h_2 => exact .frames (((FramesOnly.setSystemRx ..).trans (.handle ..)).trans (.arbitrate _))
  all_goals exact .frames ((FramesOnly.setSystemRx ..).trans (.arbitrate _))

theorem SchedulerAside.lineLead (s : State) (l : Index) (frame : Incoming) : SchedulerAside s (s.lineLead l frame).arbitrate := by
  have rx : ∀ r, SchedulerAside s (s.setLineRx l r) := fun _ => ⟨rfl, rfl⟩
  unfold State.lineLead
  split
  case h_1 | h_2 => exact (rx .none).trans (.frames ((FramesOnly.handle ..).trans (.arbitrate _)))
  all_goals exact (rx _).trans (.frames (.arbitrate _))

/-- Events that leave the scheduler's work and the plan as they are. -/
theorem KeepsScheduled.events {s t : State} (events : Events s t) (work : s.psc.SameWork t.psc) (plan : t.cpt.plan = s.cpt.plan) :
    KeepsScheduled s t :=
  .quiet (fun h => events.keep (fun _ _ => TablesValid.event) h) (fun h => events.keep (fun _ _ => ContextsValid.event) h) work plan

theorem KeepsScheduled.aside {s t : State} (events : Events s t) (a : SchedulerAside s t) : KeepsScheduled s t :=
  .events events (a.psc ▸ .refl _) a.plan

/-! ## Events of frames, of the inventory and of time -/

/-- A command is nothing while the reset line is asserted. -/
theorem KeepsScheduled.of_unlessReset {s t : State} {f : State → State} (run : s.unlessReset f = .next t)
    (keeps : KeepsScheduled s (f s)) : KeepsScheduled s t := by
  unfold State.unlessReset at run
  cases run
  split
  exacts [.refl, keeps]

/-- A command that does not touch the scheduler. -/
theorem SchedulerAside.of_unlessReset {s t : State} {f : State → State} (run : s.unlessReset f = .next t)
    (a : SchedulerAside s (f s)) : SchedulerAside s t := by
  unfold State.unlessReset at run
  cases run
  split
  exacts [.refl, a]

theorem SchedulerAside.execResetRelease {s t : State} (run : execResetRelease s = .next t) : SchedulerAside s t := by
  unfold Machine.execResetRelease at run
  cases run
  split
  · have read := SchedulerAside.triggerRead { s with inReset := false }
    exact ⟨read.psc, read.plan⟩
  · exact .refl

theorem SchedulerAside.execSignalDetected (p : Fin 16) (j : Fin 4) {s t : State} (run : execSignalDetected p j s = .next t) :
    SchedulerAside s t := by
  refine .of_unlessReset run ?_
  split
  exacts [⟨rfl, rfl⟩, .refl]

theorem SchedulerAside.execLeadWordArrival (side : Side) (p : Fin 16) (j : Fin 4) (frame : Incoming) {s t : State}
    (run : execLeadWordArrival side p j frame s = .next t) : SchedulerAside s t := by
  refine .of_unlessReset run ?_
  cases side
  · exact .systemLead ..
  · dsimp only
    split
    exacts [.lineLead .., .refl]

theorem SchedulerAside.execShortFrameDiscard (side : Side) (p : Fin 16) (j : Fin 4) {s t : State}
    (run : execShortFrameDiscard side p j s = .next t) : SchedulerAside s t := by
  refine .of_unlessReset run ?_
  cases side
  · exact ⟨rfl, rfl⟩
  · dsimp only
    split
    exacts [⟨rfl, rfl⟩, .refl]

theorem SchedulerAside.execDeskewHoldExpiry (p : Fin 16) (j : Fin 4) {s t : State} (run : execDeskewHoldExpiry p j s = .next t) :
    SchedulerAside s t := by
  refine .of_unlessReset run ?_
  split
  · exact .refl
  · next held => exact .frames (FrameEvent.holdEnded _ _ _ held).only

theorem SchedulerAside.execTargetFieldsArrival (p : Fin 16) (j : Fin 4) (target : BitVec 16) {s t : State}
    (run : execTargetFieldsArrival p j target s = .next t) : SchedulerAside s t := by
  refine .of_unlessReset run ?_
  split
  · next waits =>
    split
    exacts [⟨rfl, rfl⟩, .frames (FrameEvent.unaddressed _ _ _ waits).only]
  all_goals exact .refl

theorem SchedulerAside.execFrameUnderWayEnd (side : Side) (p : Fin 16) (j : Fin 4) (abortMark : Bool) {s t : State}
    (run : execFrameUnderWayEnd side p j abortMark s = .next t) : SchedulerAside s t :=
  .of_unlessReset run (.frames (FrameEvent.frameEnded ..).only)

theorem SchedulerAside.execEchoDeparture (p : Fin 16) (j : Fin 4) {s t : State} (run : execEchoDeparture p j s = .next t) :
    SchedulerAside s t := by
  refine .of_unlessReset run ?_
  split
  · split
    exacts [⟨psc_send .., by rw [cpt_setEcho, cpt_send]⟩, .refl]
  · exact .refl

theorem SchedulerAside.execResponseDeparture (p : Fin 16) (j : Fin 4) {s t : State} (run : execResponseDeparture p j s = .next t) :
    SchedulerAside s t := by
  refine .of_unlessReset run ?_
  split
  · split
    exacts [⟨psc_send .., congrArg Cpt.plan (cpt_send ..)⟩, .refl]
  · exact .refl

theorem SchedulerAside.execControlRequestReceived (p : Fin 16) (j : Fin 4) (rest : List Byte) {s t : State}
    (run : execControlRequestReceived p j rest s = .next t) : SchedulerAside s t := by
  refine .of_unlessReset run ?_
  split
  · dsimp only
    split
    · exact ⟨rfl, rfl⟩
    · split <;> exact ⟨rfl, rfl⟩
  all_goals exact .refl

theorem SchedulerAside.execInventoryIntervalExpiry {s t : State} (run : execInventoryIntervalExpiry s = .next t) :
    SchedulerAside s t := by
  refine .of_unlessReset run ?_
  split
  · exact SchedulerAside.trans (t := { s with ciu := { s.ciu with timer := none } }) ⟨rfl, rfl⟩ (.triggerRead _)
  · exact .refl

theorem SchedulerAside.execUnknownCommand {s t : State} (run : execUnknownCommand s = .next t) : SchedulerAside s t := by
  refine .of_unlessReset run ?_
  split
  · split <;> exact ⟨rfl, rfl⟩
  · exact .refl

/-- A tick moves the scheduler's counter alone (R51). -/
theorem KeepsScheduled.tick (s : State) : KeepsScheduled s s.tick := by
  cases run : s.inReset with
  | true =>
    unfold State.tick
    rw [run]
    exact .refl
  | false =>
    obtain ⟨now, contexts, holds, timer, elapsed, sws, same, -⟩ := tick_only s run
    refine .events (.single .tick) ?_ (by rw [same])
    rw [same]
    exact ⟨rfl, rfl, fun _ => rfl⟩

/-! ## Lanes and probes -/

theorem KeepsScheduled.lockView (s : State) (l : Index) (v : LockView) : KeepsScheduled s (s.setLockView l v) :=
  .quiet (·.move (.lockView l v)) (·.move (.lockView l v)) (.refl _) rfl

theorem KeepsScheduled.lockEvent (s : State) (l : Index) (polarity : Bool) : KeepsScheduled s (s.lockEvent l polarity) := by
  unfold State.lockEvent
  dsimp only
  split
  exacts [(KeepsScheduled.lockView ..).trans (.contextLock ..), .lockView ..]

theorem KeepsScheduled.lossEvent (s : State) (l : Index) : KeepsScheduled s (s.lossEvent l) := by
  unfold State.lossEvent
  dsimp only
  split
  exacts [(KeepsScheduled.lockView ..).trans (.contextLoss ..), .lockView ..]

theorem KeepsScheduled.viewReport (s : State) (l : Index) (sender : FarEnd) (view : Option View) :
    KeepsScheduled s (s.viewReport l sender view) := by
  unfold State.viewReport
  split
  · split
    exacts [.applyView .., .refl]
  · exact .refl

theorem KeepsScheduled.setFront (s : State) (l : Index) (f : LaneFront → LaneFront) : KeepsScheduled s (s.setFront l f) :=
  .aside (.setFront ..) ⟨rfl, rfl⟩

theorem KeepsScheduled.setLineRx (s : State) (l : Index) (r : LineRx) : KeepsScheduled s (s.setLineRx l r) :=
  .aside (.setLineRx ..) ⟨rfl, rfl⟩

theorem KeepsScheduled.countMalformed (s : State) : KeepsScheduled s s.countMalformed := .aside (.countMalformed _) ⟨rfl, rfl⟩

/-- A lane leaves LOCKED (R3). -/
theorem KeepsScheduled.loseLock (s : State) (l : Index) (into : RxState) : KeepsScheduled s (s.loseLock l into) :=
  (((KeepsScheduled.setFront ..).trans (.setLineRx ..)).trans (.lossEvent ..)).trans (.endEvent _ s)

theorem KeepsScheduled.execSignalLost (p : Fin 16) (j : Fin 4) {s t : State} (run : execSignalLost p j s = .next t) :
    KeepsScheduled s t := by
  refine .of_unlessReset run ?_
  split
  exacts [.refl, .setFront .., .loseLock ..]

theorem KeepsScheduled.execLockAchieved (p : Fin 16) (j : Fin 4) (inverted : Bool) {s t : State}
    (run : execLockAchieved p j inverted s = .next t) : KeepsScheduled s t := by
  refine .of_unlessReset run ?_
  split
  exacts [((KeepsScheduled.setFront ..).trans (.lockEvent ..)).trans (.endEvent _ s), .refl]

theorem KeepsScheduled.execLockLost (p : Fin 16) (j : Fin 4) {s t : State} (run : execLockLost p j s = .next t) :
    KeepsScheduled s t := by
  refine .of_unlessReset run ?_
  split
  exacts [.loseLock .., .refl]

theorem KeepsScheduled.execProbeReceived (p : Fin 16) (j : Fin 4) (rest : List Byte) {s t : State}
    (run : execProbeReceived p j rest s = .next t) : KeepsScheduled s t := by
  refine .of_unlessReset run ?_
  split
  · dsimp only
    split
    · exact (KeepsScheduled.setLineRx ..).trans (.countMalformed _)
    · have echo : ∀ e, KeepsScheduled (s.setLineRx (cell p j) .none) ((s.setLineRx (cell p j) .none).setEcho (cell p j) e) := fun e =>
        .quiet (·.move (.echo _ e)) (·.move (.echo _ e)) (.refl _) rfl
      exact (((KeepsScheduled.setLineRx ..).trans (echo _)).trans (.viewReport ..)).trans (.endEvent _ s)
  all_goals exact .refl

theorem KeepsScheduled.execEchoReceived (p : Fin 16) (j : Fin 4) (rest : List Byte) {s t : State}
    (run : execEchoReceived p j rest s = .next t) : KeepsScheduled s t := by
  refine .of_unlessReset run ?_
  split
  · refine (KeepsScheduled.setLineRx s (cell p j) .none).trans ?_
    dsimp only
    split
    · exact .countMalformed _
    · split
      · exact .events (.countLate _) ⟨rfl, rfl, fun _ => rfl⟩ rfl
      · next found => exact (KeepsScheduled.settle _ _ _ (group_of_matchEcho found)).trans (.endEvent _ s)
  all_goals exact .refl

theorem KeepsScheduled.execProbeDeadlineExpiry (k : Fin 8) {s t : State} (run : execProbeDeadlineExpiry k s = .next t) :
    KeepsScheduled s t := by
  refine .of_unlessReset run ?_
  split
  · next slot => exact (KeepsScheduled.settle s _ _ (by rw [slot]; rfl)).trans (.endEvent _ s)
  all_goals exact .refl

/-- A probe sent is outstanding for the lane offset it was granted for (R117, R119). -/
theorem KeepsScheduled.execProbeDeparture (k : Fin 8) {s t : State} (run : execProbeDeparture k s = .next t) :
    KeepsScheduled s t := by
  refine .of_unlessReset run ?_
  split
  · next g i slot =>
    dsimp only
    split
    · next free =>
      refine .events (.single (.probeSent k g i slot (Bool.and_eq_true_iff.1 free).1 _ _)) ⟨rfl, rfl, fun k' => ?_⟩ rfl
      dsimp only
      rw [psc_send, Tab.get_upd]
      split
      · next same =>
        rw [same, slot]
        rfl
      · rfl
    · exact .refl
  all_goals exact .refl

/-! ## Timers, the sweep and the chain read -/

theorem KeepsScheduled.execLockTimerExpiry (g : Index) {s t : State} (run : execLockTimerExpiry g s = .next t) :
    KeepsScheduled s t := by
  refine .of_unlessReset run ?_
  split
  · next due =>
    have started : Started s g := due.2.elim (fun st => .of_state st (by decide)) fun st => .of_state st (by decide)
    exact (KeepsScheduled.quarantine started _).trans (.endEvent _ s)
  · exact .refl

theorem KeepsScheduled.execAgreementTimerExpiry (g : Index) {s t : State} (run : execAgreementTimerExpiry g s = .next t) :
    KeepsScheduled s t := by
  refine .of_unlessReset run ?_
  split
  · next due => exact (KeepsScheduled.quarantine (.of_state due.2 (by decide)) _).trans (.endEvent _ s)
  · exact .refl

theorem KeepsScheduled.execRetryTimerExpiry (g : Index) {s t : State} (run : execRetryTimerExpiry g s = .next t) :
    KeepsScheduled s t := by
  refine .of_unlessReset run ?_
  split
  · next due => exact (KeepsScheduled.applyStart (planned_of_state due.2 (by decide))).trans (.endEvent _ s)
  · exact .refl

theorem KeepsScheduled.execAgreementPollExpiry (g : Index) {s t : State} (run : execAgreementPollExpiry g s = .next t) :
    KeepsScheduled s t := by
  refine .of_unlessReset run ?_
  split
  · next due =>
    have posted := KeepsScheduled.post .routine (planned_of_state due.2 (by decide))
    exact (posted.trans (.context (g := g) rfl rfl rfl)).trans (.endEvent _ s)
  · exact .refl

/-- A search that selects selects an eligible index (R168). -/
theorem eligible_of_sweepSearch {eligible : Index → Bool} {g : Index} {n : Nat} {w : Sws} (found : (sweepSearch eligible n w).2 = some g) :
    eligible g = true := by
  induction n generalizing w with
  | zero => cases found
  | succ n ih =>
    unfold sweepSearch at found
    split at found
    · next selects =>
      cases found
      exact selects
    · split at found
      · cases found
      · exact ih found

/-- The sweep rechecks planned groups alone (R168). -/
theorem planned_of_eligible {s : State} {g : Index} (h : sweepEligible s g = true) : (s.ctx g).state ≠ .unplanned := fun st => by
  unfold sweepEligible at h
  rw [st] at h
  cases h

theorem KeepsScheduled.execSweepStep {s t : State} (run : execSweepStep s = .next t) : KeepsScheduled s t := by
  refine .of_unlessReset run ?_
  split
  · exact .refl
  · refine KeepsScheduled.trans (t := ({ s with sws := (sweepSearch (sweepEligible s) 64 s.sws).1 } : State).startStepTimer)
      (.aside ((Events.setSws s _).trans (.startStepTimer _)) ⟨rfl, rfl⟩) ?_
    dsimp only
    split
    · next found =>
      refine (KeepsScheduled.post (s := ({ s with sws := (sweepSearch (sweepEligible s) 64 s.sws).1 } : State).startStepTimer)
        .routine ?_).trans (.endEvent _ s)
      exact planned_of_eligible (s := s) (eligible_of_sweepSearch found)
    · exact .refl

theorem KeepsScheduled.takePortChange (s : State) (e : HandedEvent) : KeepsScheduled s (s.takePortChange e) :=
  (KeepsScheduled.portChange ..).trans (.endEvent _ s)

/-- The handed events that have left their queue are taken in order (R49). -/
theorem KeepsScheduled.takeEvents (es : List HandedEvent) {rest : List HandedEvent} {s : State} (sub : rest.Sublist s.ciu.handed) :
    KeepsScheduled s (es.foldl State.takePortChange { s with ciu := { s.ciu with handed := rest } }) :=
  (KeepsScheduled.aside (.single (.taken rest sub)) ⟨rfl, rfl⟩).trans (.fold .takePortChange ..)

theorem KeepsScheduled.takeWaiting (s : State) : KeepsScheduled s s.takeWaiting := by
  unfold State.takeWaiting
  split
  · exact .refl
  · next e rest handed => exact .takeEvents [e] (handed ▸ List.sublist_cons_self e rest)

theorem KeepsScheduled.execChainReadEnd (bits : List Bool) {s t : State} (run : execChainReadEnd bits s = .next t) :
    KeepsScheduled s t := by
  unfold Machine.execChainReadEnd at run
  split at run
  · refine .of_unlessReset run ?_
    split
    · have none : s.takeAllWaiting.ciu.handed = [] := by rw [ciu_takeAllWaiting]
      have taken : KeepsScheduled s s.takeAllWaiting := .takeEvents _ (List.nil_sublist _)
      have judged : SchedulerAside s.takeAllWaiting (s.takeAllWaiting.judgeRead bits) := by
        obtain ⟨ciu, notices, same⟩ := judgeRead_only s.takeAllWaiting bits
        rw [same]
        exact ⟨rfl, rfl⟩
      have read := (Events.single (.judged bits none)).trans (.afterRead _)
      exact (taken.trans (.aside read (judged.trans (.afterRead _)))).trans (.takeEvents _ List.filter_sublist)
    · exact .refl
  · cases run

/-! ## Management -/

/-- A command keeps the agreement where its body does: its answer is aside. -/
theorem KeepsScheduled.execute {s t : State} {mine : ControlRequest → Bool} {c : Command}
    (body : ∀ args, KeepsScheduled s (c.body args s).1) (run : s.execute mine c = .next t) : KeepsScheduled s t := by
  refine .of_unlessReset run ?_
  split
  · split
    · refine KeepsScheduled.trans ?_ (.aside (.single (.answered ..)) ⟨rfl, rfl⟩)
      unfold Command.run
      split
      exacts [body _, .refl]
    · exact .refl
  · exact .refl

theorem KeepsScheduled.executeRead {s t : State} {mine : ControlRequest → Bool} {c : Command} (same : ∀ args, (c.body args s).1 = s)
    (run : s.execute mine c = .next t) : KeepsScheduled s t :=
  .execute (fun args => by rw [same]; exact .refl) run

theorem KeepsScheduled.setIdentity (args : List Byte) (s : State) : KeepsScheduled s (setIdentityCommand.body args s).1 := by
  unfold setIdentityCommand
  dsimp only
  split
  · exact .refl
  · next range =>
    rw [not_or, Nat.not_lt, Nat.not_lt] at range
    refine KeepsScheduled.trans ?_ (.endEvent _ s)
    unfold State.storeIdentity
    refine KeepsScheduled.trans (.aside (.single (.identity _ _ range)) ⟨rfl, rfl⟩) ?_
    dsimp only
    split
    exacts [.refl, .fold .contextIdentity _ _]

theorem KeepsScheduled.writePlan (args : List Byte) (s : State) : KeepsScheduled s (writePlanCommand.body args s).1 := by
  unfold writePlanCommand
  dsimp only
  split
  · exact .refl
  · split
    · exact .refl
    · next valid => exact (KeepsScheduled.acceptEntry valid).trans (.endEvent _ s)

theorem SchedulerAside.writeClass (args : List Byte) (s : State) : SchedulerAside s (writeClassCommand.body args s).1 := by
  unfold writeClassCommand
  dsimp only
  split <;> exact ⟨rfl, rfl⟩

theorem SchedulerAside.writeProfile (args : List Byte) (s : State) : SchedulerAside s (writeProfileCommand.body args s).1 := by
  unfold writeProfileCommand
  dsimp only
  split
  · exact .refl
  · split <;> exact ⟨rfl, rfl⟩

theorem SchedulerAside.writeFrameClass (args : List Byte) (s : State) : SchedulerAside s (writeFrameClassCommand.body args s).1 := by
  unfold writeFrameClassCommand
  dsimp only
  split <;> exact ⟨rfl, rfl⟩

theorem SchedulerAside.sweepControl (args : List Byte) (s : State) : SchedulerAside s (sweepControlCommand.body args s).1 := by
  unfold sweepControlCommand
  dsimp only
  split
  · exact .refl
  · split <;> exact ⟨rfl, rfl⟩

/-- A group action on every planned context (R191). -/
theorem KeepsScheduled.applyAll (a : GroupAction) (s : State) : KeepsScheduled s (a.applyAll s).1 := by
  unfold GroupAction.applyAll
  refine List.foldlRecOn (motive := fun x : State × Nat => KeepsScheduled s x.1) indices _ .refl fun x kept g _ => ?_
  dsimp only
  split
  exacts [kept.trans (.groupAction ..), kept]

theorem KeepsScheduled.groupActionCommand (a : GroupAction) (args : List Byte) (s : State) :
    KeepsScheduled s ((groupActionCommand a).body args s).1 := by
  unfold Machine.groupActionCommand
  dsimp only
  split
  · exact .refl
  · split
    · exact .refl
    · split
      · exact (KeepsScheduled.groupAction ..).trans (.endEvent _ s)
      · exact (KeepsScheduled.applyAll ..).trans (.endEvent _ s)

theorem KeepsScheduled.softResetCommand (args : List Byte) (s : State) : KeepsScheduled s (softResetCommand.body args s).1 := by
  unfold Machine.softResetCommand
  exact .softReset s

/-! ## Every command and every step -/

/-- Every command keeps the scheduler's queue and slots in agreement. -/
theorem exec_keepsScheduled (c : Instr) {s t : State} (run : exec c s = .next t) : KeepsScheduled s t := by
  have aside : SchedulerAside s t → KeepsScheduled s t := .aside (exec_events c run)
  cases c with
  | resetAssert =>
    cases run
    exact .assertReset s
  | resetRelease => exact aside (.execResetRelease run)
  | signalDetected p j => exact aside (.execSignalDetected p j run)
  | signalLost p j => exact .execSignalLost p j run
  | lockAchieved p j inverted => exact .execLockAchieved p j inverted run
  | lockLost p j => exact .execLockLost p j run
  | leadWordArrival d p j frame => exact aside (.execLeadWordArrival d p j frame run)
  | shortFrameDiscard d p j => exact aside (.execShortFrameDiscard d p j run)
  | deskewHoldExpiry p j => exact aside (.execDeskewHoldExpiry p j run)
  | probeReceived p j rest => exact .execProbeReceived p j rest run
  | echoReceived p j rest => exact .execEchoReceived p j rest run
  | probeDeadlineExpiry k => exact .execProbeDeadlineExpiry k run
  | probeDeparture k => exact .execProbeDeparture k run
  | echoDeparture p j => exact aside (.execEchoDeparture p j run)
  | responseDeparture p j => exact aside (.execResponseDeparture p j run)
  | controlRequestReceived p j rest => exact aside (.execControlRequestReceived p j rest run)
  | palertRise => exact aside (.of_unlessReset run (.triggerRead s))
  | inventoryIntervalExpiry => exact aside (.execInventoryIntervalExpiry run)
  | chainReadEnd bits => exact .execChainReadEnd bits run
  | lockTimerExpiry g => exact .execLockTimerExpiry g run
  | agreementTimerExpiry g => exact .execAgreementTimerExpiry g run
  | retryTimerExpiry g => exact .execRetryTimerExpiry g run
  | agreementPollExpiry g => exact .execAgreementPollExpiry g run
  | sweepStep => exact .execSweepStep run
  | unknownCommand => exact aside (.execUnknownCommand run)
  | readIdentity => exact .executeRead (fun _ => rfl) run
  | setIdentity => exact .execute (fun args => .setIdentity args s) run
  | writePlanEntry => exact .execute (fun args => .writePlan args s) run
  | readPlanEntry => exact .executeRead (fun args => body_readPlan args s) run
  | writeClassEntry => exact .execute (fun args => .aside (.writeClass args s) (.writeClass args s)) run
  | readClassEntry => exact .executeRead (fun args => body_readClass args s) run
  | writeProfile => exact .execute (fun args => .aside (.writeProfile args s) (.writeProfile args s)) run
  | readProfile => exact .executeRead (fun args => body_readProfile args s) run
  | writeFrameClass => exact .execute (fun args => .aside (.writeFrameClass args s) (.writeFrameClass args s)) run
  | readFrameClass => exact .executeRead (fun _ => rfl) run
  | writeSettings => exact .execute (fun args => .aside (.writeSettings args s) ⟨rfl, rfl⟩) run
  | readSettings => exact .executeRead (fun _ => rfl) run
  | readGroup => exact .executeRead (fun args => body_readGroup args s) run
  | readInventory => exact .executeRead (fun _ => rfl) run
  | readNotices => exact .execute (fun _ => .aside (.single (.noticesRead _)) ⟨rfl, rfl⟩) run
  | readCounters => exact .executeRead (fun _ => rfl) run
  | groupActionHold => exact .execute (fun args => .groupActionCommand .hold args s) run
  | groupActionResume => exact .execute (fun args => .groupActionCommand .resume args s) run
  | groupActionRecheck => exact .execute (fun args => .groupActionCommand .recheck args s) run
  | sweepControl => exact .execute (fun args => .aside (.sweepControl args s) (.sweepControl args s)) run
  | softReset => exact .execute (fun args => .softResetCommand args s) run
  | frameUnderWayEnd d p j abortMark => exact aside (.execFrameUnderWayEnd d p j abortMark run)
  | targetFieldsArrival p j target => exact aside (.execTargetFieldsArrival p j target run)

/-- An own event keeps the agreement. -/
theorem own_keepsScheduled (e : OwnEvent) {s t : State} (run : e.run s = .next t) : KeepsScheduled s t := by
  cases e with
  | row c => exact exec_keepsScheduled c run
  | portChange =>
    cases run
    exact .takeWaiting s

/-- The queue of commands and the counter of log 2 are no part of the agreement. -/
theorem KeepsScheduled.turned (s : State) (queue : List Instr) (turn : Nat) :
    KeepsScheduled s { s with pending := queue, turn := turn } :=
  .quiet (·.congr rfl rfl rfl rfl) (·.congr (fun _ => rfl) (fun _ => rfl) (fun _ => rfl) rfl) (.refl _) rfl

theorem step_keepsScheduled {s t : State} (run : step s = .next t) : KeepsScheduled s t := by
  unfold step at run
  split at run
  · next rest _ => exact (KeepsScheduled.turned s rest s.turn).trans (exec_keepsScheduled _ run)
  · split at run
    · next own =>
      unfold nextOwn at own
      split at own
      · cases own
      · cases own
        exact own_keepsScheduled _ run
      · cases own
        exact (KeepsScheduled.turned s s.pending (s.turn + 1)).trans (own_keepsScheduled _ run)
    · cases run
      exact .tick s

/-- Settles O59: every part of a step keeps the queue and the slots in agreement, and with the contexts valid it keeps requests and probes
to enabled entries, whose lanes are distinct. -/
theorem schedulerStaysConsistent : Obligations.SchedulerStaysConsistent := by
  unfold Obligations.SchedulerStaysConsistent
  refine ⟨fun s t tables consistent run => ?_, fun s t tables contexts consistent distinct run => ?_⟩
  · have before : Scheduled False s := ⟨tables, (schedulerConsistent_iff s).1 consistent, False.elim, False.elim⟩
    exact (schedulerConsistent_iff t).2 ((step_keepsScheduled run).keep before).agrees
  · have before : Scheduled True s :=
      ⟨tables, (schedulerConsistent_iff s).1 consistent, fun _ => contexts, fun _ => (lanesDistinct_iff tables consistent).1 distinct⟩
    have after := (step_keepsScheduled run).keep before
    exact (lanesDistinct_iff after.tables ((schedulerConsistent_iff t).2 after.agrees)).2 (after.plan trivial)

end Sys2Proof.Machine
end

section
/-! The checks of a verdict in their order (R135 to R141): what each looks at in the lanes of a record, and check 11's lane map. -/

namespace Sys2Proof.Machine

/-! ## The lanes of a group -/

/-- The lane offsets below W, in order. -/
def groupLanes (W : Nat) : List (Fin 4) := (List.finRange 4).filter fun i => decide (i.val < W)

theorem mem_groupLanes {W : Nat} {i : Fin 4} : i ∈ groupLanes W ↔ i.val < W := by simp [groupLanes]

/-- Every group has lane 0. -/
theorem groupLanes_width (w : Width) : ∃ rest, groupLanes w.lanes = 0 :: rest := by
  cases w <;> exact ⟨_, rfl⟩

theorem any_laneRecords (dr : DiscoveryRecord) (W : Nat) (test : LaneRecord → Bool) :
    ((laneRecords dr W).any fun (_, r) => test r) = true ↔ ∃ i : Fin 4, i.val < W ∧ test (Tab.get dr.lanes i) = true := by
  simp [laneRecords]

/-- What the merged lanes of a record tell, in offset order. -/
def mergedLanes (dr : DiscoveryRecord) (W : Nat) : List (Fin 4 × Merged) :=
  (laneRecords dr W).filterMap fun (i, r) => r.merged.map fun m => (i, m)

theorem mem_mergedLanes {dr : DiscoveryRecord} {W : Nat} {i : Fin 4} {m : Merged} :
    (i, m) ∈ mergedLanes dr W ↔ i.val < W ∧ (Tab.get dr.lanes i).merged = some m := by
  simp [mergedLanes, laneRecords]

theorem isEmpty_mergedLanes (dr : DiscoveryRecord) (W : Nat) :
    (mergedLanes dr W).isEmpty = true ↔ ∀ i : Fin 4, i.val < W → (Tab.get dr.lanes i).merged = none := by
  simp [mergedLanes, laneRecords]

section

variable {dr : DiscoveryRecord} {W : Nat} {m : Fin 4 → Merged}
  (all : ∀ i : Fin 4, i.val < W → (Tab.get dr.lanes i).merged = some (m i))

include all

/-- With every lane merged no lane is left out. -/
theorem mergedLanes_eq : mergedLanes dr W = (groupLanes W).map fun i => (i, m i) := by
  unfold mergedLanes laneRecords
  rw [List.filterMap_map, ← List.filterMap_eq_map]
  refine List.filterMap_congr fun i mem => ?_
  simp [all i (mem_groupLanes.1 mem)]

theorem farLanes_eq : farLanes dr W = (groupLanes W).map fun i => (i.val, (m i).far.lane) := by
  unfold farLanes laneRecords
  rw [List.filterMap_map, ← List.filterMap_eq_map]
  refine List.filterMap_congr fun i mem => ?_
  simp [all i (mem_groupLanes.1 mem)]

theorem any_mergedLanes (test : Fin 4 → Merged → Bool) :
    ((mergedLanes dr W).any fun (i, x) => test i x) = true ↔ ∃ i : Fin 4, i.val < W ∧ test i (m i) = true := by
  rw [mergedLanes_eq all]
  simp [mem_groupLanes]

end

/-- The offsets of a group as numbers. -/
theorem map_groupLanes {α : Type} (w : Width) (f : Nat → Fin 4 → α) :
    ((groupLanes w.lanes).map fun i => f i.val i) = (List.range w.lanes).map fun i => f i (Fin.ofNat 4 i) := by
  cases w <;> rfl

/-! ## Checks 1 to 10 (R136 to R140) -/

theorem shapeFits_iff (shape : Shape) (w : Width) : shapeFits shape w = true
    ↔ shape = .whole ∧ w.lanes = 4 ∨ shape = .pair ∧ w.lanes = 2 ∨ shape = .quad ∧ w.lanes = 1 := by
  cases shape <;> cases w <;> decide

/-- Checks 8 to 11, with what the first lane has told (R138 to R141). -/
def peerChecks (b : PlanFields) (dr : DiscoveryRecord) (id : Identity) : List (Fin 4 × Merged) → Except Reason LaneMap
  | [] => .error .peerSilent
  | (i, first) :: rest =>
    if ((i, first) :: rest).any (fun (_, m) =>
        (m.far.chassis != first.far.chassis) || (m.far.unit != first.far.unit) || (m.far.port != first.far.port)) then
      .error .splitFarEnd
    else if (first.far.chassis == id.chassis) && (first.far.unit == id.unit) then .error .loopback
    else if (first.far.chassis != b.farChassis) || (first.far.unit != b.farUnit) || (first.far.port != b.farPort) then
      .error .wrongPeer
    else laneOrderCheck b (farLanes dr b.width.lanes)

/-- Checks 4 to 11 (R137 to R141). -/
def echoChecks (b : PlanFields) (dr : DiscoveryRecord) (id : Identity) (g : Index) : Except Reason LaneMap :=
  if (mergedLanes dr b.width.lanes).isEmpty then .error .peerSilent
  else if (laneRecords dr b.width.lanes).any (fun (_, r) => r.merged.isNone) then .error .laneDark
  else if (laneRecords dr b.width.lanes).any (fun (_, r) => r.conflicted) then .error .unstable
  else if (mergedLanes dr b.width.lanes).any (fun (i, m) => m.back != laneAt g i.val) then .error .pairSplit
  else peerChecks b dr id (mergedLanes dr b.width.lanes)

theorem checks_eq (b : PlanFields) (dr : DiscoveryRecord) (inv : InventoryRecord) (id : Identity) (g : Index) :
    checks b dr inv id g =
      if !b.allowed.getLsbD inv.cls.val then .error .cableClass
      else if !shapeFits inv.shape b.width then .error .cableShape
      else if (laneRecords dr b.width.lanes).any (fun (_, r) => r.inverted) && !b.inversion then .error .polarity
      else echoChecks b dr id g := by
  unfold checks echoChecks
  cases e : mergedLanes dr b.width.lanes
  all_goals
    unfold mergedLanes at e
    simp only [e]
    rfl

/-- A far chassis, unit or port differs. -/
theorem farDiffers_iff (x : FarEnd) (chassis unit port : Nat) :
    ((x.chassis != chassis) || (x.unit != unit) || (x.port != port)) = true ↔ (x.chassis, x.unit, x.port) ≠ (chassis, unit, port) := by
  simp only [Bool.or_eq_true, bne_iff_ne, ne_eq, Prod.mk.injEq]
  tauto

section

variable {b : PlanFields} {dr : DiscoveryRecord} {inv : InventoryRecord} {id : Identity} {g : Index}

/-- A record whose cable and polarity the entry allows goes to check 4 (R136). -/
theorem checks_eq_echoChecks (cls : b.allowed.getLsbD inv.cls.val = true) (shape : shapeFits inv.shape b.width = true)
    (polarity : (∃ i : Fin 4, i.val < b.width.lanes ∧ (Tab.get dr.lanes i).inverted = true) → b.inversion = true) :
    checks b dr inv id g = echoChecks b dr id g := by
  have level : ¬((laneRecords dr b.width.lanes).any (fun (_, r) => r.inverted) && !b.inversion) = true := fun both => by
    obtain ⟨inverted, refused⟩ := Bool.and_eq_true_iff.1 both
    rw [polarity ((any_laneRecords ..).1 inverted)] at refused
    cases refused
  rw [checks_eq, if_neg (by rw [cls]; decide), if_neg (by rw [shape]; decide), if_neg level]

/-- No lane is merged (check 4). -/
theorem echoChecks_peerSilent (silent : ∀ i : Fin 4, i.val < b.width.lanes → (Tab.get dr.lanes i).merged = none) :
    echoChecks b dr id g = .error .peerSilent :=
  if_pos ((isEmpty_mergedLanes ..).2 silent)

/-- Some lanes are merged, and some not (check 5). -/
theorem echoChecks_laneDark (some : ∃ i : Fin 4, i.val < b.width.lanes ∧ (Tab.get dr.lanes i).merged ≠ none)
    (dark : ∃ i : Fin 4, i.val < b.width.lanes ∧ (Tab.get dr.lanes i).merged = none) :
    echoChecks b dr id g = .error .laneDark := by
  obtain ⟨i, inside, merged⟩ := some
  have heard : ¬(mergedLanes dr b.width.lanes).isEmpty = true := fun silent => merged ((isEmpty_mergedLanes ..).1 silent i inside)
  exact (if_neg heard).trans (if_pos ((any_laneRecords _ _ fun r => r.merged.isNone).2 (by simpa using dark)))

variable {m : Fin 4 → Merged} (all : ∀ i : Fin 4, i.val < b.width.lanes → (Tab.get dr.lanes i).merged = some (m i))

include all

/-- A record whose lanes are all merged goes to check 6. -/
theorem echoChecks_merged : echoChecks b dr id g =
    if (laneRecords dr b.width.lanes).any (fun (_, r) => r.conflicted) then .error .unstable
    else if (mergedLanes dr b.width.lanes).any (fun (i, m) => m.back != laneAt g i.val) then .error .pairSplit
    else peerChecks b dr id (mergedLanes dr b.width.lanes) := by
  have heard : ¬(mergedLanes dr b.width.lanes).isEmpty = true := fun silent => by
    have none := (isEmpty_mergedLanes ..).1 silent 0 (Width.one_le_lanes _)
    rw [all 0 (Width.one_le_lanes _)] at none
    cases none
  have light : ¬((laneRecords dr b.width.lanes).any fun (_, r) => r.merged.isNone) = true := fun dark => by
    obtain ⟨i, inside, none⟩ := (any_laneRecords _ _ fun r => r.merged.isNone).1 dark
    rw [all i inside] at none
    cases none
  exact (if_neg heard).trans (if_neg light)

theorem echoChecks_unstable (conflict : ∃ i : Fin 4, i.val < b.width.lanes ∧ (Tab.get dr.lanes i).conflicted = true) :
    echoChecks b dr id g = .error .unstable :=
  (echoChecks_merged all).trans (if_pos ((any_laneRecords _ _ fun r => r.conflicted).2 conflict))

variable (stable : ∀ i : Fin 4, i.val < b.width.lanes → (Tab.get dr.lanes i).conflicted = false)

include stable

/-- A record without a conflict goes to check 7. -/
theorem echoChecks_stable : echoChecks b dr id g =
    if (mergedLanes dr b.width.lanes).any (fun (i, m) => m.back != laneAt g i.val) then .error .pairSplit
    else peerChecks b dr id (mergedLanes dr b.width.lanes) := by
  refine (echoChecks_merged all).trans (if_neg fun conflict => ?_)
  obtain ⟨i, inside, conflicted⟩ := (any_laneRecords _ _ fun r => r.conflicted).1 conflict
  rw [stable i inside] at conflicted
  cases conflicted

theorem echoChecks_pairSplit (split : ∃ i : Fin 4, i.val < b.width.lanes ∧ (m i).back ≠ laneAt g i.val) :
    echoChecks b dr id g = .error .pairSplit :=
  (echoChecks_stable all stable).trans (if_pos ((any_mergedLanes all fun i x => x.back != laneAt g i.val).2 (by simpa using split)))

/-- A record whose lanes return where they left goes to checks 8 to 11, made on the far ends. -/
theorem echoChecks_returned (back : ∀ i : Fin 4, i.val < b.width.lanes → (m i).back = laneAt g i.val) :
    echoChecks b dr id g = peerChecks b dr id (mergedLanes dr b.width.lanes) := by
  refine (echoChecks_stable all stable).trans (if_neg fun split => ?_)
  obtain ⟨i, inside, differs⟩ := (any_mergedLanes all fun i x => x.back != laneAt g i.val).1 split
  rw [back i inside, bne_self_eq_false] at differs
  cases differs

omit stable

/-- Checks 8 to 11 where every lane is merged, lane 0 first. -/
theorem peerChecks_eq : peerChecks b dr id (mergedLanes dr b.width.lanes) =
    if (mergedLanes dr b.width.lanes).any (fun (_, x) =>
        (x.far.chassis != (m 0).far.chassis) || (x.far.unit != (m 0).far.unit) || (x.far.port != (m 0).far.port)) then
      .error .splitFarEnd
    else if ((m 0).far.chassis == id.chassis) && ((m 0).far.unit == id.unit) then .error .loopback
    else if ((m 0).far.chassis != b.farChassis) || ((m 0).far.unit != b.farUnit) || ((m 0).far.port != b.farPort) then
      .error .wrongPeer
    else laneOrderCheck b (farLanes dr b.width.lanes) := by
  obtain ⟨rest, lanes⟩ := groupLanes_width b.width
  rw [mergedLanes_eq all, lanes]
  rfl

theorem peerChecks_splitFarEnd (split : ∃ i : Fin 4, i.val < b.width.lanes ∧ ((m i).far.chassis, (m i).far.unit, (m i).far.port)
      ≠ ((m 0).far.chassis, (m 0).far.unit, (m 0).far.port)) :
    peerChecks b dr id (mergedLanes dr b.width.lanes) = .error .splitFarEnd := by
  refine (peerChecks_eq all).trans (if_pos ((any_mergedLanes all fun _ x => (x.far.chassis != (m 0).far.chassis)
    || (x.far.unit != (m 0).far.unit) || (x.far.port != (m 0).far.port)).2 ?_))
  simpa only [farDiffers_iff] using split

variable (one : ∀ i : Fin 4, i.val < b.width.lanes → ((m i).far.chassis, (m i).far.unit, (m i).far.port)
  = ((m 0).far.chassis, (m 0).far.unit, (m 0).far.port))

include one

/-- A record with one far end goes to check 9. -/
theorem peerChecks_oneFarEnd : peerChecks b dr id (mergedLanes dr b.width.lanes) =
    if ((m 0).far.chassis == id.chassis) && ((m 0).far.unit == id.unit) then .error .loopback
    else if ((m 0).far.chassis != b.farChassis) || ((m 0).far.unit != b.farUnit) || ((m 0).far.port != b.farPort) then
      .error .wrongPeer
    else laneOrderCheck b (farLanes dr b.width.lanes) := by
  refine (peerChecks_eq all).trans (if_neg fun split => ?_)
  obtain ⟨i, inside, differs⟩ := (any_mergedLanes all fun _ x => (x.far.chassis != (m 0).far.chassis)
    || (x.far.unit != (m 0).far.unit) || (x.far.port != (m 0).far.port)).1 split
  exact (farDiffers_iff ..).1 differs (one i inside)

theorem peerChecks_loopback (own : (m 0).far.chassis = id.chassis ∧ (m 0).far.unit = id.unit) :
    peerChecks b dr id (mergedLanes dr b.width.lanes) = .error .loopback :=
  (peerChecks_oneFarEnd all one).trans (if_pos (by simpa using own))

variable (other : ¬((m 0).far.chassis = id.chassis ∧ (m 0).far.unit = id.unit))

include other

theorem peerChecks_wrongPeer
    (wrong : ((m 0).far.chassis, (m 0).far.unit, (m 0).far.port) ≠ (b.farChassis, b.farUnit, b.farPort)) :
    peerChecks b dr id (mergedLanes dr b.width.lanes) = .error .wrongPeer :=
  ((peerChecks_oneFarEnd all one).trans (if_neg (by simpa using other))).trans (if_pos ((farDiffers_iff ..).2 wrong))

/-- The far end of the entry comes to check 11 with its lanes in offset order. -/
theorem peerChecks_peer (peer : ((m 0).far.chassis, (m 0).far.unit, (m 0).far.port) = (b.farChassis, b.farUnit, b.farPort)) :
    peerChecks b dr id (mergedLanes dr b.width.lanes)
      = laneOrderCheck b ((List.range b.width.lanes).map fun i => (i, (m (Fin.ofNat 4 i)).far.lane)) := by
  rw [← map_groupLanes b.width fun n i => (n, (m i).far.lane), ← farLanes_eq all]
  exact ((peerChecks_oneFarEnd all one).trans (if_neg (by simpa using other))).trans
    (if_neg fun wrong => (farDiffers_iff ..).1 wrong peer)

end

/-- Settles O28: each check is reached through those before it. -/
theorem checksOneToTenInOrder : Obligations.ChecksOneToTenInOrder := by
  unfold Obligations.ChecksOneToTenInOrder
  intro b dr inv id g lane inGroup classAllowed shapeMatches inverted
  have allowed : classAllowed → ¬(!b.allowed.getLsbD inv.cls.val) = true := fun cls => by
    rw [show b.allowed.getLsbD inv.cls.val = true from cls]
    decide
  have fits := shapeFits_iff inv.shape b.width
  refine ⟨fun cls => ?_, fun cls shape => ?_, fun cls shape flips refuses => ?_, fun cls shape polarity => ?_⟩
  · rw [checks_eq, if_pos (by simpa [classAllowed] using cls)]
  · rw [checks_eq, if_neg (allowed cls), if_pos (by rw [Bool.not_eq_true', ← Bool.not_eq_true, fits]; exact shape)]
  · rw [checks_eq, if_neg (allowed cls), if_neg (by rw [fits.2 shape]; decide),
      if_pos (Bool.and_eq_true_iff.2 ⟨(any_laneRecords _ _ fun r => r.inverted).2 flips, by rw [refuses]; rfl⟩)]
  · rw [checks_eq_echoChecks cls (fits.2 shape) polarity]
    refine ⟨echoChecks_peerSilent, echoChecks_laneDark, fun m all => ⟨echoChecks_unstable all, fun stable => ?_⟩⟩
    refine ⟨echoChecks_pairSplit all stable, fun back => ?_⟩
    rw [echoChecks_returned all stable back]
    exact ⟨peerChecks_splitFarEnd all, fun one => ⟨peerChecks_loopback all one,
      fun other => ⟨peerChecks_wrongPeer all one other, peerChecks_peer all one other⟩⟩⟩

/-! ## Check 11 (R141) -/

theorem allEqual_iff (l : List Nat) : allEqual l = true ↔ ∀ x ∈ l, ∀ y ∈ l, x = y := by
  cases l with
  | nil => simp [allEqual]
  | cons a rest =>
    simp only [allEqual, List.all_eq_true, beq_iff_eq]
    refine ⟨fun same => ?_, fun same x mem => same x (List.mem_cons_of_mem a mem) a List.mem_cons_self⟩
    have first : ∀ x ∈ a :: rest, x = a := fun x mem => (List.mem_cons.1 mem).elim id (same x)
    exact fun x mx y my => (first x mx).trans (first y my).symm

/-- Far lanes that differ all by one shift from the offsets, or all sum with them to one value (R141). -/
theorem shifted_iff {W : Nat} (one : 1 ≤ W) (four : W ≤ 4) (f : Nat → Nat) :
    (allEqual (((List.range W).map fun i => (i, f i)).map fun (i, x) => x + 4 - i)
        || allEqual (((List.range W).map fun i => (i, f i)).map fun (i, x) => x + i)) = true
      ↔ (∃ c : Int, ∀ i < W, (f i : Int) - i = c) ∨ ∃ c, ∀ i < W, f i + i = c := by
  simp only [Bool.or_eq_true, allEqual_iff, List.mem_map, List.mem_range]
  refine or_congr ⟨fun same => ⟨f 0, fun i lt => ?_⟩, ?_⟩ ⟨fun same => ⟨f 0, fun i lt => ?_⟩, ?_⟩
  · have level := same _ ⟨_, ⟨i, lt, rfl⟩, rfl⟩ _ ⟨_, ⟨0, one, rfl⟩, rfl⟩
    dsimp only at level
    omega
  · rintro ⟨c, shift⟩ _ ⟨_, ⟨i, lt, rfl⟩, rfl⟩ _ ⟨_, ⟨j, lt', rfl⟩, rfl⟩
    have here := shift i lt
    have there := shift j lt'
    dsimp only
    omega
  · exact same _ ⟨_, ⟨i, lt, rfl⟩, rfl⟩ _ ⟨_, ⟨0, one, rfl⟩, rfl⟩
  · rintro ⟨c, sum⟩ _ ⟨_, ⟨i, lt, rfl⟩, rfl⟩ _ ⟨_, ⟨j, lt', rfl⟩, rfl⟩
    exact (sum i lt).trans (sum j lt').symm

/-- Far lanes that descend from the last of the entry's (R141). -/
theorem reversed_iff (w : Width) (F : Nat) (f : Nat → Nat) :
    (decide (1 < w.lanes) && ((List.range w.lanes).map fun i => (i, f i)).all fun (i, x) => x + i == F + w.lanes - 1) = true
      ↔ (w.lanes = 2 ∨ w.lanes = 4) ∧ ∀ i < w.lanes, (f i : Int) = F + w.lanes - 1 - i := by
  have wide : 1 < w.lanes ↔ w.lanes = 2 ∨ w.lanes = 4 := by cases w <;> decide
  have one := w.one_le_lanes
  rw [Bool.and_eq_true, decide_eq_true_iff, wide]
  refine and_congr_right fun _ => ?_
  simp only [List.all_map, List.all_eq_true, List.mem_range, Function.comp_apply, beq_iff_eq]
  exact forall₂_congr fun i lt => by omega

theorem straight_iff (W F : Nat) (f : Nat → Nat) :
    (((List.range W).map fun i => (i, f i)).all fun (i, x) => x == F + i) = true ↔ ∀ i < W, f i = F + i := by simp

open scoped Classical in
/-- Check 11 on the far lanes f i of the offsets of an entry's width (R141). -/
theorem laneOrderCheck_eq (b : PlanFields) (f : Nat → Nat) :
    laneOrderCheck b ((List.range b.width.lanes).map fun i => (i, f i)) =
      if ∀ i < b.width.lanes, f i = b.farFirstLane + i then .ok .straight
      else if (b.width.lanes = 2 ∨ b.width.lanes = 4)
          ∧ ∀ i < b.width.lanes, (f i : Int) = b.farFirstLane + b.width.lanes - 1 - i then
        if b.reversal then .ok .reversed else .error .laneOrder
      else if (∃ c : Int, ∀ i < b.width.lanes, (f i : Int) - i = c) ∨ ∃ c, ∀ i < b.width.lanes, f i + i = c then .error .wrongLane
      else .error .laneOrder :=
  if_congr (straight_iff ..) rfl (if_congr (reversed_iff ..) rfl
    (if_congr (shifted_iff b.width.one_le_lanes b.width.lanes_le_four f) rfl rfl))

/-- Settles O26 (check 11 itself has the plain name): the lane map of check 11 is the record's from check 12 on, and a failing check
writes nothing. -/
theorem laneOrderCheck' : Obligations.LaneOrderCheck := by
  unfold Obligations.LaneOrderCheck
  constructor
  · intro b f W F far straight reversed shifted
    rw [laneOrderCheck_eq]
    refine ⟨fun s => if_pos s, fun s r on => ?_, fun s r off => ?_, fun s r c => ?_, fun s r c => ?_⟩
    · rw [if_neg s, if_pos r, if_pos on]
    · rw [if_neg s, if_pos r, if_neg (by rw [off]; decide)]
    · rw [if_neg s, if_neg r, if_pos c]
    · rw [if_neg s, if_neg r, if_neg c]
  · intro s g checked
    rw [record_verdict]
    exact ⟨(judgeRecord_record ..).2, fun r fails => congrArg (fun j => j.1.laneMap) (judgeRecord_error fails)⟩

end Sys2Proof.Machine
end

section
/-! The verdict by its last checks (R142 to R146): the skew of a group (R159), what a failing check leaves, and the outcome of check 14. -/

namespace Sys2Proof.Machine

/-! ## The skew (R159) -/

theorem foldl_max_le_iff (l : List Nat) (a x : Nat) : l.foldl max a ≤ x ↔ a ≤ x ∧ ∀ y ∈ l, y ≤ x := by
  induction l generalizing a with
  | nil => simp
  | cons b rest ih => rw [List.foldl_cons, ih, Nat.max_le, List.forall_mem_cons, and_assoc]

theorem le_foldl_min_iff (l : List Nat) (a x : Nat) : x ≤ l.foldl min a ↔ x ≤ a ∧ ∀ y ∈ l, x ≤ y := by
  induction l generalizing a with
  | nil => simp
  | cons b rest ih => rw [List.foldl_cons, ih, Nat.le_min, List.forall_mem_cons, and_assoc]

theorem maxOf_le_iff (l : List Nat) (x : Nat) : maxOf l ≤ x ↔ ∀ y ∈ l, y ≤ x :=
  (foldl_max_le_iff l 0 x).trans (and_iff_right (Nat.zero_le x))

theorem le_minOf_iff {l : List Nat} (some : l ≠ []) (x : Nat) : x ≤ minOf l ↔ ∀ y ∈ l, x ≤ y := by
  cases l with
  | nil => exact absurd rfl some
  | cons a rest => exact (le_foldl_min_iff rest a x).trans List.forall_mem_cons.symm

theorem maxOf_eq {l : List Nat} {x : Nat} (mem : x ∈ l) (most : ∀ y ∈ l, y ≤ x) : maxOf l = x :=
  Nat.le_antisymm ((maxOf_le_iff l x).2 most) ((maxOf_le_iff l _).1 (Nat.le_refl _) x mem)

theorem minOf_eq {l : List Nat} {x : Nat} (mem : x ∈ l) (least : ∀ y ∈ l, x ≤ y) : minOf l = x :=
  have some := List.ne_nil_of_mem mem
  Nat.le_antisymm ((le_minOf_iff some _).1 (Nat.le_refl _) x mem) ((le_minOf_iff some x).2 least)

theorem mem_estimates {dr : DiscoveryRecord} {W x : Nat} :
    x ∈ estimates dr W ↔ ∃ i : Fin 4, i.val < W ∧ (Tab.get dr.lanes i).estimate.getD 0 = x := by
  simp [estimates]

/-- With an estimate on every lane the skew is the largest less the smallest (R159). -/
theorem groupSkew_eq {dr : DiscoveryRecord} {W most least : Nat} {i j : Fin 4} (hi : i.val < W)
    (largest : (Tab.get dr.lanes i).estimate = some most) (hj : j.val < W) (smallest : (Tab.get dr.lanes j).estimate = some least)
    (between : ∀ k : Fin 4, k.val < W → ∃ E, (Tab.get dr.lanes k).estimate = some E ∧ least ≤ E ∧ E ≤ most) :
    groupSkew dr W = most - least := by
  have bounds : ∀ x ∈ estimates dr W, least ≤ x ∧ x ≤ most := fun x mem => by
    obtain ⟨k, inside, rfl⟩ := mem_estimates.1 mem
    obtain ⟨E, estimate, range⟩ := between k inside
    rw [estimate]
    exact range
  unfold groupSkew
  rw [maxOf_eq (mem_estimates.2 ⟨i, hi, by rw [largest]; rfl⟩) fun x mem => (bounds x mem).2,
    minOf_eq (mem_estimates.2 ⟨j, hj, by rw [smallest]; rfl⟩) fun x mem => (bounds x mem).1]

/-! ## The record of each outcome -/

section

variable {b : PlanFields} {D : Nat} {inv : InventoryRecord} {id : Identity} {g : Index} {dr : DiscoveryRecord} {m : LaneMap}

/-- The record of check 12: the lane map and the lengths written (R141, R158). -/
def lengthRecord (b : PlanFields) (D : Nat) (m : LaneMap) (dr : DiscoveryRecord) : DiscoveryRecord :=
  withLengths D b.width.lanes { dr with laneMap := some m }

theorem groupSkew_lengthRecord (W : Nat) : groupSkew (lengthRecord b D m dr) W = groupSkew dr W :=
  (echoesKept_withLengths D b.width.lanes { dr with laneMap := some m }).groupSkew W

/-- A length computation leaves the compensations (R157). -/
theorem comp_lengthRecord (i : Fin 4) : (Tab.get (lengthRecord b D m dr).lanes i).comp = (Tab.get dr.lanes i).comp := by
  unfold lengthRecord withLengths
  rw [get_mapLanes]
  split <;> rfl

/-- A length outside its window ends the verdict with the lengths written (R142). -/
theorem judgeRecord_length {reason : Reason} (passes : checks b dr inv id g = .ok m)
    (finding : lengthFinding b (lengthRecord b D m dr) = some reason) :
    judgeRecord b D inv id g dr = (lengthRecord b D m dr, .quarantined reason) := by
  unfold lengthRecord at finding
  unfold judgeRecord lengthRecord
  simp only [passes, finding]

/-- A skew above its limit ends the verdict with the skew written too (R143). -/
theorem judgeRecord_skew (passes : checks b dr inv id g = .ok m) (fits : lengthFinding b (lengthRecord b D m dr) = none)
    (skewed : 16 * b.skewLimit < groupSkew dr b.width.lanes) :
    judgeRecord b D inv id g dr
      = ({ lengthRecord b D m dr with skew := some (groupSkew dr b.width.lanes) }, .quarantined .skew) := by
  have finding : skewFinding b (withSkew b.width.lanes (lengthRecord b D m dr)) = some .skew := by
    rw [skewFinding_withSkew, groupSkew_lengthRecord, if_pos skewed]
  rw [← groupSkew_lengthRecord (b := b) (D := D) (m := m)]
  unfold lengthRecord at fits finding
  unfold judgeRecord lengthRecord
  simp only [passes, fits, finding]
  rfl

/-- With lengths and skew in their windows the compensations are written, and check 14 gives the outcome (R144). -/
theorem judgeRecord_view (passes : checks b dr inv id g = .ok m) (fits : lengthFinding b (lengthRecord b D m dr) = none)
    (level : ¬16 * b.skewLimit < groupSkew dr b.width.lanes) :
    judgeRecord b D inv id g dr
      = (withComps b.width.lanes { lengthRecord b D m dr with skew := some (groupSkew dr b.width.lanes) }, viewCheck dr.lastView) := by
  have finding : skewFinding b (withSkew b.width.lanes (lengthRecord b D m dr)) = none := by
    rw [skewFinding_withSkew, groupSkew_lengthRecord, if_neg level]
  rw [← groupSkew_lengthRecord (b := b) (D := D) (m := m)]
  unfold lengthRecord at fits finding
  unfold judgeRecord lengthRecord
  simp only [passes, fits, finding]
  rfl

end

/-! ## The outcome -/

/-- What a verdict that fails leaves of its group (R78, R135, R145). -/
structure VerdictFails (s t : State) (g : Index) (reason : Reason) (left : DiscoveryRecord) : Prop where
  entered : InState t g .quarantined reason none
  record : (t.ctx g).record = left
  bound : (t.ctx g).bound = some (s.entry g).fields
  stale : (t.ctx g).stale = false
  timer : (t.ctx g).timer = if (s.entry g).fields.retry = 0 then none
    else some { kind := .retry, remaining := 1000000000 * (s.entry g).fields.retry }
  map : (t.path g).map = (s.path g).map
  comps : (t.path g).comps = (s.path g).comps

theorem entryTimer_quarantined (t : Settings) (b : PlanFields) : entryTimer t (some b) .quarantined
    = if b.retry = 0 then none else some { kind := .retry, remaining := 1000000000 * b.retry } := by
  have seconds : 1000 * msToNs b.retry = 1000000000 * b.retry := by
    unfold msToNs
    omega
  rw [← seconds]
  rfl

theorem verdictFails_verdict {s : State} {g : Index} {reason : Reason} {left : DiscoveryRecord}
    (judged : s.judgement g = (left, .quarantined reason)) : VerdictFails s (s.verdict g) g reason left := by
  have is : s.verdict g = (s.judged g).quarantine g reason := by
    rw [verdict_eq, judged]
    rfl
  have ctx : (s.verdict g).ctx g = enterContext (s.judged g) g .quarantined reason none ((s.judged g).ctx g) := by
    rw [is]
    exact ctx_enter_same ..
  obtain ⟨map, comps⟩ := kept_quarantine (s.judged g) g reason
  rw [← is] at map comps
  rw [ctx_judged, judged] at ctx
  refine ⟨is ▸ inState_enter .., ?_, ?_, ?_, ?_, map, comps⟩
  · rw [ctx]; rfl
  · rw [ctx]; rfl
  · rw [ctx]; rfl
  · rw [ctx]; exact entryTimer_quarantined (s.judged g).mga.settings _

/-- Settles O27: each failing check quarantines with what was written so far, and the last view decides the rest. -/
theorem lastChecksDecideTheOutcome : Obligations.LastChecksDecideTheOutcome := by
  classical
  unfold Obligations.LastChecksDecideTheOutcome
  intro s g m b dr D W judged short long skewed t fails isSkew
  have failed : ∀ {reason left}, s.judgement g = (left, .quarantined reason) →
      (∀ i, (Tab.get left.lanes i).comp = (Tab.get dr.lanes i).comp) → fails reason left := fun is kept => by
    obtain ⟨entered, record, bound, stale, timer, map, comps⟩ := verdictFails_verdict is
    exact ⟨entered, record, bound, stale, timer, fun i => by rw [record]; exact kept i, map, comps⟩
  refine ⟨fun r wrong => failed (judgeRecord_error wrong) fun _ => rfl, fun passes => ?_⟩
  have kept : ∀ i, (Tab.get judged.lanes i).comp = (Tab.get dr.lanes i).comp := comp_lengthRecord
  have fits : ¬short → ¬long → lengthFinding b judged = none := fun noShort noLong =>
    (lengthFinding_notShort (b := b) (dr := judged) noShort).trans (if_neg noLong)
  refine ⟨?_, fun found => ?_, fun noShort found => ?_, fun noShort noLong found => ?_, fun noShort noLong level => ?_⟩
  · rintro n ⟨i, j, most, least, hi, largest, hj, smallest, rfl, between⟩
    exact groupSkew_eq hi largest hj smallest between
  · exact failed (judgeRecord_length passes (lengthFinding_short found)) kept
  · exact failed (judgeRecord_length passes ((lengthFinding_notShort (dr := judged) noShort).trans (if_pos found))) kept
  · exact failed (judgeRecord_skew passes (fits noShort noLong) found) kept
  · have is : s.judgement g = _ := judgeRecord_view passes (fits noShort noLong) level
    have viewed : ∀ v, dr.lastView = v → InState t g (viewCheck v).state (viewCheck v).reason (viewCheck v).origin := fun v view => by
      have entered := inState_verdict s g
      rw [is, view] at entered
      exact entered
    exact ⟨(record_verdict s g).trans (congrArg Prod.fst is), fun v => v.elim (viewed _) (viewed _), viewed _, viewed _,
      fun v => v.elim (viewed _) (viewed _)⟩

end Sys2Proof.Machine
end

section
/-! Discovery records as the checks find them (R147), and the range of each of their items (R129, R153 to R160), through every
computation on a record. -/

namespace Sys2Proof.Machine

/-! ## Lanes that agree (R137 to R139, R147) -/

/-- Every lane of group g below W is merged, without a conflict, returned on its own lane, and names one far chassis, unit and port. -/
def LanesAgree (g : Index) (W : Nat) (dr : DiscoveryRecord) : Prop :=
  ∃ far, ∀ i : Fin 4, i.val < W →
    ∃ m, (Tab.get dr.lanes i).merged = some m ∧ (Tab.get dr.lanes i).conflicted = false ∧ m.back = laneAt g i.val
      ∧ (m.far.chassis, m.far.unit, m.far.port) = far

section

variable {b : PlanFields} {dr : DiscoveryRecord} {inv : InventoryRecord} {id : Identity} {g : Index} {map : LaneMap}

/-- A record that passes the checks has passed those of the cable, and comes to check 4. -/
theorem echoChecks_of_checks (passes : checks b dr inv id g = .ok map) : echoChecks b dr id g = .ok map := by
  rw [checks_eq] at passes
  split_ifs at passes
  exact passes

/-- A record that passes the checks has every lane merged. -/
theorem merged_of_echoChecks (passes : echoChecks b dr id g = .ok map) (i : Fin 4) (inside : i.val < b.width.lanes) :
    (Tab.get dr.lanes i).merged ≠ none := by
  intro dark
  by_cases heard : ∃ j : Fin 4, j.val < b.width.lanes ∧ (Tab.get dr.lanes j).merged ≠ none
  · rw [echoChecks_laneDark heard ⟨i, inside, dark⟩] at passes
    cases passes
  · rw [echoChecks_peerSilent fun j lt => not_not.1 fun some => heard ⟨j, lt, some⟩] at passes
    cases passes

/-- What the checks that pass have seen of the lanes (R137 to R139). -/
theorem lanesAgree_of_checks (passes : checks b dr inv id g = .ok map) : LanesAgree g b.width.lanes dr := by
  replace passes := echoChecks_of_checks passes
  have merged := merged_of_echoChecks passes
  obtain ⟨first, -⟩ := Option.ne_none_iff_exists'.1 (merged 0 (Width.one_le_lanes _))
  obtain ⟨m, all⟩ : ∃ m : Fin 4 → Merged, ∀ i : Fin 4, i.val < b.width.lanes → (Tab.get dr.lanes i).merged = some (m i) := by
    refine ⟨fun i => (Tab.get dr.lanes i).merged.getD first, fun i inside => ?_⟩
    obtain ⟨x, is⟩ := Option.ne_none_iff_exists'.1 (merged i inside)
    simp only [is, Option.getD_some]
  have stable : ∀ i : Fin 4, i.val < b.width.lanes → (Tab.get dr.lanes i).conflicted = false := fun i inside => by
    by_contra conflict
    rw [echoChecks_unstable all ⟨i, inside, Bool.not_eq_false _ ▸ conflict⟩] at passes
    cases passes
  have back : ∀ i : Fin 4, i.val < b.width.lanes → (m i).back = laneAt g i.val := fun i inside => by
    by_contra split
    rw [echoChecks_pairSplit all stable ⟨i, inside, split⟩] at passes
    cases passes
  refine ⟨((m 0).far.chassis, (m 0).far.unit, (m 0).far.port), fun i inside => ?_⟩
  refine ⟨m i, all i inside, stable i inside, back i inside, ?_⟩
  by_contra split
  rw [echoChecks_returned all stable back, peerChecks_splitFarEnd all ⟨i, inside, split⟩] at passes
  cases passes

end

/-- What R147 reads of a record is the same in another: the lane map, and of each lane what it merged, its conflict and its
compensation. -/
structure RulingKept (a b : DiscoveryRecord) : Prop where
  laneMap : b.laneMap = a.laneMap
  merged : ∀ i, (Tab.get b.lanes i).merged = (Tab.get a.lanes i).merged
  conflicted : ∀ i, (Tab.get b.lanes i).conflicted = (Tab.get a.lanes i).conflicted
  comp : ∀ i, (Tab.get b.lanes i).comp = (Tab.get a.lanes i).comp

theorem LanesAgree.congr {g : Index} {W : Nat} {a b : DiscoveryRecord} (h : LanesAgree g W a)
    (merged : ∀ i, (Tab.get b.lanes i).merged = (Tab.get a.lanes i).merged)
    (conflicted : ∀ i, (Tab.get b.lanes i).conflicted = (Tab.get a.lanes i).conflicted) : LanesAgree g W b := by
  obtain ⟨far, lanes⟩ := h
  refine ⟨far, fun i inside => ?_⟩
  rw [merged, conflicted]
  exact lanes i inside

/-- A change of each lane that leaves what it merged, its conflict and its compensation. -/
theorem rulingKept_mapLanes (dr : DiscoveryRecord) (W : Nat) {f : Fin 4 → LaneRecord → LaneRecord}
    (kept : ∀ i r, (f i r).merged = r.merged ∧ (f i r).conflicted = r.conflicted ∧ (f i r).comp = r.comp) :
    RulingKept dr (dr.mapLanes W f) := by
  refine ⟨rfl, fun i => ?_, fun i => ?_, fun i => ?_⟩
  all_goals
    obtain ⟨merged, conflicted, comp⟩ := kept i (Tab.get dr.lanes i)
    rw [get_mapLanes]
    split
    · assumption
    · rfl

theorem rulingKept_windowRecord (b : PlanFields) (D : Nat) (dr : DiscoveryRecord) : RulingKept dr (windowRecord b D dr) :=
  have lengths : RulingKept dr (withLengths D b.width.lanes dr) := rulingKept_mapLanes _ _ fun _ _ => ⟨rfl, rfl, rfl⟩
  ⟨lengths.laneMap, lengths.merged, lengths.conflicted, lengths.comp⟩

/-- A recheck round compares with what the record holds, and leaves it (R174). -/
theorem rulingKept_recheckRecord (s : State) (g : Index) (outs : Tab (Option LaneOutcome) 4) :
    RulingKept (s.ctx g).record (recheckRecord s g outs) := by
  refine rulingKept_mapLanes _ _ fun i r => ?_
  unfold recheckLane
  split
  · exact ⟨rfl, rfl, rfl⟩
  · split <;> exact ⟨rfl, rfl, rfl⟩
  · exact ⟨rfl, rfl, rfl⟩

/-! ## Items in their ranges -/

/-- Every item of a lane lies in its range (R129, R156, R157, R160). -/
structure LaneRecord.InRange (r : LaneRecord) : Prop where
  estimate : ∀ E, r.estimate = some E → E ≤ 16777215
  length : ∀ n, r.length = some n → n ≤ 65535
  comp : ∀ n, r.comp = some n → n ≤ 63
  missRun : r.missRun ≤ 3
  echoCount : r.echoCount ≤ 16

/-- Every item of a record lies in its range. -/
structure DiscoveryRecord.InRange (dr : DiscoveryRecord) : Prop where
  lanes : ∀ i, (Tab.get dr.lanes i).InRange
  skew : ∀ n, dr.skew = some n → n ≤ 16777215

/-- A smoothing step does not go past the sample (R156). -/
theorem smooth_le {k E v limit : Nat} (old : E ≤ limit) (sample : v ≤ limit) : smooth k E v ≤ limit := by
  have pos : (0 : Int) < 2 ^ k := by positivity
  have step : Int.tdiv ((v : Int) - E) (2 ^ k) ≤ max 0 ((v : Int) - E) := by
    rcases le_total 0 ((v : Int) - E) with up | down
    · exact (Int.tdiv_le_self _ up).trans (le_max_right ..)
    · refine le_trans ?_ (le_max_left ..)
      rw [← Int.neg_nonneg, ← Int.neg_tdiv]
      exact Int.tdiv_nonneg (by omega) pos.le
  unfold smooth
  omega

theorem nextEstimate_le {k v limit : Nat} {old : Option Nat} (range : ∀ E, old = some E → E ≤ limit) (sample : v ≤ limit) :
    nextEstimate k v old ≤ limit := by
  cases old with
  | none => exact sample
  | some E => exact smooth_le (range E rfl) sample

/-- A sample is clamped, a smoothing step stays between, and the echo count stays at 16 (R154, R156). -/
theorem LaneRecord.InRange.takeSample {r : LaneRecord} (h : r.InRange) (t : Settings) (e : EchoItems) : (r.takeSample t e).InRange where
  estimate E is := by
    cases is
    exact nextEstimate_le h.estimate (Nat.min_le_right ..)
  length := h.length
  comp := h.comp
  missRun := h.missRun
  echoCount := Nat.min_le_right ..

theorem LaneRecord.InRange.setMissRun {r : LaneRecord} (h : r.InRange) {n : Nat} (few : n ≤ 3) : { r with missRun := n }.InRange :=
  { h with missRun := few }

theorem LaneRecord.InRange.mergeLane {r : LaneRecord} (h : r.InRange) (t : Settings) (o : Option LaneOutcome) :
    (mergeLane t o r).InRange := by
  have hit := h.setMissRun (Nat.zero_le 3)
  unfold Machine.mergeLane
  split
  · split
    · refine LaneRecord.InRange.takeSample ?_ t _
      exact ⟨hit.estimate, hit.length, hit.comp, hit.missRun, hit.echoCount⟩
    · split
      · exact hit.takeSample t _
      · exact { hit with }
  · exact h.setMissRun (Nat.min_le_right ..)
  · exact h

theorem LaneRecord.InRange.recheckLane {r : LaneRecord} (h : r.InRange) (t : Settings) (o : Option LaneOutcome) :
    (recheckLane t o r).InRange := by
  unfold Machine.recheckLane
  split
  · exact h.setMissRun (Nat.min_le_right ..)
  · split
    · exact (h.setMissRun (Nat.zero_le 3)).takeSample t _
    · exact h
  · exact h

theorem inRange_clearedLane : LaneRecord.cleared.InRange := ⟨nofun, nofun, nofun, Nat.zero_le 3, Nat.zero_le 16⟩

theorem inRange_cleared : DiscoveryRecord.cleared.InRange where
  lanes i := by
    rw [DiscoveryRecord.cleared, Tab.get_fill]
    exact inRange_clearedLane
  skew := nofun

theorem DiscoveryRecord.InRange.mapLanes {dr : DiscoveryRecord} (h : dr.InRange) (W : Nat) {f : Fin 4 → LaneRecord → LaneRecord}
    (each : ∀ i r, r.InRange → (f i r).InRange) : (dr.mapLanes W f).InRange where
  lanes i := by
    rw [get_mapLanes]
    split
    exacts [each i _ (h.lanes i), h.lanes i]
  skew := h.skew

theorem DiscoveryRecord.InRange.withLengths {dr : DiscoveryRecord} (h : dr.InRange) (D W : Nat) : (withLengths D W dr).InRange :=
  h.mapLanes W fun _ r range =>
    { range with
      length := fun n is => by
        obtain ⟨E, -, rfl⟩ := Option.map_eq_some_iff.1 is
        exact Nat.min_le_right .. }

theorem DiscoveryRecord.InRange.withComps {dr : DiscoveryRecord} (h : dr.InRange) (W : Nat) : (withComps W dr).InRange :=
  h.mapLanes W fun _ r range =>
    { range with
      comp := fun n is => by
        obtain ⟨E, -, rfl⟩ := Option.map_eq_some_iff.1 is
        exact Nat.min_le_right .. }

/-- The skew is at most the largest estimate (R159). -/
theorem DiscoveryRecord.InRange.withSkew {dr : DiscoveryRecord} (h : dr.InRange) (W : Nat) : (withSkew W dr).InRange where
  lanes := h.lanes
  skew n is := by
    cases is
    refine (Nat.sub_le ..).trans ((maxOf_le_iff ..).2 fun x mem => ?_)
    obtain ⟨i, -, rfl⟩ := mem_estimates.1 mem
    cases estimate : (Tab.get dr.lanes i).estimate with
    | none => exact Nat.zero_le _
    | some E => exact (h.lanes i).estimate E estimate

theorem DiscoveryRecord.InRange.windowRecord {dr : DiscoveryRecord} (h : dr.InRange) (b : PlanFields) (D : Nat) :
    (windowRecord b D dr).InRange := (h.withLengths D b.width.lanes).withSkew b.width.lanes

/-- The verdict writes items in range alone (R141 to R144). -/
theorem DiscoveryRecord.InRange.judgeRecord {dr : DiscoveryRecord} (h : dr.InRange) (b : PlanFields) (D : Nat) (inv : InventoryRecord)
    (id : Identity) (g : Index) : (judgeRecord b D inv id g dr).1.InRange := by
  unfold Machine.judgeRecord
  split
  · exact h
  · next m _ =>
    have mapped : { dr with laneMap := some m }.InRange := ⟨h.lanes, h.skew⟩
    have lengths := mapped.withLengths D b.width.lanes
    dsimp only
    split
    · exact lengths
    · have skew := lengths.withSkew b.width.lanes
      split
      exacts [skew, skew.withComps b.width.lanes]

/-- A change of state keeps the record, or clears it (R60, R63, R130). -/
theorem DiscoveryRecord.InRange.entryRecord {c : Context} (h : c.record.InRange) (s : State) (g : Index) (st : GroupState) :
    (entryRecord s g c st).InRange := by
  cases st with
  | unplanned | waiting => exact inRange_cleared
  | discovering =>
    unfold Machine.entryRecord
    refine inRange_cleared.mapLanes _ fun i r range => ?_
    exact ⟨range.estimate, range.length, range.comp, range.missRun, range.echoCount⟩
  | acquiring | agreeing | verified | degraded | quarantined | held | lost => exact h

end Sys2Proof.Machine
end

section
/-! The records of R147 and their ranges through each operation on a context (R56, R60, R101 to R106, R134, R135, R173). -/

namespace Sys2Proof.Machine

/-! ## One group -/

/-- R147 of group g: its record whole, with the map and compensations that the FSU holds. -/
structure RecordInForce (s : State) (g : Index) : Prop where
  lanes : LanesAgree g (boundWidth s g) (s.ctx g).record
  laneMap : (s.ctx g).record.laneMap = some (s.path g).map
  comps : ∀ i, Tab.get (s.path g).comps i = ((Tab.get (s.ctx g).record.lanes i).comp).getD 0

theorem openRecordsConsistent_iff (s : State) :
    OpenRecordsConsistent s ↔ ∀ g, passedVerdict (s.ctx g).state → RecordInForce s g :=
  forall₂_congr fun _ _ => ⟨fun ⟨lanes, laneMap, comps⟩ => ⟨lanes, laneMap, comps⟩, fun h => ⟨h.lanes, h.laneMap, h.comps⟩⟩

/-- The record of group g, and its compensations in the FSU, lie in their ranges. -/
structure GroupInRange (s : State) (g : Index) : Prop where
  record : (s.ctx g).record.InRange
  loaded : ∀ i, Tab.get (s.path g).comps i ≤ 63

theorem recordsInRange_iff (s : State) : RecordsInRange s ↔ ∀ g, GroupInRange s g where
  mp h g :=
    { record :=
        { lanes := fun i => ⟨h.estimate g i, h.length g i, h.comp g i, h.missRun g i, h.echoCount g i⟩
          skew := h.skew g }
      loaded := h.loaded g }
  mpr h :=
    { estimate := fun g i => ((h g).record.lanes i).estimate
      length := fun g i => ((h g).record.lanes i).length
      comp := fun g i => ((h g).record.lanes i).comp
      missRun := fun g i => ((h g).record.lanes i).missRun
      echoCount := fun g i => ((h g).record.lanes i).echoCount
      skew := fun g => (h g).record.skew
      loaded := fun g => (h g).loaded }

/-- From s to t group g keeps R147 and the ranges of its items. -/
structure KeepsRecord (g : Index) (s t : State) : Prop where
  inForce : (passedVerdict (s.ctx g).state → RecordInForce s g) → passedVerdict (t.ctx g).state → RecordInForce t g
  inRange : GroupInRange s g → GroupInRange t g

/-- It looks at the state, the width and the record of the context, and at the map and compensations in the FSU. -/
theorem KeepsRecord.congr {g : Index} {s t : State} (state : (t.ctx g).state = (s.ctx g).state)
    (bound : (t.ctx g).bound = (s.ctx g).bound) (record : (t.ctx g).record = (s.ctx g).record)
    (map : (t.path g).map = (s.path g).map) (comps : (t.path g).comps = (s.path g).comps) : KeepsRecord g s t where
  inForce h passed := by
    have was := h (state ▸ passed)
    have width : boundWidth t g = boundWidth s g := by
      unfold boundWidth
      rw [bound]
    exact ⟨by rw [width, record]; exact was.lanes, by rw [record, map]; exact was.laneMap,
      by rw [record, comps]; exact was.comps⟩
  inRange h := ⟨by rw [record]; exact h.record, by rw [comps]; exact h.loaded⟩

theorem passedVerdict_iff (st : GroupState) : passedVerdict st ↔ keepsRound st = true := by
  unfold passedVerdict
  cases st <;> decide

/-- A group that has not passed a verdict has its ranges alone to keep. -/
theorem KeepsRecord.closed {g : Index} {s t : State} (out : keepsRound (t.ctx g).state = false)
    (inRange : GroupInRange s g → GroupInRange t g) : KeepsRecord g s t where
  inForce _ passed := by
    rw [passedVerdict_iff, out] at passed
    cases passed
  inRange := inRange

/-! ## Every group -/

/-- What one part of an event does to the groups keeps R147 and the ranges of the items of each. -/
structure KeepsRecords (s t : State) : Prop where
  each : ∀ g, KeepsRecord g s t

theorem KeepsRecords.refl {s : State} : KeepsRecords s s := ⟨fun _ => ⟨id, id⟩⟩

theorem KeepsRecords.trans {s t u : State} (a : KeepsRecords s t) (b : KeepsRecords t u) : KeepsRecords s u where
  each g := ⟨fun h => (b.each g).inForce ((a.each g).inForce h), fun h => (b.each g).inRange ((a.each g).inRange h)⟩

/-- An operation given to contexts one after another. -/
theorem KeepsRecords.fold {α : Type} {f : State → α → State} (each : ∀ s x, KeepsRecords s (f s x)) (xs : List α) (s : State) :
    KeepsRecords s (xs.foldl f s) := by
  induction xs generalizing s with
  | nil => exact .refl
  | cons x rest ih => exact (each s x).trans (ih _)

/-- A part that leaves contexts, maps and compensations. -/
theorem KeepsRecords.quiet {s t : State} (ctx : ∀ g, t.ctx g = s.ctx g) (map : ∀ g, (t.path g).map = (s.path g).map)
    (comps : ∀ g, (t.path g).comps = (s.path g).comps) : KeepsRecords s t where
  each g := .congr (by rw [ctx]) (by rw [ctx]) (by rw [ctx]) (map g) (comps g)

/-- A part at one group. -/
theorem KeepsRecords.at {s t : State} {g : Index} (e : EventAt g s t) (own : KeepsRecord g s t) : KeepsRecords s t where
  each k := by
    by_cases same : k = g
    · exact same ▸ own
    · have ctx := e.others.contexts k same
      have path := e.others.paths k same
      exact .congr (by rw [ctx]) (by rw [ctx]) (by rw [ctx]) (by rw [path]) (by rw [path])

theorem KeepsRecords.openRecords {s t : State} (k : KeepsRecords s t) (h : OpenRecordsConsistent s) : OpenRecordsConsistent t :=
  (openRecordsConsistent_iff t).2 fun g => (k.each g).inForce ((openRecordsConsistent_iff s).1 h g)

theorem KeepsRecords.ranges {s t : State} (k : KeepsRecords s t) (h : RecordsInRange s) : RecordsInRange t :=
  (recordsInRange_iff t).2 fun g => (k.each g).inRange ((recordsInRange_iff s).1 h g)

/-! ## Changes of a context -/

/-- A change of a context that keeps its state, its binding and its record. -/
theorem KeepsRecords.context {s : State} {g : Index} {f : Context → Context} (state : (f (s.ctx g)).state = (s.ctx g).state)
    (bound : (f (s.ctx g)).bound = (s.ctx g).bound) (record : (f (s.ctx g)).record = (s.ctx g).record) :
    KeepsRecords s (s.modCtx g f) :=
  .at (.modCtx ..) (.congr (by rw [ctx_modCtx_same, state]) (by rw [ctx_modCtx_same, bound]) (by rw [ctx_modCtx_same, record]) rfl rfl)

/-- Another record, which for a group past its verdict rules as the one before. -/
theorem KeepsRecords.record {s : State} {g : Index} {dr : DiscoveryRecord}
    (kept : passedVerdict (s.ctx g).state → RulingKept (s.ctx g).record dr) (range : (s.ctx g).record.InRange → dr.InRange) :
    KeepsRecords s (s.withRecord g dr) := by
  have width : boundWidth (s.withRecord g dr) g = boundWidth s g := by
    unfold boundWidth
    rw [ctx_withRecord]
  refine .at (.modCtx ..) ⟨fun h passed => ?_, fun h => ⟨by rw [ctx_withRecord]; exact range h.record, h.loaded⟩⟩
  rw [ctx_withRecord] at passed
  obtain ⟨lanes, laneMap, comps⟩ := h passed
  have ruling := kept passed
  constructor
  · rw [width, ctx_withRecord]
    exact lanes.congr ruling.merged ruling.conflicted
  · rw [ctx_withRecord]
    exact ruling.laneMap.trans laneMap
  · intro i
    rw [ctx_withRecord]
    exact (comps i).trans (congrArg (Option.getD · 0) (ruling.comp i).symm)

/-- A group past its verdict keeps its record through the states that are (R56, R63). -/
theorem KeepsRecords.enter_within {s : State} {g : Index} {st : GroupState} {r : Reason} {o : Option HoldOrigin}
    (past : passedVerdict (s.ctx g).state) (into : passedVerdict st) : KeepsRecords s (s.enter g st r o) := by
  have ctx := ctx_enter_same s g st r o
  have record : ((s.enter g st r o).ctx g).record = (s.ctx g).record := by
    rw [ctx]
    rcases into with rfl | rfl | rfl <;> rfl
  have width : boundWidth (s.enter g st r o) g = boundWidth s g := boundWidth_enter ..
  refine .at (.enter ..) ⟨fun h _ => ?_, fun h => ⟨record ▸ h.record, by rw [comps_enter]; exact h.loaded⟩⟩
  obtain ⟨lanes, laneMap, comps⟩ := h past
  exact ⟨by rw [width, record]; exact lanes, by rw [record, map_enter]; exact laneMap, by rw [record, comps_enter]; exact comps⟩

/-- Into a state before a verdict, or past one that failed, with the context changed before it. -/
theorem KeepsRecords.enter_after {s u : State} {g : Index} {st : GroupState} {r : Reason} {o : Option HoldOrigin}
    (out : keepsRound st = false) (e : EventAt g s u) (record : (u.ctx g).record = (s.ctx g).record)
    (comps : (u.path g).comps = (s.path g).comps) : KeepsRecords s (u.enter g st r o) := by
  refine .at (e.trans (.enter ..)) (.closed (by rw [state_enter]; exact out) fun h => ⟨?_, ?_⟩)
  · rw [ctx_enter_same]
    exact DiscoveryRecord.InRange.entryRecord (record ▸ h.record) ..
  · rw [comps_enter, comps]
    exact h.loaded

theorem KeepsRecords.enter {s : State} {g : Index} {st : GroupState} {r : Reason} {o : Option HoldOrigin}
    (out : keepsRound st = false) : KeepsRecords s (s.enter g st r o) := .enter_after out (.refl ..) rfl rfl

theorem KeepsRecords.post (s : State) (p : Psc) : KeepsRecords s { s with psc := p } :=
  .quiet (fun _ => rfl) (fun _ => rfl) (fun _ => rfl)

theorem KeepsRecords.quarantine (s : State) (g : Index) (r : Reason) : KeepsRecords s (s.quarantine g r) := .enter rfl

theorem KeepsRecords.holdRemote (s : State) (g : Index) : KeepsRecords s (s.holdRemote g) := .enter rfl

theorem KeepsRecords.toWaiting (s : State) (g : Index) (r : Reason) : KeepsRecords s (s.toWaiting g r) := .enter rfl

theorem KeepsRecords.enterAcquiring (s : State) (g : Index) : KeepsRecords s (s.enterAcquiring g) := by
  have acquiring : KeepsRecords s (s.enter g .acquiring .none none) := .enter rfl
  unfold State.enterAcquiring
  dsimp only
  split
  exacts [acquiring.trans (.enter rfl), acquiring]

theorem KeepsRecords.applyStart (s : State) (g : Index) : KeepsRecords s (s.applyStart g) := by
  unfold State.applyStart
  split
  · exact .enterAcquiring s g
  · split
    exacts [.context rfl rfl rfl, .enter rfl]

/-! ## Lanes, ports, views, actions and identity -/

theorem KeepsRecords.contextLock (s : State) (g : Index) : KeepsRecords s (s.contextLock g) := by
  unfold State.contextLock
  split
  case h_1 | h_2 =>
    split
    exacts [.enter rfl, .refl]
  all_goals exact .refl

theorem KeepsRecords.contextLoss (s : State) (g : Index) : KeepsRecords s (s.contextLoss g) := by
  unfold State.contextLoss
  split
  case h_1 | h_2 | h_3 | h_4 => exact .enter rfl
  all_goals exact .refl

theorem KeepsRecords.portChange (s : State) (g : Index) (e : PortChange) : KeepsRecords s (s.portChange g e) := by
  unfold State.portChange
  split
  · exact .refl
  · exact .applyStart s g
  · split
    · exact .toWaiting ..
    all_goals exact .refl
  all_goals
    split
    · exact .toWaiting ..
    · exact .toWaiting ..
    · exact .applyStart s g
    all_goals exact .refl

/-- A view moves a group past its verdict among the open and agreeing states, or out of them (R101 to R106). -/
theorem KeepsRecords.applyView (s : State) (g : Index) (v : View) : KeepsRecords s (s.applyView g v) := by
  unfold State.applyView
  split
  case h_1 =>
    refine KeepsRecords.record (dr := { (s.ctx g).record with lastView := some v }) (fun _ => ?_) fun range => ⟨range.lanes, range.skew⟩
    exact ⟨rfl, fun _ => rfl, fun _ => rfl, fun _ => rfl⟩
  case h_2 st =>
    cases v with
    | pass => exact .enter_within (.inl st) (.inr (.inl rfl))
    | pending => exact .refl
    | fail | unplanned => exact .quarantine ..
    | held => exact .holdRemote s g
  case h_3 | h_4 =>
    next st =>
    cases v with
    | pass => exact .refl
    | pending => exact .enter_within (by rw [st]; simp [passedVerdict]) (.inl rfl)
    | fail | unplanned => exact .quarantine ..
    | held => exact .holdRemote s g
  case h_5 =>
    split
    case h_5 => exact .refl
    all_goals exact .applyStart s g
  case h_6 =>
    cases v with
    | held => exact .holdRemote s g
    | pass | pending | fail | unplanned => exact .refl
  all_goals exact .refl

theorem KeepsRecords.applyRoundView (s : State) (g : Index) (v : Option View) : KeepsRecords s (s.applyRoundView g v) := by
  cases v
  exacts [.refl, .applyView ..]

theorem KeepsRecords.groupAction (a : GroupAction) (s : State) (g : Index) : KeepsRecords s (a.apply s g).1 := by
  cases a with
  | hold =>
    show KeepsRecords s (s.holdAction g).1
    unfold State.holdAction
    split
    case h_1 | h_2 => exact .refl
    case h_3 => exact .context rfl rfl rfl
    all_goals
      dsimp only
      exact .enter rfl
  | resume =>
    show KeepsRecords s (s.resumeAction g).1
    unfold State.resumeAction
    split
    exacts [.applyStart s g, .refl]
  | recheck =>
    show KeepsRecords s (s.recheckAction g).1
    unfold State.recheckAction
    split
    case h_1 | h_2 | h_3 | h_4 => exact .post ..
    case h_5 => exact .applyStart s g
    all_goals exact .refl

theorem KeepsRecords.contextIdentity (s : State) (g : Index) : KeepsRecords s (s.contextIdentity g) := by
  unfold State.contextIdentity
  split
  case h_8 => exact .applyStart s g
  case h_9 | h_10 => exact .refl
  all_goals exact .enterAcquiring s g

/-! ## Verdicts (R135, R145, R146) -/

/-- A verdict takes its group past it only where the checks pass. -/
theorem checks_of_passedVerdict {s : State} {g : Index} (passed : passedVerdict ((s.verdict g).ctx g).state) :
    (∀ r, (s.judgement g).2 ≠ .quarantined r)
      ∧ ∃ m, checks (s.entry g).fields (s.ctx g).record (s.record g) s.mga.identity g = .ok m := by
  rw [(inState_verdict s g).state, passedVerdict_iff] at passed
  have accepts : ∀ r, (s.judgement g).2 ≠ .quarantined r := fun r is => by
    rw [is] at passed
    cases passed
  refine ⟨accepts, ?_⟩
  cases checked : checks (s.entry g).fields (s.ctx g).record (s.record g) s.mga.identity g with
  | error r => exact absurd (congrArg Prod.snd (judgeRecord_error checked)) (accepts r)
  | ok m => exact ⟨m, rfl⟩

theorem boundWidth_verdict (s : State) (g : Index) : boundWidth (s.verdict g) g = (s.entry g).fields.width.lanes := by
  have bound : ((s.verdict g).ctx g).bound = some (s.entry g).fields := by
    rw [verdict_eq, (ctx_takeOutcome ..).2.1, ctx_judged]
  unfold boundWidth
  rw [bound]
  rfl

/-- A group that passes its verdict has its record whole, and the map and compensations of it loaded (R146, R147). -/
theorem recordInForce_verdict {s : State} {g : Index} (passed : passedVerdict ((s.verdict g).ctx g).state) :
    RecordInForce (s.verdict g) g := by
  obtain ⟨accepts, m, passes⟩ := checks_of_passedVerdict passed
  obtain ⟨laneMap, comps⟩ := map_verdict accepts
  have echoes : EchoesKept (s.ctx g).record (s.judgement g).1 := (judgeRecord_record ..).1
  refine ⟨?_, laneMap, comps⟩
  rw [boundWidth_verdict, record_verdict]
  exact (lanesAgree_of_checks passes).congr echoes.merged echoes.conflicted

/-- The compensations that a verdict leaves in the FSU are those of the record it writes, or those before (R145, R146). -/
theorem GroupInRange.verdict {s : State} {g : Index} (h : GroupInRange s g) : GroupInRange (s.verdict g) g := by
  have record : (s.judgement g).1.InRange := h.record.judgeRecord ..
  refine ⟨by rw [record_verdict]; exact record, fun i => ?_⟩
  by_cases fails : ∃ r, (s.judgement g).2 = .quarantined r
  · obtain ⟨r, is⟩ := fails
    rw [verdict_eq, is, show ((s.judged g).takeOutcome g (.quarantined r)) = (s.judged g).quarantine g r from rfl,
      (kept_quarantine ..).2]
    exact h.loaded i
  · rw [(map_verdict fun r is => fails ⟨r, is⟩).2 i, record_verdict]
    cases comp : (Tab.get (s.judgement g).1.lanes i).comp with
    | none => exact Nat.zero_le 63
    | some n => exact (record.lanes i).comp n comp

theorem KeepsRecords.verdict (s : State) (g : Index) : KeepsRecords s (s.verdict g) :=
  .at (.verdict s g) ⟨fun _ => recordInForce_verdict, GroupInRange.verdict⟩

/-! ## Rounds (R134, R173) -/

theorem KeepsRecords.burstRound {s : State} {r : RoundResult} (st : (s.ctx r.group).state = .discovering) :
    KeepsRecords s (s.burstRound r) := by
  have merged : KeepsRecords s (s.withRecord r.group (burstRecord s r.group r.outcomes)) := by
    refine .record (fun passed => ?_) fun range => ?_
    · rw [st, passedVerdict_iff] at passed
      cases passed
    · have lanes := range.mapLanes (boundWidth s r.group) fun i x h => h.mergeLane s.mga.settings (Tab.get r.outcomes i)
      exact ⟨lanes.lanes, lanes.skew⟩
  rw [burstRound_eq st]
  split
  exacts [merged.trans (.verdict ..), merged]

/-- The windows write lengths and skew, and move an open group between the open states (R176, R177). -/
theorem KeepsRecords.windowStep (s : State) (g : Index) : KeepsRecords s (s.windowStep g) := by
  have measured : ∀ b, KeepsRecords s (s.withRecord g (windowRecord b (portD s g) (s.ctx g).record)) := fun b =>
    .record (fun _ => rulingKept_windowRecord ..) fun range => range.windowRecord ..
  have state : ∀ dr, ((s.withRecord g dr).ctx g).state = (s.ctx g).state := fun dr => by rw [ctx_withRecord]
  unfold State.windowStep
  split
  · next b st _ =>
    have entered : ∀ reason, KeepsRecords (s.withRecord g (windowRecord b (portD s g) (s.ctx g).record))
        (State.enter _ g .degraded reason none) :=
      fun _ => .enter_within (by rw [state]; exact .inr (.inl st)) (.inr (.inr rfl))
    dsimp only
    split
    · exact ((measured b).trans (entered _)).trans (.context rfl rfl rfl)
    · exact measured b
  · next b st _ =>
    have entered : KeepsRecords (s.withRecord g (windowRecord b (portD s g) (s.ctx g).record)) (State.enter _ g .verified .none none) :=
      .enter_within (by rw [state]; exact .inr (.inr st)) (.inr (.inl rfl))
    dsimp only
    split
    · exact (measured b).trans (.context rfl rfl rfl)
    · split
      · exact ((measured b).trans entered).trans (.context rfl rfl rfl)
      · exact (measured b).trans (.context rfl rfl rfl)
  · exact .refl

theorem KeepsRecords.syncGate (s : State) (g : Index) : KeepsRecords s (s.syncGate g) := by
  unfold State.syncGate
  split
  · split
    · exact .refl
    · exact .at (.writeGate ..) (.congr (by rw [ctx_writeGate]) (by rw [ctx_writeGate]) (by rw [ctx_writeGate])
        (by rw [path_writeGate]) (by rw [path_writeGate]))
  · exact .refl

/-- A refreshed binding keeps a group past its verdict only where the checks pass on it, the lanes of its width among them (R175). -/
theorem KeepsRecords.staleStep (s : State) (g : Index) : KeepsRecords s (s.staleStep g).1 := by
  cases stale : (s.ctx g).stale with
  | false =>
    rw [staleStep_fresh stale]
    exact .refl
  | true =>
    cases checked : checks (s.entry g).fields (s.ctx g).record (s.record g) s.mga.identity g with
    | error r =>
      rw [staleStep_fails stale checked]
      exact .enter_after (st := .quarantined) rfl (.refresh s g) (by rw [ctx_refresh]) rfl
    | ok m =>
      rw [staleStep_passes stale checked]
      have width : boundWidth (s.refresh g) g = (s.entry g).fields.width.lanes := by
        unfold boundWidth
        rw [ctx_refresh]
        rfl
      refine .at (.refresh s g) ⟨fun h passed => ?_, fun h => ⟨by rw [ctx_refresh]; exact h.record, h.loaded⟩⟩
      rw [ctx_refresh] at passed
      obtain ⟨-, laneMap, comps⟩ := h passed
      exact ⟨by rw [width, ctx_refresh]; exact lanesAgree_of_checks checked, by rw [ctx_refresh]; exact laneMap,
        by rw [ctx_refresh]; exact comps⟩

/-- A recheck round at an open or agreeing group (R173 to R178). -/
theorem KeepsRecords.openRecheck (s : State) (r : RoundResult) (v : Option View) : KeepsRecords s (s.openRecheck r v) := by
  have first : KeepsRecords s (s.compared r) := .record (fun _ => rulingKept_recheckRecord ..) fun range =>
    range.mapLanes _ fun i x h => h.recheckLane s.mga.settings (Tab.get r.outcomes i)
  unfold State.openRecheck
  dsimp only
  split
  · exact (first.trans (.enter (g := r.group) rfl)).trans (.applyRoundView ..)
  · have checked := first.trans (.staleStep _ r.group)
    unfold State.compared State.withRecord recheckRecord at checked
    split
    · next e =>
      rw [e] at checked
      exact checked.trans (.applyRoundView ..)
    · next e =>
      rw [e] at checked
      have viewed := (checked.trans (.windowStep _ r.group)).trans (.applyRoundView _ r.group v)
      split
      exacts [viewed.trans (.syncGate ..), viewed]

/-- What the result of a round does to its group's record (R124, R125). -/
theorem KeepsRecords.roundResult (s : State) (r : RoundResult) : KeepsRecords s (s.roundResult r) := by
  have recheck : KeepsRecords s (s.recheckRound r) := by
    unfold State.recheckRound
    dsimp only
    split
    case h_1 => exact .applyRoundView ..
    case h_2 | h_3 | h_4 => exact .openRecheck ..
    all_goals exact .refl
  unfold State.roundResult
  split
  · split
    · next st => exact .burstRound st
    · exact .refl
  all_goals exact recheck

theorem KeepsRecords.settle (s : State) (k : Fin 8) (g : Index) (i : Fin 4) (o : LaneOutcome) : KeepsRecords s (s.settle k g i o) := by
  have stored : KeepsRecords s { s with psc := storeOutcome g i o (freeSlot k s.psc) } := .post ..
  unfold State.settle
  dsimp only
  split
  · split
    · exact stored.trans ((KeepsRecords.post ..).trans (.roundResult ..))
    · exact stored
  · exact stored

end Sys2Proof.Machine
end

section
/-! The records of R147 and their ranges through plan writes, resets, and every command and step. -/

namespace Sys2Proof.Machine

/-! ## Plan writes (R25 to R27) -/

/-- A plan entry stored, with the unplanned field of its port, leaves contexts and FSU. -/
theorem KeepsRecords.stored (s : State) (g : Index) (e : PlanEntry) :
    KeepsRecords s ((s.storeEntry g e).recomputeUnplanned (portOf g)) := by
  obtain ⟨-, own, -⟩ := recomputeUnplanned_kept (s.storeEntry g e) (portOf g)
  exact .quiet (fun h => (own h).1) (fun h => by rw [(own h).2]; rfl) fun h => by rw [(own h).2]; rfl

/-- A context bound afresh goes to WAITING, where its record is clear (R26, R58, R60). -/
theorem KeepsRecords.bindAndStart (s : State) (g : Index) (b : PlanFields) : KeepsRecords s (s.bindAndStart g b) := by
  have waits : KeepsRecords s ((s.modCtx g fun c => { c with bound := some b, stale := false }).enter g .waiting .none none) :=
    .enter_after rfl (.modCtx ..) (by rw [ctx_modCtx_same]) rfl
  exact waits.trans (.applyStart _ g)

/-- A disabled context has its compensations returned (R27). -/
theorem KeepsRecords.disableContext (s : State) (g : Index) : KeepsRecords s (s.disableContext g) := by
  have unplanned : KeepsRecords s ((s.modCtx g fun c => { c with bound := none, stale := false }).enter g .unplanned .none none) :=
    .enter_after rfl (.modCtx ..) (by rw [ctx_modCtx_same]) rfl
  have returned : ((s.disableContext g).path g).comps = Tab.fill 0 := by
    unfold State.disableContext
    rw [path_modPath_same]
  refine unplanned.trans (.at (.modPath ..) (.closed ?_ fun h => ⟨h.record, fun i => ?_⟩))
  · unfold State.disableContext
    rw [ctx_modPath, state_enter]
    rfl
  · show Tab.get ((s.disableContext g).path g).comps i ≤ 63
    rw [returned, Tab.get_fill]
    exact Nat.zero_le 63

/-- An accepted plan write, by its kind (R25). -/
theorem KeepsRecords.acceptEntry (s : State) (g : Index) (e : PlanEntry) : KeepsRecords s (s.acceptEntry g e) := by
  have stored : KeepsRecords s (s.storeEntry g e) := .quiet (fun _ => rfl) (fun _ => rfl) fun _ => rfl
  unfold State.acceptEntry
  dsimp only
  split
  · exact (KeepsRecords.stored s g e).trans (.bindAndStart ..)
  · exact (KeepsRecords.stored s g e).trans (.disableContext ..)
  · split
    exacts [stored, stored.trans (.context (g := g) rfl rfl rfl)]
  · exact stored

/-! ## Resets (R20, R82) -/

/-- A part whose groups are all as in reset has R147 and the ranges. -/
theorem KeepsRecords.cleared {s t : State} (ctx : ∀ g, t.ctx g = Context.reset) (comps : ∀ g, (t.path g).comps = Tab.fill 0) :
    KeepsRecords s t where
  each g :=
    .closed (by rw [ctx]; rfl) fun _ =>
      ⟨by rw [ctx]; exact inRange_cleared, fun i => by rw [comps, Tab.get_fill]; exact Nat.zero_le 63⟩

theorem KeepsRecords.assertReset (s : State) : KeepsRecords s s.assertReset :=
  .cleared (fun g => (ctx_assertReset s g).trans (Tab.get_fill ..)) fun g =>
    congrArg GroupPath.comps ((path_assertReset s g).trans (Tab.get_fill ..))

theorem KeepsRecords.softReset (s : State) : KeepsRecords s s.softReset := by
  have clear : KeepsRecords s s.clearForSoftReset := .cleared (ctx_clearForSoftReset s) fun g => by
    rw [path_clearForSoftReset]
    rfl
  have rebuild : ∀ (t : State) g, KeepsRecords t (t.rebuildContext g) := fun t g => by
    unfold State.rebuildContext
    split
    exacts [.bindAndStart .., .refl]
  have rebuilds : KeepsRecords s.clearForSoftReset (rebuilt s) := .fold rebuild indices _
  have kept := softReset_kept s
  exact (clear.trans rebuilds).trans (.quiet kept.ctx (fun g => by rw [kept.path]) fun g => by rw [kept.path])

/-! ## What stays aside of contexts, maps and compensations -/

theorem KeepsRecords.aside {s t : State} (contexts : t.buc.contexts = s.buc.contexts) (paths : t.fsu.paths = s.fsu.paths) :
    KeepsRecords s t :=
  .quiet (fun g => congrArg (Tab.get · g) contexts) (fun g => congrArg (fun p => (Tab.get p g).map) paths)
    fun g => congrArg (fun p => (Tab.get p g).comps) paths

theorem KeepsRecords.frames {s t : State} (h : FramesOnly s t) : KeepsRecords s t := by
  refine .quiet (fun g => by unfold State.ctx; rw [h.buc]) (fun g => ?_) fun g => ?_
  all_goals
    obtain ⟨n, path⟩ := h.path g
    rw [path]

theorem KeepsRecords.endEvent (s before : State) : KeepsRecords s (s.endEvent before) :=
  .quiet (ctx_endEvent s before) (fun g => by rw [path_endEvent]) fun g => by rw [path_endEvent]

theorem KeepsRecords.triggerRead (s : State) : KeepsRecords s s.triggerRead := by
  unfold State.triggerRead
  split <;> exact .aside rfl rfl

theorem KeepsRecords.tick (s : State) : KeepsRecords s s.tick := by
  cases run : s.inReset with
  | true =>
    unfold State.tick
    rw [run]
    exact .refl
  | false =>
    have ctx := ctx_tick s run
    obtain ⟨now, contexts, holds, timer, elapsed, sws, same, -⟩ := tick_only s run
    have path : ∀ g, s.tick.path g = s.path g := fun g => by rw [same]; rfl
    exact ⟨fun g => .congr (by rw [ctx]; rfl) (by rw [ctx]; rfl) (by rw [ctx]; rfl) (by rw [path]) (by rw [path])⟩

/-- A command is nothing while the reset line is asserted. -/
theorem KeepsRecords.of_unlessReset {s t : State} {f : State → State} (run : s.unlessReset f = .next t)
    (keeps : KeepsRecords s (f s)) : KeepsRecords s t := by
  unfold State.unlessReset at run
  cases run
  split
  exacts [.refl, keeps]

/-! ## Frames (R3 to R18) -/

theorem KeepsRecords.systemLead (s : State) (l : Index) (frame : Incoming) : KeepsRecords s (s.systemLead l frame).arbitrate := by
  unfold State.systemLead
  split
  case h_2 => exact .frames (((FramesOnly.setSystemRx ..).trans (.handle ..)).trans (.arbitrate _))
  all_goals exact .frames ((FramesOnly.setSystemRx ..).trans (.arbitrate _))

theorem KeepsRecords.setLineRx (s : State) (l : Index) (r : LineRx) : KeepsRecords s (s.setLineRx l r) := .aside rfl rfl

theorem KeepsRecords.lineLead (s : State) (l : Index) (frame : Incoming) : KeepsRecords s (s.lineLead l frame).arbitrate := by
  unfold State.lineLead
  split
  case h_1 | h_2 => exact (KeepsRecords.setLineRx ..).trans (.frames ((FramesOnly.handle ..).trans (.arbitrate _)))
  all_goals exact (KeepsRecords.setLineRx ..).trans (.frames (.arbitrate _))

theorem KeepsRecords.execLeadWordArrival (side : Side) (p : Fin 16) (j : Fin 4) (frame : Incoming) {s t : State}
    (run : execLeadWordArrival side p j frame s = .next t) : KeepsRecords s t := by
  refine .of_unlessReset run ?_
  cases side
  · exact .systemLead ..
  · dsimp only
    split
    exacts [.lineLead .., .refl]

theorem KeepsRecords.execShortFrameDiscard (side : Side) (p : Fin 16) (j : Fin 4) {s t : State}
    (run : execShortFrameDiscard side p j s = .next t) : KeepsRecords s t := by
  refine .of_unlessReset run ?_
  cases side
  · exact .aside rfl rfl
  · dsimp only
    split
    exacts [.aside rfl rfl, .refl]

theorem KeepsRecords.execDeskewHoldExpiry (p : Fin 16) (j : Fin 4) {s t : State} (run : execDeskewHoldExpiry p j s = .next t) :
    KeepsRecords s t := by
  refine .of_unlessReset run ?_
  split
  · exact .refl
  · next held => exact .frames (FrameEvent.holdEnded _ _ _ held).only

theorem KeepsRecords.execTargetFieldsArrival (p : Fin 16) (j : Fin 4) (target : BitVec 16) {s t : State}
    (run : execTargetFieldsArrival p j target s = .next t) : KeepsRecords s t := by
  refine .of_unlessReset run ?_
  split
  · next waits =>
    split
    exacts [.aside rfl rfl, .frames (FrameEvent.unaddressed _ _ _ waits).only]
  all_goals exact .refl

theorem KeepsRecords.execControlRequestReceived (p : Fin 16) (j : Fin 4) (rest : List Byte) {s t : State}
    (run : execControlRequestReceived p j rest s = .next t) : KeepsRecords s t := by
  refine .of_unlessReset run ?_
  split
  · dsimp only
    split
    · exact .aside rfl rfl
    · split <;> exact .aside rfl rfl
  all_goals exact .refl

theorem KeepsRecords.execFrameUnderWayEnd (side : Side) (p : Fin 16) (j : Fin 4) (abortMark : Bool) {s t : State}
    (run : execFrameUnderWayEnd side p j abortMark s = .next t) : KeepsRecords s t :=
  .of_unlessReset run (.frames (FrameEvent.frameEnded ..).only)

/-! ## Lanes and probes -/

theorem KeepsRecords.setLockView (s : State) (l : Index) (v : LockView) : KeepsRecords s (s.setLockView l v) := .aside rfl rfl

theorem KeepsRecords.lockEvent (s : State) (l : Index) (polarity : Bool) : KeepsRecords s (s.lockEvent l polarity) := by
  unfold State.lockEvent
  dsimp only
  split
  exacts [(KeepsRecords.setLockView ..).trans (.contextLock ..), .setLockView ..]

theorem KeepsRecords.lossEvent (s : State) (l : Index) : KeepsRecords s (s.lossEvent l) := by
  unfold State.lossEvent
  dsimp only
  split
  exacts [(KeepsRecords.setLockView ..).trans (.contextLoss ..), .setLockView ..]

theorem KeepsRecords.viewReport (s : State) (l : Index) (sender : FarEnd) (view : Option View) :
    KeepsRecords s (s.viewReport l sender view) := by
  unfold State.viewReport
  split
  · split
    exacts [.applyView .., .refl]
  · exact .refl

/-- A lane leaves LOCKED (R3). -/
theorem KeepsRecords.loseLock (s : State) (l : Index) (into : RxState) : KeepsRecords s (s.loseLock l into) := by
  have front : KeepsRecords s ((s.setFront l fun f => { f with state := into }).setLineRx l .none) := .aside rfl rfl
  exact (front.trans (.lossEvent _ l)).trans (.endEvent _ s)

theorem KeepsRecords.execSignalDetected (p : Fin 16) (j : Fin 4) {s t : State} (run : execSignalDetected p j s = .next t) :
    KeepsRecords s t := by
  refine .of_unlessReset run ?_
  split
  exacts [.aside rfl rfl, .refl]

theorem KeepsRecords.execSignalLost (p : Fin 16) (j : Fin 4) {s t : State} (run : execSignalLost p j s = .next t) :
    KeepsRecords s t := by
  refine .of_unlessReset run ?_
  split
  exacts [.refl, .aside rfl rfl, .loseLock ..]

theorem KeepsRecords.execLockAchieved (p : Fin 16) (j : Fin 4) (inverted : Bool) {s t : State}
    (run : execLockAchieved p j inverted s = .next t) : KeepsRecords s t := by
  refine .of_unlessReset run ?_
  split
  · refine KeepsRecords.trans (.trans ?_ (.lockEvent _ (cell p j) inverted)) (.endEvent _ s)
    exact .aside rfl rfl
  · exact .refl

theorem KeepsRecords.execLockLost (p : Fin 16) (j : Fin 4) {s t : State} (run : execLockLost p j s = .next t) : KeepsRecords s t := by
  refine .of_unlessReset run ?_
  split
  exacts [.loseLock .., .refl]

theorem KeepsRecords.execProbeReceived (p : Fin 16) (j : Fin 4) (rest : List Byte) {s t : State}
    (run : execProbeReceived p j rest s = .next t) : KeepsRecords s t := by
  refine .of_unlessReset run ?_
  split
  · dsimp only
    split
    · exact .aside rfl rfl
    · refine KeepsRecords.trans (.trans ?_ (.viewReport ..)) (.endEvent _ s)
      exact .aside rfl rfl
  all_goals exact .refl

theorem KeepsRecords.execEchoReceived (p : Fin 16) (j : Fin 4) (rest : List Byte) {s t : State}
    (run : execEchoReceived p j rest s = .next t) : KeepsRecords s t := by
  refine .of_unlessReset run ?_
  split
  · dsimp only
    split
    · exact .aside rfl rfl
    · split
      · exact .aside rfl rfl
      · exact ((KeepsRecords.setLineRx s (cell p j) .none).trans (.settle ..)).trans (.endEvent _ s)
  all_goals exact .refl

theorem KeepsRecords.execProbeDeadlineExpiry (k : Fin 8) {s t : State} (run : execProbeDeadlineExpiry k s = .next t) :
    KeepsRecords s t := by
  refine .of_unlessReset run ?_
  split
  · exact (KeepsRecords.settle ..).trans (.endEvent _ s)
  all_goals exact .refl

theorem KeepsRecords.send (s : State) (side : Side) (l : Index) (f : TxFrame) : KeepsRecords s (s.send side l f) :=
  .aside (congrArg Buc.contexts (buc_send ..)) (fsu_paths_send ..)

theorem KeepsRecords.execProbeDeparture (k : Fin 8) {s t : State} (run : execProbeDeparture k s = .next t) : KeepsRecords s t := by
  refine .of_unlessReset run ?_
  split
  · dsimp only
    split
    exacts [(KeepsRecords.send ..).trans (.post ..), .refl]
  all_goals exact .refl

theorem KeepsRecords.execEchoDeparture (p : Fin 16) (j : Fin 4) {s t : State} (run : execEchoDeparture p j s = .next t) :
    KeepsRecords s t := by
  refine .of_unlessReset run ?_
  split
  · split
    exacts [(KeepsRecords.send s .line (cell p j) _).trans (.aside rfl rfl), .refl]
  · exact .refl

theorem KeepsRecords.execResponseDeparture (p : Fin 16) (j : Fin 4) {s t : State} (run : execResponseDeparture p j s = .next t) :
    KeepsRecords s t := by
  refine .of_unlessReset run ?_
  split
  · split
    exacts [(KeepsRecords.send s .system (cell p j) _).trans (.aside rfl rfl), .refl]
  · exact .refl

/-! ## Timers, the sweep and the chain read -/

theorem KeepsRecords.execLockTimerExpiry (g : Index) {s t : State} (run : execLockTimerExpiry g s = .next t) : KeepsRecords s t := by
  refine .of_unlessReset run ?_
  split
  exacts [(KeepsRecords.quarantine ..).trans (.endEvent _ s), .refl]

theorem KeepsRecords.execAgreementTimerExpiry (g : Index) {s t : State} (run : execAgreementTimerExpiry g s = .next t) :
    KeepsRecords s t := by
  refine .of_unlessReset run ?_
  split
  exacts [(KeepsRecords.quarantine ..).trans (.endEvent _ s), .refl]

theorem KeepsRecords.execRetryTimerExpiry (g : Index) {s t : State} (run : execRetryTimerExpiry g s = .next t) : KeepsRecords s t := by
  refine .of_unlessReset run ?_
  split
  exacts [(KeepsRecords.applyStart ..).trans (.endEvent _ s), .refl]

theorem KeepsRecords.execAgreementPollExpiry (g : Index) {s t : State} (run : execAgreementPollExpiry g s = .next t) :
    KeepsRecords s t := by
  refine .of_unlessReset run ?_
  split
  exacts [((KeepsRecords.post s _).trans (.context (g := g) rfl rfl rfl)).trans (.endEvent _ s), .refl]

theorem KeepsRecords.execSweepStep {s t : State} (run : execSweepStep s = .next t) : KeepsRecords s t := by
  refine .of_unlessReset run ?_
  split
  · exact .refl
  · dsimp only
    split
    · refine KeepsRecords.trans ?_ (.endEvent _ s)
      exact .aside rfl rfl
    · exact .aside rfl rfl

theorem KeepsRecords.execInventoryIntervalExpiry {s t : State} (run : execInventoryIntervalExpiry s = .next t) : KeepsRecords s t := by
  refine .of_unlessReset run ?_
  split
  · exact KeepsRecords.trans (t := { s with ciu := { s.ciu with timer := none } }) (.aside rfl rfl) (.triggerRead _)
  · exact .refl

theorem KeepsRecords.execResetRelease {s t : State} (run : execResetRelease s = .next t) : KeepsRecords s t := by
  unfold Machine.execResetRelease at run
  cases run
  split
  · have released : KeepsRecords s { s with inReset := false } := .aside rfl rfl
    exact (released.trans (.triggerRead _)).trans (.aside rfl rfl)
  · exact .refl

theorem KeepsRecords.takePortChange (s : State) (e : HandedEvent) : KeepsRecords s (s.takePortChange e) :=
  (KeepsRecords.portChange ..).trans (.endEvent _ s)

/-- The handed events that have left their queue are taken in order (R49). -/
theorem KeepsRecords.takeEvents (es rest : List HandedEvent) (s : State) :
    KeepsRecords s (es.foldl State.takePortChange { s with ciu := { s.ciu with handed := rest } }) := by
  have left : KeepsRecords s { s with ciu := { s.ciu with handed := rest } } := .aside rfl rfl
  exact left.trans (.fold .takePortChange es _)

theorem KeepsRecords.takeWaiting (s : State) : KeepsRecords s s.takeWaiting := by
  unfold State.takeWaiting
  split
  · exact .refl
  · next e rest _ => exact .takeEvents [e] rest s

theorem KeepsRecords.execChainReadEnd (bits : List Bool) {s t : State} (run : execChainReadEnd bits s = .next t) :
    KeepsRecords s t := by
  unfold Machine.execChainReadEnd at run
  split at run
  · refine .of_unlessReset run ?_
    split
    · have judged : KeepsRecords s.takeAllWaiting (s.takeAllWaiting.judgeRead bits) := by
        obtain ⟨ciu, notices, same⟩ := judgeRead_only s.takeAllWaiting bits
        rw [same]
        exact .aside rfl rfl
      have after : ∀ u : State, KeepsRecords u u.afterRead := fun u => by
        unfold State.afterRead
        split <;> exact .aside rfl rfl
      exact (((KeepsRecords.takeEvents ..).trans judged).trans (after _)).trans (.takeEvents ..)
    · exact .refl
  · cases run

/-! ## Management -/

/-- A command keeps the records where its body does: its answer is aside. -/
theorem KeepsRecords.execute {s t : State} {mine : ControlRequest → Bool} {c : Command}
    (body : ∀ args, KeepsRecords s (c.body args s).1) (run : s.execute mine c = .next t) : KeepsRecords s t := by
  refine .of_unlessReset run ?_
  split
  · next r _ =>
    split
    · have ran : KeepsRecords s (c.run r s).1 := by
        unfold Command.run
        split
        exacts [body _, .refl]
      exact ran.trans (.aside rfl rfl)
    · exact .refl
  · exact .refl

theorem KeepsRecords.executeRead {s t : State} {mine : ControlRequest → Bool} {c : Command} (same : ∀ args, (c.body args s).1 = s)
    (run : s.execute mine c = .next t) : KeepsRecords s t :=
  .execute (fun args => by rw [same]; exact .refl) run

theorem KeepsRecords.execUnknownCommand {s t : State} (run : execUnknownCommand s = .next t) : KeepsRecords s t := by
  refine .of_unlessReset run ?_
  split
  · split <;> exact .aside rfl rfl
  · exact .refl

theorem KeepsRecords.setIdentity (args : List Byte) (s : State) : KeepsRecords s (setIdentityCommand.body args s).1 := by
  unfold setIdentityCommand
  dsimp only
  split
  · exact .refl
  · refine KeepsRecords.trans ?_ (.endEvent _ s)
    unfold State.storeIdentity
    dsimp only
    split
    · exact .aside rfl rfl
    · refine KeepsRecords.trans ?_ (.fold .contextIdentity indices _)
      exact .aside rfl rfl

theorem KeepsRecords.writePlan (args : List Byte) (s : State) : KeepsRecords s (writePlanCommand.body args s).1 := by
  unfold writePlanCommand
  dsimp only
  split
  · exact .refl
  · split
    exacts [.refl, (KeepsRecords.acceptEntry ..).trans (.endEvent _ s)]

theorem KeepsRecords.writeClass (args : List Byte) (s : State) : KeepsRecords s (writeClassCommand.body args s).1 := by
  unfold writeClassCommand
  dsimp only
  split <;> exact .aside rfl rfl

theorem KeepsRecords.writeProfile (args : List Byte) (s : State) : KeepsRecords s (writeProfileCommand.body args s).1 := by
  unfold writeProfileCommand
  dsimp only
  split
  · exact .refl
  · split <;> exact .aside rfl rfl

theorem KeepsRecords.writeFrameClass (args : List Byte) (s : State) : KeepsRecords s (writeFrameClassCommand.body args s).1 := by
  unfold writeFrameClassCommand
  dsimp only
  split <;> exact .aside rfl rfl

theorem KeepsRecords.sweepControl (args : List Byte) (s : State) : KeepsRecords s (sweepControlCommand.body args s).1 := by
  unfold sweepControlCommand
  dsimp only
  split
  · exact .refl
  · split <;> exact .aside rfl rfl

/-- A group action on every planned context (R191). -/
theorem KeepsRecords.applyAll (a : GroupAction) (s : State) : KeepsRecords s (a.applyAll s).1 := by
  unfold GroupAction.applyAll
  refine List.foldlRecOn (motive := fun x : State × Nat => KeepsRecords s x.1) indices _ .refl fun x kept g _ => ?_
  dsimp only
  split
  exacts [kept.trans (.groupAction ..), kept]

theorem KeepsRecords.groupActionCommand (a : GroupAction) (args : List Byte) (s : State) :
    KeepsRecords s ((groupActionCommand a).body args s).1 := by
  unfold Machine.groupActionCommand
  dsimp only
  split
  · exact .refl
  · split
    · exact .refl
    · split
      · exact (KeepsRecords.groupAction ..).trans (.endEvent _ s)
      · exact (KeepsRecords.applyAll ..).trans (.endEvent _ s)

theorem KeepsRecords.softResetCommand (args : List Byte) (s : State) : KeepsRecords s (softResetCommand.body args s).1 := by
  unfold Machine.softResetCommand
  exact .softReset s

/-! ## Every command and every step -/

/-- Every command keeps R147 and the ranges of each group. -/
theorem exec_keepsRecords (c : Instr) {s t : State} (run : exec c s = .next t) : KeepsRecords s t := by
  cases c with
  | resetAssert =>
    cases run
    exact .assertReset s
  | resetRelease => exact .execResetRelease run
  | signalDetected p j => exact .execSignalDetected p j run
  | signalLost p j => exact .execSignalLost p j run
  | lockAchieved p j inverted => exact .execLockAchieved p j inverted run
  | lockLost p j => exact .execLockLost p j run
  | leadWordArrival d p j frame => exact .execLeadWordArrival d p j frame run
  | shortFrameDiscard d p j => exact .execShortFrameDiscard d p j run
  | targetFieldsArrival p j target => exact .execTargetFieldsArrival p j target run
  | deskewHoldExpiry p j => exact .execDeskewHoldExpiry p j run
  | frameUnderWayEnd d p j abortMark => exact .execFrameUnderWayEnd d p j abortMark run
  | probeReceived p j rest => exact .execProbeReceived p j rest run
  | echoReceived p j rest => exact .execEchoReceived p j rest run
  | probeDeadlineExpiry k => exact .execProbeDeadlineExpiry k run
  | probeDeparture k => exact .execProbeDeparture k run
  | echoDeparture p j => exact .execEchoDeparture p j run
  | responseDeparture p j => exact .execResponseDeparture p j run
  | controlRequestReceived p j rest => exact .execControlRequestReceived p j rest run
  | palertRise => exact .of_unlessReset run (.triggerRead s)
  | inventoryIntervalExpiry => exact .execInventoryIntervalExpiry run
  | chainReadEnd bits => exact .execChainReadEnd bits run
  | lockTimerExpiry g => exact .execLockTimerExpiry g run
  | agreementTimerExpiry g => exact .execAgreementTimerExpiry g run
  | retryTimerExpiry g => exact .execRetryTimerExpiry g run
  | agreementPollExpiry g => exact .execAgreementPollExpiry g run
  | sweepStep => exact .execSweepStep run
  | unknownCommand => exact .execUnknownCommand run
  | setIdentity => exact .execute (fun args => .setIdentity args s) run
  | writePlanEntry => exact .execute (fun args => .writePlan args s) run
  | writeClassEntry => exact .execute (fun args => .writeClass args s) run
  | writeProfile => exact .execute (fun args => .writeProfile args s) run
  | writeFrameClass => exact .execute (fun args => .writeFrameClass args s) run
  | writeSettings => exact .execute (fun _ => .aside rfl rfl) run
  | readNotices => exact .execute (fun _ => .aside rfl rfl) run
  | groupActionHold => exact .execute (fun args => .groupActionCommand .hold args s) run
  | groupActionResume => exact .execute (fun args => .groupActionCommand .resume args s) run
  | groupActionRecheck => exact .execute (fun args => .groupActionCommand .recheck args s) run
  | sweepControl => exact .execute (fun args => .sweepControl args s) run
  | softReset => exact .execute (fun args => .softResetCommand args s) run
  | readPlanEntry => exact .executeRead (fun args => body_readPlan args s) run
  | readClassEntry => exact .executeRead (fun args => body_readClass args s) run
  | readProfile => exact .executeRead (fun args => body_readProfile args s) run
  | readGroup => exact .executeRead (fun args => body_readGroup args s) run
  | readIdentity | readFrameClass | readSettings | readInventory | readCounters => exact .executeRead (fun _ => rfl) run

theorem own_keepsRecords (e : OwnEvent) {s t : State} (run : e.run s = .next t) : KeepsRecords s t := by
  cases e with
  | row c => exact exec_keepsRecords c run
  | portChange =>
    cases run
    exact .takeWaiting s

/-- Every step keeps R147 and the ranges of each group; the queue of commands and the counter of log 2 are no part of them. -/
theorem step_keepsRecords {s t : State} (run : step s = .next t) : KeepsRecords s t := by
  have turned : ∀ queue turn, KeepsRecords s { s with pending := queue, turn := turn } := fun _ _ => .aside rfl rfl
  unfold step at run
  split at run
  · next rest _ => exact (turned rest s.turn).trans (exec_keepsRecords _ run)
  · split at run
    · next own =>
      unfold nextOwn at own
      split at own
      · cases own
      · cases own
        exact own_keepsRecords _ run
      · cases own
        exact (turned s.pending (s.turn + 1)).trans (own_keepsRecords _ run)
    · cases run
      exact .tick s

/-- Settles O58: every part of a step keeps R147 and the ranges at each group. -/
theorem recordsStayConsistent : Obligations.RecordsStayConsistent := by
  unfold Obligations.RecordsStayConsistent
  exact ⟨fun _ _ consistent run => (step_keepsRecords run).openRecords consistent,
    fun _ _ range run => (step_keepsRecords run).ranges range⟩

end Sys2Proof.Machine
end

section
/-! The delay arithmetic of chapter 8: samples and their smoothing (R150 to R156), lengths (R157) and compensations (R160). -/

namespace Sys2Proof.Machine

/-! ## Smoothing (R156) -/

/-- A rise of the estimate is rounded down. -/
theorem smooth_of_le (k : Nat) {E v : Nat} (up : E ≤ v) : smooth k E v = E + (v - E) / 2 ^ k := by
  have rise : Int.tdiv ((v : Int) - E) (2 ^ k) = (((v - E) / 2 ^ k : Nat) : Int) := by
    rw [← Int.ofNat_sub up, Int.natCast_ediv, Int.tdiv_eq_ediv_of_nonneg (Int.natCast_nonneg _)]
    simp
  rw [smooth, rise, ← Nat.cast_add, Int.toNat_natCast]

/-- A fall of the estimate is rounded down too: the quotient is truncated toward zero. -/
theorem smooth_of_ge (k : Nat) {E v : Nat} (down : v ≤ E) : smooth k E v = E - (E - v) / 2 ^ k := by
  have fall : Int.tdiv ((v : Int) - E) (2 ^ k) = -(((E - v) / 2 ^ k : Nat) : Int) := by
    rw [← Int.neg_sub, Int.neg_tdiv, ← Int.ofNat_sub down, Int.natCast_ediv, Int.tdiv_eq_ediv_of_nonneg (Int.natCast_nonneg _)]
    simp
  rw [smooth, fall, ← Int.sub_eq_add_neg, Int.toNat_sub]

/-- A smoothing step stays between the estimate and the sample. -/
theorem smooth_between (k E v : Nat) : min E v ≤ smooth k E v ∧ smooth k E v ≤ max E v := by
  rcases Nat.le_total E v with up | down
  · have part := Nat.div_le_self (v - E) (2 ^ k)
    rw [smooth_of_le k up]
    generalize (v - E) / 2 ^ k = rise at part ⊢
    omega
  · have part := Nat.div_le_self (E - v) (2 ^ k)
    rw [smooth_of_ge k down]
    generalize (E - v) / 2 ^ k = fall at part ⊢
    omega

/-- With smoothing shift 0 the estimate is the latest sample. -/
theorem smooth_zero (E v : Nat) : smooth 0 E v = v := by
  rcases Nat.le_total E v with up | down
  · rw [smooth_of_le 0 up, pow_zero, Nat.div_one]
    omega
  · rw [smooth_of_ge 0 down, pow_zero, Nat.div_one]
    omega

/-- A sample nearer than 2^k sixteenths leaves the estimate as it was. -/
theorem smooth_of_near {k E v : Nat} (above : (v : Int) - E < 2 ^ k) (below : -(2 ^ k : Int) < (v : Int) - E) :
    smooth k E v = E := by
  have unit : (2 ^ k : Int) = ((2 ^ k : Nat) : Int) := by simp
  rw [unit] at above below
  rcases Nat.le_total E v with up | down
  · rw [smooth_of_le k up, Nat.div_eq_of_lt (by omega), Nat.add_zero]
  · rw [smooth_of_ge k down, Nat.div_eq_of_lt (by omega), Nat.sub_zero]

/-! ## Samples (R150 to R155) -/

/-- A sample is suspect if it was clamped at 0 or its turnaround was saturated (R153). -/
theorem sampleSuspect_iff (raw turnaround offset : Nat) :
    sampleSuspect raw turnaround offset = true ↔ (raw : Int) - turnaround - offset < 0 ∨ turnaround = 65535 := by
  simp [sampleSuspect, netSigned]

/-- Settles O29: a sample is taken field by field, and the smoothing step is a rise or a fall by a quotient rounded down. -/
theorem smoothingStep : Obligations.SmoothingStep := by
  unfold Obligations.SmoothingStep
  refine ⟨fun t e r => ⟨fun E old => ?_, fun first => ?_, rfl, ?_, rfl⟩, fun k E v old sample => ?_⟩
  · unfold LaneRecord.takeSample
    rw [old]
    rfl
  · unfold LaneRecord.takeSample
    rw [first]
    rfl
  · unfold LaneRecord.takeSample
    rw [Bool.or_eq_true, sampleSuspect_iff]
  · obtain ⟨least, most⟩ := smooth_between k E v
    exact ⟨smooth_of_le k, smooth_of_ge k, least, most, smooth_le old sample, smooth_zero E v, smooth_of_near⟩

/-! ## Lengths (R157) -/

/-- A length computation writes the length of a lane that has an estimate, and nothing else of the lane. -/
theorem get_withLengths {D W E : Nat} {dr : DiscoveryRecord} {i : Fin 4} (inside : i.val < W)
    (estimate : (Tab.get dr.lanes i).estimate = some E) :
    Tab.get (withLengths D W dr).lanes i = { Tab.get dr.lanes i with length := some (lengthCm E D) } := by
  rw [withLengths, get_mapLanes, if_pos inside]
  simp only [estimate, Option.map_some]

theorem get_withLengths_outside (D : Nat) {W : Nat} (dr : DiscoveryRecord) {i : Fin 4} (outside : W ≤ i.val) :
    Tab.get (withLengths D W dr).lanes i = Tab.get dr.lanes i := by
  rw [withLengths, get_mapLanes, if_neg (Nat.not_lt.2 outside)]

/-- Settles O30: the length is the clamped quotient, written into the lanes of the group alone. -/
theorem lengthFromEstimate : Obligations.LengthFromEstimate := by
  unfold Obligations.LengthFromEstimate
  refine ⟨fun E D _ _ largest => ⟨fun fits => ?_, fun above => ?_, ?_⟩, fun D W dr i E inside estimate => ⟨?_, ?_, rfl⟩⟩
  · exact Nat.min_eq_left fits
  · exact Nat.min_eq_right above.le
  · exact Nat.mul_le_mul_right 6250 largest
  · exact get_withLengths inside estimate
  · exact fun _ => get_withLengths_outside D dr

/-! ## Compensations (R160) -/

/-- A compensation computation uses the largest estimate of the group. -/
theorem comp_withComps {W E most : Nat} {dr : DiscoveryRecord} {i k : Fin 4} (inside : i.val < W)
    (estimate : (Tab.get dr.lanes i).estimate = some E) (hk : k.val < W) (largest : (Tab.get dr.lanes k).estimate = some most)
    (bound : ∀ n x, n.val < W → (Tab.get dr.lanes n).estimate = some x → x ≤ most) :
    (Tab.get (withComps W dr).lanes i).comp = some (compensation most E) := by
  have greatest : maxOf (estimates dr W) = most := by
    refine maxOf_eq (mem_estimates.2 ⟨k, hk, by rw [largest]; rfl⟩) fun x mem => ?_
    obtain ⟨n, hn, rfl⟩ := mem_estimates.1 mem
    cases own : (Tab.get dr.lanes n).estimate with
    | none => exact Nat.zero_le most
    | some y => exact bound n y hn own
  rw [withComps, get_mapLanes, if_pos inside, estimate, greatest]
  rfl

/-- Settles O31: the compensation is the clamped quotient, taken from the largest estimate of the group. -/
theorem compensationFromEstimates : Obligations.CompensationFromEstimates := by
  unfold Obligations.CompensationFromEstimates
  refine ⟨fun maxE E _ => ⟨fun fits => ?_, fun above => ?_, ?_, fun near => ?_⟩, fun W dr i k E maxE inside estimate => ?_⟩
  · exact Nat.min_eq_left fits
  · exact Nat.min_eq_right above.le
  · unfold compensation
    rw [Nat.sub_self]
    rfl
  · exact Nat.min_eq_left (by omega)
  · exact comp_withComps inside estimate

end Sys2Proof.Machine
end

section
/-! Steps 4 and 5 of a recheck at an open group: what a finding and a good round make of it (R176, R177). -/

namespace Sys2Proof.Machine

/-- The windows and the hysteresis keep a gate that agrees with its state (R13). -/
theorem gate_windowStep {s : State} {g : Index} (agrees : (s.path g).gate = gateOf (s.ctx g).state) :
    ((s.windowStep g).path g).gate = gateOf ((s.windowStep g).ctx g).state := by
  rcases (gateFollows_windowStep s g).follows with ⟨path, state⟩ | ⟨-, gate, -⟩
  · rw [path, state, agrees]
  · exact gate

section

variable {s : State} {g : Index} {b : PlanFields}

/-- A finding leaves an open group DEGRADED with its reason and count 0 (R176, R177). -/
theorem inState_windowStep_found {reason : Reason} (bound : (s.ctx g).bound = some b) (origin : (s.ctx g).origin = none)
    (opened : (s.ctx g).state = .verified ∨ (s.ctx g).state = .degraded) (agrees : (s.path g).gate = gateOf (s.ctx g).state)
    (finding : (windowCheck b (portD s g) (s.ctx g).record).2 = some reason) :
    InState (s.windowStep g) g .degraded reason none ∧ ((s.windowStep g).ctx g).goodCount = 0 := by
  have gate := gate_windowStep agrees
  have ctx : ∃ timer poll, (s.windowStep g).ctx g =
      { s.ctx g with
        record := windowRecord b (portD s g) (s.ctx g).record, state := .degraded, reason := reason, origin := none
        goodCount := 0, timer := timer, poll := poll } := by
    rcases opened with st | st
    · exact ⟨none, none, by rw [windowStep_verified_found st bound finding, ctx_enterOpen _ g reason (.inr rfl), ctx_measured]⟩
    · refine ⟨(s.ctx g).timer, (s.ctx g).poll, ?_⟩
      rw [windowStep_degraded_found st bound finding, ctx_modCtx_same, ctx_measured, ← st, ← origin]
  obtain ⟨timer, poll, ctx⟩ := ctx
  rw [ctx] at gate
  exact ⟨⟨by rw [ctx], by rw [ctx], by rw [ctx], gate⟩, by rw [ctx]⟩

/-- An open group has the lengths and the skew of the round in its record, whatever the windows find (R176). -/
theorem record_windowStep (bound : (s.ctx g).bound = some b)
    (opened : (s.ctx g).state = .verified ∨ (s.ctx g).state = .degraded) :
    ((s.windowStep g).ctx g).record = windowRecord b (portD s g) (s.ctx g).record := by
  cases finding : (windowCheck b (portD s g) (s.ctx g).record).2 with
  | some reason =>
    rcases opened with st | st
    · rw [windowStep_verified_found st bound finding, ctx_enterOpen _ g reason (.inr rfl), ctx_measured]
    · rw [windowStep_degraded_found st bound finding, ctx_modCtx_same, ctx_measured]
  | none =>
    rcases opened with st | st
    · rw [windowStep_verified_clear st bound finding, ctx_measured]
    · rw [windowStep_degraded_clear st bound finding]
      split
      · rw [ctx_enterOpen _ g .none (.inl rfl), ctx_measured]
      · rw [ctx_modCtx_same, ctx_measured]

end

/-- Settles O32: each finding degrades, and the rounds without one are those of the hysteresis. -/
theorem windowsAndHysteresis : Obligations.WindowsAndHysteresis := by
  unfold Obligations.WindowsAndHysteresis
  intro s g b bound origin openGate D W dr short long skewed isSkew t
  have opened : (s.ctx g).state = .verified ∨ (s.ctx g).state = .degraded := openGate.imp And.left And.left
  have agrees : (s.path g).gate = gateOf (s.ctx g).state := by
    rcases openGate with ⟨st, gate⟩ | ⟨st, gate⟩ <;> rw [st, gate] <;> rfl
  have found {reason : Reason} (finding : (windowCheck b D (s.ctx g).record).2 = some reason) :=
    inState_windowStep_found bound origin opened agrees finding
  have isShort : short → (windowCheck b D (s.ctx g).record).2 = some .lengthShort := windowCheck_short
  have isLong : ¬short → long → (windowCheck b D (s.ctx g).record).2 = some .lengthLong := windowCheck_long
  have isSkewed : ¬short → ¬long → skewed → (windowCheck b D (s.ctx g).record).2 = some .skew := fun noShort noLong is =>
    (windowCheck_inWindow noShort noLong).trans (if_pos is)
  refine ⟨?_, record_windowStep bound opened, fun is => (found (isShort is)).1, fun noShort is => (found (isLong noShort is)).1,
    fun noShort noLong is => (found (isSkewed noShort noLong is)).1, fun any => ?_, fun noShort noLong level => ?_⟩
  · rintro n ⟨i, j, most, least, hi, largest, hj, smallest, rfl, between⟩
    exact groupSkew_eq hi largest hj smallest between
  · by_cases isOne : short
    · exact (found (isShort isOne)).2
    · by_cases isTwo : long
      · exact (found (isLong isOne isTwo)).2
      · exact (found (isSkewed isOne isTwo ((any.resolve_left isOne).resolve_left isTwo))).2
  · obtain ⟨-, windows⟩ := windowsTaken_windowStep s g
    obtain ⟨-, -, -, clear⟩ := windows b bound
    obtain ⟨stays, counts, restores⟩ := clear noShort noLong level
    refine ⟨stays, counts, fun st enough => ?_⟩
    have ctx := restores st enough
    have gate := gate_windowStep agrees
    rw [ctx] at gate
    exact ⟨⟨by rw [ctx], by rw [ctx], by rw [ctx], gate⟩, by rw [ctx]⟩

end Sys2Proof.Machine
end

section
/-! ROUTINE postings of the part's own: the agreement poll and the steps of the Sweep Scheduler (R164, R167 to R169). -/

namespace Sys2Proof.Machine

/-! ## ROUTINE postings (R110) -/

/-- A ROUTINE posting for a group whose request is pending does nothing. -/
theorem postRequest_routine_pending {g : Index} {p : Psc} (n : Nat) (pending : hasRequest p.queue g = true) :
    postRequest g .routine n p = p := if_pos pending

/-- The request of a ROUTINE posting is in the queue at the end of the event, granted or not. -/
theorem exists_routine_endEvent {t before : State} {g : Index} {n : Nat} {p : Psc} (none : hasRequest p.queue g = false)
    (posted : t.psc = postRequest g .routine n p) :
    ∃ r ∈ (t.endEvent before).psc.queue, r.group = g ∧ r.kind = .routine ∧ r.rounds = 1 := by
  have queued : newRequest g .routine n ∈ t.psc.queue := by
    rw [posted, postRequest_new none]
    exact List.mem_append_right _ (List.mem_singleton_self _)
  exact mem_of_terms (Granted.endEvent t before).psc.terms queued

/-! ## The agreement poll (R164) -/

/-- The agreement poll of a group: a ROUTINE posting, and the interval from its start. -/
def State.pollPosted (s : State) (g : Index) : State :=
  ({ s with psc := postRequest g .routine s.mga.settings.discoveryRounds s.psc } : State).modCtx g fun c =>
    { c with poll := some Config.pollInterval }

theorem exec_agreementPollExpiry {s : State} {g : Index} (run : s.inReset = false) (polls : (s.ctx g).poll ≠ none)
    (agreeing : (s.ctx g).state = .agreeing) : exec (.agreementPollExpiry g) s = .next ((s.pollPosted g).endEvent s) :=
  (unlessReset_running _ run).trans (congrArg Host.Outcome.next (if_pos ⟨Option.isSome_iff_ne_none.2 polls, agreeing⟩))

theorem ctx_pollPosted (s : State) (g : Index) : (s.pollPosted g).ctx g = { s.ctx g with poll := some 2000000 } :=
  ctx_modCtx_same ..

theorem contextMoves_pollPosted (s : State) (g : Index) : ContextMoves g s (s.pollPosted g) :=
  (ContextMoves.post ..).tail (.context _ rfl rfl rfl)

theorem psc_pollPosted (s : State) (g : Index) :
    (s.pollPosted g).psc = postRequest g .routine s.mga.settings.discoveryRounds s.psc := rfl

/-- A poll that posts nothing leaves a settled arbiter settled. -/
theorem grantsSettled_pollPosted {s : State} {g : Index} (settled : GrantsSettled s) (pending : hasRequest s.psc.queue g = true) :
    GrantsSettled (s.pollPosted g) := by
  have psc : (s.pollPosted g).psc = s.psc := (psc_pollPosted s g).trans (postRequest_routine_pending _ pending)
  exact settled.congr (by rw [psc]) (by rw [psc]) (fun k => by rw [psc]) fun h => boundWidth_modCtx rfl h

/-- Settles O37: the poll is a ROUTINE posting at one context, taken to the end of the event. -/
theorem pollPostsWhenNothingIsPending : Obligations.PollPostsWhenNothingIsPending := by
  unfold Obligations.PollPostsWhenNothingIsPending
  intro s g run settled polls agreeing
  have kept := (contextMoves_pollPosted s g).endedAt.kept
  refine ⟨_, exec_agreementPollExpiry run polls agreeing, (ctx_endEvent ..).trans (ctx_pollPosted s g), fun pending => ?_, fun none => ?_,
    kept.others, kept.blocks, kept.receive⟩
  · rw [psc_endEvent_settled s (grantsSettled_pollPosted settled pending), psc_pollPosted, postRequest_routine_pending _ pending]
  · exact exists_routine_endEvent none (psc_pollPosted s g)

/-! ## The search of a sweep step (R168, R169) -/

/-- The index `n` places from the position on, 0 coming after 63. -/
def Sws.indexAt (w : Sws) (n : Nat) : Index := ⟨(w.position.val + n) % 64, Nat.mod_lt _ (by decide)⟩

/-- A sweep counted while the mode stays (R169). -/
def Sws.swept (w : Sws) : Sws :=
  { w with
    remaining := if w.mode = .single then w.remaining - 1 else w.remaining
    completed := satInc w.completed
    flag := true }

/-- The Sweep Scheduler with its position `n` places on, a sweep counted where 63 was passed. -/
def Sws.after (w : Sws) (n : Nat) : Sws :=
  { (if w.position.val + n < 64 then w else w.swept) with position := w.indexAt n }

/-- The Sweep Scheduler at the end of a SINGLE run: OFF at index 0 (R169). -/
def Sws.ended (w : Sws) : Sws :=
  { mode := .off, remaining := 0, position := 0, completed := satInc w.completed, flag := true, timer := none }

/-- The next `n` advances of the position end no SINGLE run. -/
def Sws.RunsFor (w : Sws) (n : Nat) : Prop :=
  w.mode = .continuous ∨ w.mode = .single ∧ (2 ≤ w.remaining ∨ w.position.val + n < 64)

theorem Sws.RunsFor.le {w : Sws} {m n : Nat} (h : w.RunsFor n) (le : m ≤ n) : w.RunsFor m :=
  h.imp_right fun ⟨single, lasts⟩ => ⟨single, lasts.imp_right fun inside => by omega⟩

theorem Sws.RunsFor.ne_off {w : Sws} {n : Nat} (h : w.RunsFor n) : w.mode ≠ .off := by
  rcases h with continuous | ⟨single, -⟩
  · rw [continuous]
    decide
  · rw [single]
    decide

theorem Sws.indexAt_zero (w : Sws) : w.indexAt 0 = w.position := Fin.ext (Nat.mod_eq_of_lt w.position.isLt)

theorem Sws.indexAt_64 (w : Sws) : w.indexAt 64 = w.position :=
  Fin.ext ((Nat.add_mod_right ..).trans (Nat.mod_eq_of_lt w.position.isLt))

theorem nextIndex_indexAt (w : Sws) (n : Nat) : nextIndex (w.indexAt n) = w.indexAt (n + 1) := by
  apply Fin.ext
  show ((w.position.val + n) % 64 + 1) % 64 = (w.position.val + (n + 1)) % 64
  omega

theorem Sws.after_zero (w : Sws) : w.after 0 = w := by
  unfold Sws.after
  rw [Sws.indexAt_zero, Nat.add_zero, if_pos w.position.isLt]

theorem Sws.after_inside {w : Sws} {n : Nat} (inside : w.position.val + n < 64) : w.after n = { w with position := w.indexAt n } := by
  unfold Sws.after
  rw [if_pos inside]

theorem Sws.after_wrapped {w : Sws} {n : Nat} (wrapped : 64 ≤ w.position.val + n) :
    w.after n = { w.swept with position := w.indexAt n } := by
  unfold Sws.after
  rw [if_neg (Nat.not_lt.2 wrapped)]

theorem Sws.after_64 (w : Sws) : w.after 64 = w.swept := by
  rw [Sws.after_wrapped (Nat.le_add_left ..), Sws.indexAt_64]
  rfl

@[simp] theorem Sws.position_after (w : Sws) (n : Nat) : (w.after n).position = w.indexAt n := rfl

@[simp] theorem Sws.mode_after (w : Sws) (n : Nat) : (w.after n).mode = w.mode := by
  unfold Sws.after
  split <;> rfl

theorem advance_before63 {w : Sws} (before : w.position ≠ 63) : advance w = { w with position := nextIndex w.position } :=
  if_neg before

/-- From 63 to 0 a sweep completes, where it is not the last of a SINGLE run (R169). -/
theorem advance_at63 {w : Sws} (last : w.position = 63) (runs : w.mode = .continuous ∨ w.mode = .single ∧ 2 ≤ w.remaining) :
    advance w = { w.swept with position := 0 } := by
  unfold advance Sws.swept
  rw [if_pos last]
  rcases runs with continuous | ⟨single, more⟩
  · simp [continuous]
  · have more : w.remaining - 1 ≠ 0 := by omega
    simp [single, more]

/-- The last sweep of a SINGLE run ends it (R169). -/
theorem advance_at63_ends {w : Sws} (last : w.position = 63) (single : w.mode = .single) (one : w.remaining = 1) :
    advance w = w.ended := by
  unfold advance Sws.ended
  simp [last, single, one]

theorem advance_after {w : Sws} {n : Nat} (runs : w.RunsFor (n + 1)) (few : n < 64) : advance (w.after n) = w.after (n + 1) := by
  by_cases before : (w.after n).position = 63
  · have inside : w.position.val + n = 63 := by
      have at63 : (w.position.val + n) % 64 = 63 := congrArg Fin.val before
      omega
    have stays : (w.after n).mode = .continuous ∨ (w.after n).mode = .single ∧ 2 ≤ (w.after n).remaining := by
      rw [Sws.after_inside (by omega)]
      exact runs.imp_right fun ⟨single, lasts⟩ => ⟨single, lasts.resolve_right (by omega)⟩
    have first : w.indexAt (n + 1) = 0 := Fin.ext (show (w.position.val + (n + 1)) % 64 = 0 by omega)
    rw [advance_at63 before stays, Sws.after_inside (n := n) (by omega), Sws.after_wrapped (n := n + 1) (by omega), first]
    rfl
  · have same : w.position.val + (n + 1) < 64 ↔ w.position.val + n < 64 := by
      have not63 : (w.position.val + n) % 64 ≠ 63 := fun at63 => before (Fin.ext at63)
      omega
    rw [advance_before63 before, Sws.position_after, nextIndex_indexAt]
    simp only [Sws.after, same]

/-- A search passes over indices that are not eligible. -/
theorem sweepSearch_skips {eligible : Index → Bool} {w : Sws} {n : Nat} (none : ∀ m < n, eligible (w.indexAt m) = false)
    (runs : w.RunsFor n) (few : n ≤ 64) (k : Nat) : sweepSearch eligible (n + k) w = sweepSearch eligible k (w.after n) := by
  induction n generalizing k with
  | zero => rw [Nat.zero_add, Sws.after_zero]
  | succ n ih =>
    have skips := ih (fun m lt => none m (by omega)) (runs.le (Nat.le_succ n)) (by omega) (k + 1)
    rw [Nat.succ_add_eq_add_succ, skips, sweepSearch, advance_after runs few, Sws.position_after, none n (Nat.lt_succ_self n),
      if_neg Bool.false_ne_true, Sws.mode_after, if_neg runs.ne_off]

/-- A step that passes over `n` indices begins its search again there. -/
theorem sweepSearch_from {eligible : Index → Bool} {w : Sws} {n : Nat} (none : ∀ m < n, eligible (w.indexAt m) = false)
    (runs : w.RunsFor n) (few : n < 64) : sweepSearch eligible 64 w =
      if eligible (w.indexAt n) then (advance (w.after n), some (w.indexAt n))
      else if (advance (w.after n)).mode = .off then (advance (w.after n), Option.none)
      else sweepSearch eligible (63 - n) (advance (w.after n)) := by
  have skips := sweepSearch_skips none runs few.le (63 - n + 1)
  rwa [show n + (63 - n + 1) = 64 by omega] at skips

theorem sweepSearch_finds {eligible : Index → Bool} {w : Sws} {n : Nat} (none : ∀ m < n, eligible (w.indexAt m) = false)
    (found : eligible (w.indexAt n) = true) (runs : w.RunsFor (n + 1)) (few : n < 64) :
    sweepSearch eligible 64 w = (w.after (n + 1), some (w.indexAt n)) := by
  rw [sweepSearch_from none (runs.le (Nat.le_succ n)) few, if_pos found, advance_after runs few]

theorem sweepSearch_finds_none {eligible : Index → Bool} {w : Sws} (none : ∀ g, eligible g = false) (runs : w.RunsFor 64) :
    sweepSearch eligible 64 w = (w.swept, Option.none) := by
  rw [← Sws.after_64]
  exact sweepSearch_skips (fun m _ => none _) runs le_rfl 0

/-- The last sweep of a SINGLE run with no eligible index before 63: it ends there, whether 63 is eligible or not (R169). -/
theorem sweepSearch_ends {eligible : Index → Bool} {w : Sws} (none : ∀ n, w.position.val + n < 63 → eligible (w.indexAt n) = false)
    (single : w.mode = .single) (one : w.remaining = 1) :
    sweepSearch eligible 64 w = (w.ended, if eligible 63 then some 63 else Option.none) := by
  have inside : w.position.val + (63 - w.position.val) = 63 := Nat.add_sub_cancel' (Nat.le_of_lt_succ w.position.isLt)
  have index : w.indexAt (63 - w.position.val) = 63 := Fin.ext (show _ % 64 = 63 by rw [inside])
  have ends : advance (w.after (63 - w.position.val)) = w.ended := by
    rw [Sws.after_inside (by omega)]
    exact advance_at63_ends (w := { w with position := w.indexAt (63 - w.position.val) }) index single one
  rw [sweepSearch_from (n := 63 - w.position.val) (fun m lt => none m (by omega)) (.inr ⟨single, .inr (by omega)⟩) (by omega), ends,
    index]
  split
  · rfl
  · exact if_pos rfl

/-! ## A step of the Sweep Scheduler (R167, R168) -/

theorem sweepEligible_iff {s : State} {g : Index} : sweepEligible s g = true ↔
    ((s.ctx g).state = .verified ∨ (s.ctx g).state = .degraded ∨ (s.ctx g).state = .held) ∧ hasRequest s.psc.queue g = false := by
  unfold sweepEligible
  cases (s.ctx g).state <;> simp

theorem startStepTimer_off {s : State} (off : s.sws.mode = .off) :
    s.startStepTimer = { s with sws := { s.sws with timer := none } } := by
  unfold State.startStepTimer
  rw [if_pos off]

/-- A step is one search, the posting for the index it selects, and the restart of the step timer (R167, R168). -/
theorem exec_sweepStep {s : State} {ns : Nat} {w w' : Sws} {selected : Option Index} (run : s.inReset = false)
    (timer : s.sws.timer = some ns) (restarts : ({ s with sws := w } : State).startStepTimer = { s with sws := w' })
    (search : sweepSearch (sweepEligible s) 64 s.sws = (w, selected)) :
    exec .sweepStep s = .next (selected.elim { s with sws := w' } fun g =>
      ({ s with sws := w', psc := postRequest g .routine s.mga.settings.discoveryRounds s.psc } : State).endEvent s) := by
  show execSweepStep s = _
  unfold execSweepStep
  rw [unlessReset_running _ run]
  cases selected <;> simp only [timer, search, restarts, Option.elim]

/-- What a step of the Sweep Scheduler that posts for group g does to the rest of the part. -/
structure SweepPosted (s : State) (g : Index) (w : Sws) (t : State) : Prop where
  request : ∃ r ∈ t.psc.queue, r.group = g ∧ r.kind = .routine ∧ r.rounds = 1
  buc : t.buc = s.buc
  others : OthersKept g s t
  receive : ReceiveKept s t
  mga : t.mga = s.mga
  cpt : t.cpt = s.cpt
  ciu : t.ciu = s.ciu
  sws : t.sws = w

theorem OthersKept.setSws (g : Index) (s : State) (w : Sws) : OthersKept g s { s with sws := w } where
  contexts _ _ := rfl
  paths _ _ := rfl
  content side _ := by cases side <;> rfl
  holds _ := rfl
  probes _ _ _ _ := rfl
  requests := rfl
  notices := rfl

theorem ReceiveKept.setSws (s : State) (w : Sws) : ReceiveKept s { s with sws := w } := ⟨rfl, rfl, rfl, rfl, rfl⟩

theorem sweepPosted_endEvent {s : State} {g : Index} (none : hasRequest s.psc.queue g = false) (n : Nat) (w : Sws) :
    SweepPosted s g w (({ s with sws := w, psc := postRequest g .routine n s.psc } : State).endEvent s) := by
  have posted : EventAt g { s with sws := w } { s with sws := w, psc := postRequest g .routine n s.psc } :=
    .postRequest g .routine n { s with sws := w }
  have kept := posted.trans (.ofEndEvent (before := s) fun _ _ => rfl)
  obtain ⟨buc, -⟩ := endEvent_rest { s with sws := w, psc := postRequest g .routine n s.psc } s
  exact ⟨exists_routine_endEvent none rfl, buc, (OthersKept.setSws g s w).trans kept.others, (ReceiveKept.setSws s w).trans kept.receive,
    kept.blocks.mga, kept.blocks.cpt, kept.blocks.ciu, kept.blocks.sws⟩

/-- A step whose search selects an eligible index posts for it. -/
theorem sweepStep_posts {s : State} {ns : Nat} {w w' : Sws} {g : Index} (run : s.inReset = false) (timer : s.sws.timer = some ns)
    (restarts : ({ s with sws := w } : State).startStepTimer = { s with sws := w' })
    (search : sweepSearch (sweepEligible s) 64 s.sws = (w, some g)) : ∃ t, exec .sweepStep s = .next t ∧ SweepPosted s g w' t := by
  have eligible : sweepEligible s g = true := eligible_of_sweepSearch (by rw [search])
  exact ⟨_, exec_sweepStep run timer restarts search, sweepPosted_endEvent (sweepEligible_iff.1 eligible).2 _ w'⟩

/-- A step that finds an eligible index `n` places on, and ends no SINGLE run, posts for it and ends on the index after it. -/
theorem sweepStep_finds {s : State} {ns n : Nat} (run : s.inReset = false) (timer : s.sws.timer = some ns)
    (none : ∀ m < n, sweepEligible s (s.sws.indexAt m) = false) (found : sweepEligible s (s.sws.indexAt n) = true)
    (runs : s.sws.RunsFor (n + 1)) (few : n < 64) :
    ∃ t, exec .sweepStep s = .next t
      ∧ SweepPosted s (s.sws.indexAt n) { s.sws.after (n + 1) with timer := some (1000 * s.mga.settings.sweepInterval) } t :=
  sweepStep_posts run timer (startStepTimer_on (by rw [Sws.mode_after]; exact runs.ne_off)) (sweepSearch_finds none found runs few)

/-- Settles O38: the search in its closed form, and the posting taken to the end of the event. -/
theorem sweepStepSearchesFromItsPosition : Obligations.SweepStepSearchesFromItsPosition := by
  unfold Obligations.SweepStepSearchesFromItsPosition
  intro s ns run timer index eligible posts swept restarted ended
  have passes : ∀ {g}, ¬eligible g → sweepEligible s g = false := fun no =>
    Bool.eq_false_iff.2 fun yes => no (sweepEligible_iff.1 yes)
  have reads : ∀ {g w t}, SweepPosted s g w t → posts g t := fun p =>
    ⟨p.request, p.buc, p.others, p.receive, p.mga, p.cpt, p.ciu⟩
  have stops : ({ s with sws := s.sws.ended } : State).startStepTimer = { s with sws := ended } := startStepTimer_off rfl
  refine ⟨fun runs => ⟨fun n few none found => ?_, fun none => ?_⟩,
    fun single one => ⟨fun n inside none found => ?_, fun none found => ?_, fun none => ?_⟩⟩
  · have lasts : s.sws.RunsFor (n + 1) := runs.imp_right fun ⟨single, more⟩ => ⟨single, .inl more⟩
    obtain ⟨t, exec, posted⟩ :=
      sweepStep_finds run timer (fun m lt => passes (none m lt)) (sweepEligible_iff.2 found) lasts few
    refine ⟨t, exec, reads posted, ?_⟩
    rw [posted.sws]
    by_cases inside : s.sws.position.val + n < 63
    · rw [if_pos inside, Sws.after_inside (by omega)]
      rfl
    · rw [if_neg inside, Sws.after_wrapped (by omega)]
      rfl
  · have lasts : s.sws.RunsFor 64 := runs.imp_right fun ⟨single, more⟩ => ⟨single, .inl more⟩
    exact exec_sweepStep run timer (startStepTimer_on (s := { s with sws := s.sws.swept }) lasts.ne_off)
      (sweepSearch_finds_none (fun g => passes (none g)) lasts)
  · obtain ⟨t, exec, posted⟩ := sweepStep_finds run timer (fun m lt => passes (none m lt)) (sweepEligible_iff.2 found)
      (.inr ⟨single, .inr (by omega)⟩) (by omega)
    refine ⟨t, exec, reads posted, ?_⟩
    rw [posted.sws, Sws.after_inside (by omega)]
    rfl
  · have search := sweepSearch_ends (fun n inside => passes (none n inside)) single one
    rw [if_pos (sweepEligible_iff.2 found)] at search
    obtain ⟨t, exec, posted⟩ := sweepStep_posts run timer stops search
    exact ⟨t, exec, reads posted, posted.sws⟩
  · have search := sweepSearch_ends (fun n inside => passes (none n (by omega))) single one
    have last : ¬eligible 63 := by
      have index : index (63 - s.sws.position.val) = 63 := Fin.ext (show (_ + _) % 64 = 63 by omega)
      exact index ▸ none _ (by omega)
    rw [passes last] at search
    exact exec_sweepStep run timer stops search

end Sys2Proof.Machine
end

section
/-! SWEEP CONTROL (R170, R192). -/

namespace Sys2Proof.Machine

theorem modeOfCode_of_code {a : Byte} {m : SweepMode} (code : a.toNat = m.code) : modeOfCode a = some m := by
  unfold modeOfCode
  cases m <;> rw [code] <;> rfl

theorem modeOfCode_above {a : Byte} (above : 2 < a.toNat) : modeOfCode a = none := by
  unfold modeOfCode
  split
  case h_4 => rfl
  all_goals omega

/-- What SWEEP CONTROL sets: mode, position, flag, remaining count and step timer (R170). -/
theorem setSweep_eq (s : State) (m : SweepMode) (count : Nat) : s.setSweep m count =
    { s with sws :=
        { mode := m, remaining := if m = .single then clamp 1 255 count else 0, position := 0, completed := s.sws.completed, flag := false
          timer := if m = .off then none else some (1000 * s.mga.settings.sweepInterval) } } := by
  cases m <;> rfl

theorem body_sweepControl_read (s : State) : sweepControlCommand.body [] s = (s, .ok (sweepResult s)) := rfl

theorem body_sweepControl_refused {s : State} {a b : Byte} (above : 2 < a.toNat) :
    sweepControlCommand.body [a, b] s = (s, .refuse .mode) := by
  simp [sweepControlCommand, modeOfCode_above above]

theorem body_sweepControl_set {s : State} {a b : Byte} {m : SweepMode} (code : a.toNat = m.code) :
    sweepControlCommand.body [a, b] s = (s.setSweep m b.toNat, .ok (sweepResult (s.setSweep m b.toNat))) := by
  simp [sweepControlCommand, modeOfCode_of_code code, at8]

/-- The count of one byte is raised to 1 where it is 0 (R170). -/
theorem clamp_count (b : Byte) : clamp 1 255 b.toNat = max 1 b.toNat := by
  rw [clamp_eq _ _ _ (by decide), Nat.min_eq_right (Nat.le_of_lt_succ b.isLt)]

/-- Settles O53, form by form. -/
theorem sweepControlSetsTheScheduler : Obligations.SweepControlSetsTheScheduler := by
  unfold Obligations.SweepControlSetsTheScheduler
  intro s r out first code shown
  refine ⟨fun args => ?_, fun a b args => ⟨fun above => ?_, fun m named => ?_⟩⟩
  · exact execute_read sweepControlCommand out first (hasCode_of code) (by rw [args]; rfl) (by rw [args]; exact body_sweepControl_read s)
  · exact execute_read sweepControlCommand out first (hasCode_of code) (by rw [args]; rfl)
      (by rw [args]; exact body_sweepControl_refused above)
  · have run : exec .sweepControl s = _ := execute_body sweepControlCommand out first (hasCode_of code) (by rw [args]; rfl)
    rw [run, args, body_sweepControl_set named, setSweep_eq, clamp_count]
    rfl

end Sys2Proof.Machine
end

section
/-! The Management Agent's request queue and its answers (R182 to R185): requests taken, the answer of an execution, and responses that
depart. -/

namespace Sys2Proof.Machine

/-! ## The request queue -/

theorem readRequest_wellFormed {rest : List Byte} (lead : LeadWord) (target : BitVec 16) (l : Index) (header : 4 ≤ rest.length)
    (short : at8 rest 3 ≤ 120) (carried : at8 rest 3 ≤ rest.length - 4) :
    readRequest lead target l rest = some
      { lead := lead, target := target, tag := BitVec.ofNat 16 (at16 rest 0), code := at8 rest 2
        args := (rest.drop 4).take (at8 rest 3), lane := l } :=
  if_pos ⟨header, short, carried⟩

/-- A well-formed request received whole takes an entry while one is left (R182, R183). -/
theorem exec_controlRequestReceived {s : State} {p : Fin 16} {j : Fin 4} {rest : List Byte} {lead : LeadWord} {target : BitVec 16}
    {r : ControlRequest} (run : s.inReset = false) (rx : Tab.get s.fsu.systemRx (cell p j) = .control lead target)
    (read : readRequest lead target (cell p j) rest = some r) :
    exec (.controlRequestReceived p j rest) s = .next
      (if s.mga.queue.length < 4 then
        { s.setSystemRx (cell p j) .none with mga := { s.mga with queue := s.mga.queue ++ [{ request := r, state := .waiting }] } }
      else s.setSystemRx (cell p j) .none) := by
  show execControlRequestReceived p j rest s = _
  unfold execControlRequestReceived
  rw [unlessReset_running _ run, rx]
  dsimp only
  rw [read]
  rfl

/-- The entries ahead of the first that answers on a lane are passed over (R183). -/
theorem takeResponse_append {l : Index} {pre : List Entry} (post : List Entry) {r : ControlRequest} (bytes : List Byte)
    (lane : r.lane = l) (silent : ∀ e ∈ pre, e.answersOn l = false) :
    takeResponse l (pre ++ { request := r, state := .answering bytes } :: post) = some (bytes, pre ++ post) := by
  induction pre with
  | nil => exact if_pos lane
  | cons e rest ih =>
    have ih := ih fun x mem => silent x (.tail _ mem)
    have passed := silent e (.head _)
    rw [List.cons_append, takeResponse]
    cases state : e.state with
    | waiting => simp [ih]
    | answering other =>
      have elsewhere : e.request.lane ≠ l := by simpa [Entry.answersOn, state] using passed
      simp [ih, elsewhere]

/-- A response departs on its free lane and leaves its entry (R5, R183). -/
theorem exec_responseDeparture {s : State} {p : Fin 16} {j : Fin 4} {bytes : List Byte} {queue : List Entry} (run : s.inReset = false)
    (taken : takeResponse (cell p j) s.mga.queue = some (bytes, queue))
    (free : (Tab.get s.fsu.systemTx (cell p j)).underWay = none) :
    exec (.responseDeparture p j) s = .next
      (({ s with mga := { s.mga with queue := queue } }).send .system (cell p j) (.response bytes)) := by
  show execResponseDeparture p j s = _
  unfold execResponseDeparture
  rw [unlessReset_running _ run, taken]
  exact congrArg Host.Outcome.next (if_pos ((laneFree_iff s .system _).2 free))

/-- Settles O39: a request takes an entry or is discarded, and the first response of a lane is the one that departs. -/
theorem requestsQueueAndResponsesDepart : Obligations.RequestsQueueAndResponsesDepart := by
  unfold Obligations.RequestsQueueAndResponsesDepart
  refine ⟨fun s p j rest lead target run rx header short carried => ?_, fun s p j pre post r bytes run queue lane silent free => ?_⟩
  · have received := exec_controlRequestReceived run rx (readRequest_wellFormed lead target (cell p j) header short carried)
    exact ⟨fun room => received.trans (congrArg Host.Outcome.next (if_pos room)),
      fun full => received.trans (congrArg Host.Outcome.next (if_neg (Nat.not_lt.2 full)))⟩
  · exact exec_responseDeparture run (by rw [queue]; exact takeResponse_append post bytes lane silent) free

/-! ## The answer of an execution -/

theorem broadcast_iff (r : ControlRequest) : r.broadcast = true ↔ r.target.toNat % 16 = 15 := beq_iff_eq

theorem byte_attentionFlags (s : State) [Decidable (s.notices = [])] : byte (attentionFlags s) = if s.notices = [] then 0 else 0x80 := by
  unfold attentionFlags
  by_cases empty : s.notices = []
  · rw [if_pos empty, if_pos (List.isEmpty_iff.2 empty)]
    rfl
  · rw [if_neg empty, if_neg (mt List.isEmpty_iff.1 empty)]
    rfl

/-- An answer to the earliest waiting request: its entry is freed for a domain broadcast, and else answers (R183, R184). -/
theorem respond_append {s : State} {pre post : List Entry} {r : ControlRequest} (a : Reply)
    (queue : s.mga.queue = pre ++ { request := r, state := .waiting } :: post) (ahead : ∀ e ∈ pre, e.state ≠ .waiting) :
    s.respond r a = { s with mga := { s.mga with queue :=
      if r.target.toNat % 16 = 15 then pre ++ post
      else pre ++ { request := r, state := .answering (responseBytes r s.mga.identity a (attentionFlags s)) } :: post } } := by
  unfold State.respond
  rw [queue, answerFirst_append _ _ _ _ ahead]
  by_cases domain : r.target.toNat % 16 = 15
  · rw [if_pos ((broadcast_iff r).2 domain), if_pos domain]
  · rw [if_neg (mt (broadcast_iff r).1 domain), if_neg domain]

/-! ## Requests that are refused (R185) -/

theorem exec_unknownCommand {s : State} {r : ControlRequest} (run : s.inReset = false) (first : earliestWaiting s.mga.queue = some r)
    (unknown : r.code ∉ commandCodes) :
    exec .unknownCommand s = .next (s.respond r { status := .unknownCommand, detail := .none, result := [] }) := by
  show execUnknownCommand s = _
  unfold execUnknownCommand
  rw [unlessReset_running _ run, first]
  exact congrArg Host.Outcome.next (if_neg (mt List.contains_iff_mem.1 unknown))

/-- A row of the table, with its command's code and the argument lengths it takes, refuses every other length with LENGTH. -/
def RefusesLength (x : Instr × Nat × List Nat) : Prop :=
  ∀ (s : State) (r : ControlRequest), s.inReset = false → earliestWaiting s.mga.queue = some r → r.code = x.2.1 →
    r.args.length ∉ x.2.2 → exec x.1 s = .next (s.respond r (.refuse .length))

/-- A command that takes the requests of its code. -/
theorem refusesLength_hasCode {c : Instr} {n : Nat} (command : Command) (row : ∀ s, exec c s = s.execute (hasCode n) command) :
    RefusesLength (c, n, command.lengths) := fun s _ run first code bad =>
  (row s).trans (execute_length command run first (hasCode_of code) bad)

/-- Each row of GROUP ACTION takes a request of a wrong length, whatever its action byte (log 8). -/
theorem refusesLength_groupAction (x : GroupAction) : RefusesLength (x.row, 64, [2]) := fun s r run first code bad => by
  have wrong : r.args.length ≠ 2 := fun e => bad (List.mem_singleton.2 e)
  have own : wantsAction x r = true := by simp [wantsAction, code, wrong]
  exact (exec_row x s).trans (execute_length (groupActionCommand x) run first own bad)

/-- The rows that execute a command, with its code and the argument lengths it takes (10 sections 10.4 to 10.10). -/
def commandRows : List (Instr × Nat × List Nat) :=
  [(.readIdentity, 1, [0]), (.setIdentity, 2, [2]), (.writePlanEntry, 16, [17]), (.readPlanEntry, 17, [1]),
    (.writeClassEntry, 18, [3]), (.readClassEntry, 19, [1]), (.writeProfile, 20, [3]), (.readProfile, 21, [1]),
    (.writeFrameClass, 22, [16]), (.readFrameClass, 23, [0]), (.writeSettings, 32, [17]), (.readSettings, 33, [0]),
    (.readGroup, 48, [1]), (.readInventory, 49, [0]), (.readNotices, 50, [0]), (.readCounters, 51, [0]),
    (.groupActionHold, 64, [2]), (.groupActionResume, 64, [2]), (.groupActionRecheck, 64, [2]), (.sweepControl, 80, [0, 2]),
    (.softReset, 96, [0])]

theorem refusesLength_commandRows : ∀ x ∈ commandRows, RefusesLength x := by
  simp only [commandRows, List.forall_mem_cons]
  exact
    ⟨refusesLength_hasCode readIdentityCommand fun _ => rfl, refusesLength_hasCode setIdentityCommand fun _ => rfl,
      refusesLength_hasCode writePlanCommand fun _ => rfl, refusesLength_hasCode readPlanCommand fun _ => rfl,
      refusesLength_hasCode writeClassCommand fun _ => rfl, refusesLength_hasCode readClassCommand fun _ => rfl,
      refusesLength_hasCode writeProfileCommand fun _ => rfl, refusesLength_hasCode readProfileCommand fun _ => rfl,
      refusesLength_hasCode writeFrameClassCommand fun _ => rfl, refusesLength_hasCode readFrameClassCommand fun _ => rfl,
      refusesLength_hasCode writeSettingsCommand fun _ => rfl, refusesLength_hasCode readSettingsCommand fun _ => rfl,
      refusesLength_hasCode readGroupCommand fun _ => rfl, refusesLength_hasCode readInventoryCommand fun _ => rfl,
      refusesLength_hasCode readNoticesCommand fun _ => rfl, refusesLength_hasCode readCountersCommand fun _ => rfl,
      refusesLength_groupAction .hold, refusesLength_groupAction .resume, refusesLength_groupAction .recheck,
      refusesLength_hasCode sweepControlCommand fun _ => rfl, refusesLength_hasCode softResetCommand fun _ => rfl,
      List.forall_mem_nil _⟩

/-- Settles O40: the answer of the earliest waiting request, and the refusals row by row. -/
theorem executionAnswersItsRequest : Obligations.ExecutionAnswersItsRequest := by
  unfold Obligations.ExecutionAnswersItsRequest
  refine ⟨fun s pre post r a queue ahead => ?_, fun s r run first =>
    ⟨exec_unknownCommand run first, fun x mem => refusesLength_commandRows x mem s r run first⟩⟩
  dsimp only
  rw [respond_append a queue ahead]
  refine ⟨by rw [queue]; exact earliestWaiting_append pre post r ahead, fun domain => ?_, fun unit => ?_⟩
  · rw [if_pos domain]
  · rw [if_neg unit, responseBytes, byte_attentionFlags]
    rfl

end Sys2Proof.Machine
end

section
/-! The Notice Queue: one notice for each subject (R193), and READ NOTICES (R194). -/

namespace Sys2Proof.Machine

/-- The notice pending for a subject is rewritten where it stands (R193). -/
theorem postNotice_pending {pre post : List Notice} {n : Notice} {k : Nat} (others : ∀ x ∈ pre, x.subject ≠ k) (own : n.subject = k)
    (c : NoticeContent) (a : Time) :
    postNotice (pre ++ n :: post) k c a = pre ++ { subject := k, content := c, time := a, coalesced := true } :: post := by
  induction pre with
  | nil =>
    subst own
    exact if_pos rfl
  | cons x rest ih =>
    rw [List.cons_append, postNotice, if_neg (others x (.head _)), ih fun y mem => others y (.tail _ mem), List.cons_append]

/-- The hold origin of a GROUP notice, in its code (R185, R194). -/
theorem originCode_eq (o : Option HoldOrigin) : originCode o = match o with
    | none => 0
    | some .localHold => 1
    | some .remoteHold => 2 := by
  rcases o with _ | origin
  · rfl
  · cases origin <;> rfl

/-- READ NOTICES takes the head of the queue, up to eight notices (R194). -/
theorem body_readNotices (s : State) : readNoticesCommand.body [] s =
    ({ s with notices := s.notices.drop 8 }, .ok (byte (min 8 s.notices.length) :: (s.notices.take 8).flatMap noticeBytes)) := by
  rw [← List.length_take]
  rfl

/-- Settles O54: a posting finds its subject's notice or none, and a notice read is written out byte by byte. -/
theorem noticeQueueKeepsOnePerSubject : Obligations.NoticeQueueKeepsOnePerSubject := by
  unfold Obligations.NoticeQueueKeepsOnePerSubject
  refine ⟨fun q subject content time => ⟨fun absent => ?_, ?_⟩, fun s r run first code args => ?_⟩
  · refine postNotice_fresh (fun mem => ?_) content time
    obtain ⟨n, pending, own⟩ := List.mem_map.1 mem
    exact absent n pending own
  · rintro pre n post rfl others own
    exact postNotice_pending others own content time
  · intro coalesced nine
    have written : noticeBytes = nine := funext fun n => by
      rcases n with ⟨subject, content, time, merged⟩
      cases content with
      | group st reason origin =>
        simp only [noticeBytes, noticeFlags, contentBytes, originCode_eq, Nat.zero_add]
        rfl
      | port x =>
        simp only [noticeBytes, noticeFlags, contentBytes, inventoryBytes, mul_bit]
        rfl
    have answered : exec .readNotices s = _ := execute_body readNoticesCommand run first (hasCode_of code) (by rw [args]; rfl)
    rw [answered, args, body_readNotices, written]
    rfl

end Sys2Proof.Machine
end

section
/-! A step with a command in the queue. -/

namespace Sys2Proof.Machine

/-- The branch of a step that the own events of an idle part (`step_of_nextOwn`, `step_of_nothing_due`) leave: a command at the
front of the queue goes before whatever is due. -/
theorem step_of_front {s : State} {c : Instr} {rest : List Instr} (front : s.pending = c :: rest) :
    step s = exec c { s with pending := rest } := by
  unfold step
  rw [front]

/-- Settles O1: the command written to the front of the queue is the one that the step takes. -/
theorem stepRunsFrontCommand : Obligations.StepRunsFrontCommand := by
  unfold Obligations.StepRunsFrontCommand
  intro c rest s
  have front : ({ s with pending := c :: rest } : State).pending = c :: rest := rfl
  exact step_of_front front

end Sys2Proof.Machine
end
